-- ==== Sys2Proof/Word.lean ====
section
/-! DEFINITION. Word types of the Vousk RKZ-VK880 and register files indexed by a bit field (spec/02, R41). -/
namespace Sys2Proof

/-- A leading or extension word, and a scalar register (R37, R113). -/
abbrev Word := BitVec 64

/-- A register file whose index is a `k`-bit field: every value of the field names a register (R41). -/
abbrev RegFile (k : Nat) (α : Type) := Vector α (2 ^ k)

/-- Reads the register that the field names. -/
def RegFile.read {k : Nat} {α : Type} (r : RegFile k α) (i : BitVec k) : α :=
  Vector.get r i.toFin

/-- Writes the register that the field names. -/
def RegFile.write {k : Nat} {α : Type} (r : RegFile k α) (i : BitVec k) (x : α) : RegFile k α :=
  Vector.set r i.toNat x i.isLt

/-- A register file holding one value everywhere. -/
def RegFile.fill (k : Nat) {α : Type} (x : α) : RegFile k α :=
  Vector.replicate (2 ^ k) x

/-- A register file given by a function of the register number. -/
def RegFile.tab (k : Nat) {α : Type} (f : Nat → α) : RegFile k α :=
  Vector.ofFn (fun i => f i.val)

/-- The register numbered `i`, modulo the size of the file. -/
def RegFile.at' {k : Nat} {α : Type} (r : RegFile k α) (i : Nat) : α :=
  r.read (BitVec.ofNat k i)

/-- Writes the register numbered `i`, modulo the size of the file. -/
def RegFile.put {k : Nat} {α : Type} (r : RegFile k α) (i : Nat) (x : α) : RegFile k α :=
  r.write (BitVec.ofNat k i) x

end Sys2Proof
end

