-- ==== Sys2Proof/Machine/Bits.lean ====
section
/-! DEFINITION. Bit-field, sign-extension and byte-order helpers (spec/00, R6-R9). -/
namespace Sys2Proof.Machine

/-- x[hi:lo] as a number (R6, R9). -/
def bits (x : Nat) (hi lo : Nat) : Nat := (x / 2 ^ lo) % 2 ^ (hi + 1 - lo)

/-- Bit n of x. -/
def bitAt (x n : Nat) : Bool := (x / 2 ^ n) % 2 == 1

/-- x read as a two's-complement number of w bits (R9). -/
def toSigned (w x : Nat) : Int :=
  if bitAt x (w - 1) then (x % 2 ^ w : Nat) - (2 ^ w : Nat) else (x % 2 ^ w : Nat)

/-- wrap(x, n): x modulo 2^n (R9). -/
def wrapInt (w : Nat) (x : Int) : Nat := (x % (2 ^ w : Nat)).toNat

/-- Whether the field [hi:lo] is zero, as a RSV field must be (R6, R54 check 6). -/
def rsv (x : Nat) (hi lo : Nat) : Bool := bits x hi lo == 0

/-- Replaces the field [hi:lo] of x by v (R311). -/
def setBits (x hi lo v : Nat) : Nat :=
  x - bits x hi lo * 2 ^ lo + (v % 2 ^ (hi + 1 - lo)) * 2 ^ lo

/-- The n bytes of x in ascending address order, little-endian (R7). -/
def leBytes : Nat → Nat → List (BitVec 8)
  | 0, _ => []
  | n + 1, x => BitVec.ofNat 8 x :: leBytes n (x / 256)

/-- The number that little-endian bytes hold (R7). -/
def leNat : List (BitVec 8) → Nat
  | [] => 0
  | b :: bs => b.toNat + 256 * leNat bs

/-- The n little-endian bytes at offset o of a byte list, as a number; missing bytes read as 0. -/
def fieldAt (bs : List (BitVec 8)) (o n : Nat) : Nat := leNat ((bs.drop o).take n)

/-- Number of one bits among the low w bits. -/
def popCount : Nat → Nat → Nat
  | 0, _ => 0
  | w + 1, x => x % 2 + popCount w (x / 2)

/-- Number of leading zero bits of a w-bit value. -/
def leadZeros : Nat → Nat → Nat
  | 0, _ => 0
  | w + 1, x => if bitAt x w then 0 else 1 + leadZeros w x

/-- Ceiling of a / b. -/
def ceilDiv (a b : Nat) : Nat := (a + b - 1) / b

/-- The list [f 0, ..., f (n-1)]. -/
def tabulate {α : Type} (n : Nat) (f : Nat → α) : List α := (List.range n).map f

/-- Repeats a state change n times, with the index. -/
def iterate {σ : Type} (n : Nat) (f : Nat → σ → σ) (s : σ) : σ :=
  (List.range n).foldl (fun s i => f i s) s

/-- The number whose bit i, below n, is set where a property holds of i. -/
def fieldsMask (p : Nat → Bool) : Nat → Nat
  | 0 => 0
  | n + 1 => fieldsMask p n + (if p n then 2 ^ n else 0)

/-- Replaces element i of a list by f of it; a list without element i is unchanged. -/
def modifyAt {α : Type} (l : List α) (i : Nat) (f : α → α) : List α :=
  match l[i]? with
  | none => l
  | some x => l.set i (f x)

end Sys2Proof.Machine
end

