-- ==== Sys2Proof/Syntax.lean ====
section
/-! DEFINITION. The instruction set: one constructor for every row of spec/opcode_table.json (spec/02, R37-R62;
spec/13, R326; the event rows of spec/95). Instruction words carry the leading word's common bits and every field of
their format; event rows carry what the spec leaves to the environment or leaves open (log entry 10). -/
namespace Sys2Proof

/-- The bits of a leading word that every instruction shares (R37): the engine tag, the token bits and DLY. -/
structure Hdr where
  eng : BitVec 3
  pushN : Bool
  pushP : Bool
  popN : Bool
  popP : Bool
  dly : BitVec 4
  deriving DecidableEq, Repr

/-- Format SR (R45), bits [41:0] from the high field down. -/
structure FmtSR where
  sd : BitVec 5
  sa : BitVec 5
  sb : BitVec 5
  sc : BitVec 5
  rsv : BitVec 22
  deriving DecidableEq, Repr

/-- Format SI (R46), bits [41:0] from the high field down. -/
structure FmtSI where
  sd : BitVec 5
  sa : BitVec 5
  imm : BitVec 32
  deriving DecidableEq, Repr

/-- Format V (R47), bits [41:0] from the high field down. -/
structure FmtV where
  rm : BitVec 2
  pred : BitVec 3
  pneg : BitVec 1
  vd : BitVec 5
  va : BitVec 5
  vb : BitVec 5
  vc : BitVec 5
  ty : BitVec 4
  ops : BitVec 12
  deriving DecidableEq, Repr

/-- Format P (R48), bits [41:0] from the high field down. -/
structure FmtP where
  pd : BitVec 3
  pa : BitVec 3
  pb : BitVec 3
  sd : BitVec 5
  rsv : BitVec 28
  deriving DecidableEq, Repr

/-- Format M (R49), bits [41:0] from the high field down. -/
structure FmtM where
  acd : BitVec 2
  acs : BitVec 2
  wa : BitVec 4
  wb : BitVec 4
  ty : BitVec 4
  rm : BitVec 2
  flg : BitVec 4
  ops : BitVec 20
  deriving DecidableEq, Repr

/-- Format C (R50), bits [41:0] from the high field down. -/
structure FmtC where
  ch : BitVec 2
  scp : BitVec 3
  ord : BitVec 2
  sd : BitVec 5
  sa : BitVec 5
  sb : BitVec 5
  dr : BitVec 4
  ops : BitVec 16
  deriving DecidableEq, Repr

/-- Format Y (R51), bits [41:0] from the high field down. -/
structure FmtY where
  sd : BitVec 5
  sa : BitVec 5
  sb : BitVec 5
  scp : BitVec 3
  idx : BitVec 4
  ops : BitVec 20
  deriving DecidableEq, Repr

/-- Format K (R52), bits [41:0] from the high field down. -/
structure FmtK where
  sa : BitVec 5
  cf : BitVec 3
  cn : BitVec 1
  lv : BitVec 2
  ops : BitVec 11
  imm : BitVec 20
  deriving DecidableEq, Repr

/-- Format W (R53), bits [41:0] from the high field down. -/
structure FmtW where
  sd : BitVec 5
  sa : BitVec 5
  sb : BitVec 5
  rt : BitVec 4
  ws : BitVec 4
  ops : BitVec 19
  deriving DecidableEq, Repr

/-- A strip instruction word (R326), from the high field down; the operation is the constructor. -/
structure FmtX where
  a : BitVec 2
  b : BitVec 2
  c : BitVec 2
  int : BitVec 1
  sub : BitVec 3
  rm : BitVec 2
  flg : BitVec 1
  pk : BitVec 2
  rsv : BitVec 1
  nm1 : BitVec 12
  deriving DecidableEq, Repr

/-- What a scrub, or the check at a read, finds (R402, R405): a corrected error that counts for no unit, one in a 64 KiB
frame of device memory, one in the register file of a core slot; or data that is lost: the line or granule at an address,
an accumulator of a core, a beat of a route's link. -/
inductive Finding where
  | corrected
  | correctedFrame (frame : Nat)
  | correctedSlot (cl slot : Nat)
  | lostLine (addr : Nat)
  | lostAcc (ci : Nat) (a : BitVec 2)
  | lostBeat (ci : Nat) (route : BitVec 4) (link item : Nat)
  deriving DecidableEq, Repr

/-- A firmware image as the boot ROM finds it (R414): its security version, bytes and signature. -/
structure Image where
  version : Nat
  bytes : List (BitVec 8)
  sig : List (BitVec 8)
  deriving DecidableEq, Repr

/-- How much of a channel's head copy is made at one turn (R235): elems elements, all of them for 0, with the last left of
the bytes it has sent still on their way (log entry 1). -/
structure CopyWork where
  elems : Nat
  left : Nat
  deriving DecidableEq, Repr

/-- The level of a QUIESCE that is decided, and what the members on other packages answer: some false work for this
member, some true nothing left, none not yet known (R292). -/
structure QuiesceNews where
  lvl : Nat
  remote : Option Bool
  deriving DecidableEq, Repr

/-- What the packages of a job report of their members of a level-4 episode (R284-R286): all have arrived or left; one of them
closes the phase with a SYNC, and the smallest nonzero BUDGET of those, or 0; one has an arrival below the level that is not
completed; and one has been killed where SHRINK is 0. -/
structure BarrierNews where
  arrived : Bool
  sync : Bool
  budget : Nat
  unfinished : Bool
  broken : Bool
  deriving DecidableEq, Repr

/-- The group whose join is decided, what the peers report (0 not all of their cores have arrived or left, 1 all have and
their CFG bytes are those of this package, 2 a CFG byte differs, 3 one was killed before it arrived), and how many of their
cores stand before and after this package's in group order (R189, R192). -/
structure JoinNews where
  group : Nat
  remote : Nat
  before : Nat
  after : Nat
  deriving DecidableEq, Repr

/-- The group of a carry that arrives, or of a break notice from another package (R197, R205). -/
structure CarryNews where
  group : Nat
  note : Bool
  deriving DecidableEq, Repr

/-- The rows of spec/opcode_table.json: those with operands in the table's order, then those without. -/
inductive Instr where
  /-- ADD (R116). Writes the 64-bit wrapping sum of two scalar registers to sd. -/
  | add (h : Hdr) (f : FmtSR)
  /-- SUB (R116). Writes the 64-bit wrapping difference of two scalar registers to sd. -/
  | sub (h : Hdr) (f : FmtSR)
  /-- MUL (R116). Writes the low 64 bits of the product of two scalar registers to sd. -/
  | mul (h : Hdr) (f : FmtSR)
  /-- MULH (R116). Writes the high 64 bits of the signed product to sd. -/
  | mulh (h : Hdr) (f : FmtSR)
  /-- MULHU (R116). Writes the high 64 bits of the unsigned product to sd. -/
  | mulhu (h : Hdr) (f : FmtSR)
  /-- DIV (R117). Signed division truncating towards zero, with defined results for zero divisors and overflow. -/
  | div (h : Hdr) (f : FmtSR)
  /-- DIVU (R117). Unsigned division, giving all ones for a zero divisor. -/
  | divu (h : Hdr) (f : FmtSR)
  /-- REM (R117). Signed remainder with the sign of the dividend. -/
  | rem (h : Hdr) (f : FmtSR)
  /-- REMU (R117). Unsigned remainder, giving the dividend for a zero divisor. -/
  | remu (h : Hdr) (f : FmtSR)
  /-- AND (R116). Writes the bitwise AND of two scalars to sd. -/
  | and (h : Hdr) (f : FmtSR)
  /-- OR (R116). Writes the bitwise OR of two scalars to sd. -/
  | or (h : Hdr) (f : FmtSR)
  /-- XOR (R116). Writes the bitwise XOR of two scalars to sd. -/
  | xor (h : Hdr) (f : FmtSR)
  /-- SHL (R116). Shifts left by b[5:0], wrapping to 64 bits. -/
  | shl (h : Hdr) (f : FmtSR)
  /-- SHR (R116). Shifts right logically by b[5:0]. -/
  | shr (h : Hdr) (f : FmtSR)
  /-- SAR (R116). Shifts right arithmetically by b[5:0]. -/
  | sar (h : Hdr) (f : FmtSR)
  /-- CMPEQ (R116). Writes 1 if the two scalars are equal, else 0. -/
  | cmpeq (h : Hdr) (f : FmtSR)
  /-- CMPLT (R116). Writes 1 if sa is less than sb as signed values, else 0. -/
  | cmplt (h : Hdr) (f : FmtSR)
  /-- CMPLTU (R116). Writes 1 if sa is less than sb as unsigned values, else 0. -/
  | cmpltu (h : Hdr) (f : FmtSR)
  /-- SEL (R116). Writes sa if sc is nonzero, else sb. -/
  | sel (h : Hdr) (f : FmtSR)
  /-- MIN (R116). Writes the signed minimum of two scalars. -/
  | min (h : Hdr) (f : FmtSR)
  /-- MAX (R116). Writes the signed maximum of two scalars. -/
  | max (h : Hdr) (f : FmtSR)
  /-- MINU (R116). Writes the unsigned minimum of two scalars. -/
  | minu (h : Hdr) (f : FmtSR)
  /-- MAXU (R116). Writes the unsigned maximum of two scalars. -/
  | maxu (h : Hdr) (f : FmtSR)
  /-- MOV (R116). Copies sa to sd. -/
  | mov (h : Hdr) (f : FmtSR)
  /-- CLZ (R116). Writes the count of leading zero bits of sa. -/
  | clz (h : Hdr) (f : FmtSR)
  /-- POPC (R116). Writes the count of one bits of sa. -/
  | popc (h : Hdr) (f : FmtSR)
  /-- ADDI (R116). Adds a sign-extended 32-bit immediate to sa. -/
  | addi (h : Hdr) (f : FmtSI)
  /-- ANDI (R116). ANDs sa with a sign-extended immediate. -/
  | andi (h : Hdr) (f : FmtSI)
  /-- ORI (R116). ORs sa with a sign-extended immediate. -/
  | ori (h : Hdr) (f : FmtSI)
  /-- XORI (R116). XORs sa with a sign-extended immediate. -/
  | xori (h : Hdr) (f : FmtSI)
  /-- LI (R116). Loads a sign-extended 32-bit immediate into sd. -/
  | li (h : Hdr) (f : FmtSI)
  /-- LIH (R116). Replaces the upper 32 bits of sa with the immediate and writes sd. -/
  | lih (h : Hdr) (f : FmtSI)
  /-- WSET (R120). Writes a whole window register from a base, stride, shape and type after alignment and range checks. -/
  | wset (h : Hdr) (f : FmtY) (e1 : BitVec 64)
  /-- FENCE (R274). Holds the strand until its earlier accesses are performed at the scope and its earlier reads have values. -/
  | fence (h : Hdr) (f : FmtY)
  /-- WAITT (R275). Holds the strand until a timeline's completion counter reaches n, then adds the timeline edges. -/
  | waitt (h : Hdr) (f : FmtY)
  /-- WAITT_TAKE (R275). Advances a software timeline's issue count and returns the new number. -/
  | waittTake (h : Hdr) (f : FmtY)
  /-- WAITT_SIG (R276). Raises a software timeline's completion counter to n. -/
  | waittSig (h : Hdr) (f : FmtY)
  /-- STGACQ_W (R280). Producer acquire: waits until the slot serves the sequence number and returns its window address. -/
  | stgacqW (h : Hdr) (f : FmtY)
  /-- STGACQ_R (R280). Consumer acquire: waits until every producer release of the sequence number and returns the slot address. -/
  | stgacqR (h : Hdr) (f : FmtY)
  /-- STGREL_W (R280). Counts a producer release for the slot of the sequence number. -/
  | stgrelW (h : Hdr) (f : FmtY)
  /-- STGREL_R (R280). Counts a consumer release and recycles the slot to seq + N when all consumers have released. -/
  | stgrelR (h : Hdr) (f : FmtY)
  /-- REP (R314). Issues the next instruction n times with stepped register fields. -/
  | rep (h : Hdr) (f : FmtK)
  /-- TLRD (R277). Reads a timeline's completion counter or issue count into sd. -/
  | tlrd (h : Hdr) (f : FmtY)
  /-- ITRD (R171). Reads a coefficient register or iteration state into sd. -/
  | itrd (h : Hdr) (f : FmtY)
  /-- CSRR (R318). Reads a numbered state register into sd. -/
  | csrr (h : Hdr) (f : FmtY)
  /-- CSRW (R318). Writes a numbered state register, trapping on read-only names or RSV bits. -/
  | csrw (h : Hdr) (f : FmtY)
  /-- SETCF (R302). Waits until every copy of a condition flag is invalid, then writes its value in all three strands. -/
  | setcf (h : Hdr) (f : FmtY)
  /-- PATCH (R310). Adds or updates a patch-overlay entry for a field of the word at a given distance. -/
  | patch (h : Hdr) (f : FmtK)
  /-- PATCHCLR (R310). Removes the overlay entry for one field of one target word. -/
  | patchclr (h : Hdr) (f : FmtK)
  /-- PATCHCLR_ALL (R310). Clears the whole patch overlay after PATCH_LATE checks on every entry. -/
  | patchclrAll (h : Hdr) (f : FmtK)
  /-- NOP (R315). Does nothing beyond its token bits and delay. -/
  | nop (h : Hdr) (f : FmtK)
  /-- LDS (R244). Loads 1 to 8 bytes from a virtual address into sd without conversion. -/
  | lds (h : Hdr) (f : FmtC)
  /-- LDS_W (R244). Loads one window element into sd. -/
  | ldsW (h : Hdr) (f : FmtC)
  /-- STS (R244). Stores the low bytes of a scalar to a virtual address. -/
  | sts (h : Hdr) (f : FmtC)
  /-- STS_W (R244). Stores the low bytes of a scalar into one window element. -/
  | stsW (h : Hdr) (f : FmtC)
  /-- LDTD (R246). Loads and checks a 128-byte tensor descriptor into a d register. -/
  | ldtd (h : Hdr) (f : FmtC)
  /-- COPY (R248). Queues a byte copy, fill or welt-port transfer on a channel and takes tl0 and tl1 numbers. -/
  | copy (h : Hdr) (f : FmtC) (e1 : BitVec 64)
  /-- TCOPY (R250). Queues a converting tensor-box to tile copy, or tile to tensor store, with optional stage release. -/
  | tcopy (h : Hdr) (f : FmtC) (e1 : BitVec 64) (e2 : BitVec 64) (e3 : BitVec 64)
  /-- SCOPY (R255). Queues an indexed gather or scatter of fixed-size elements. -/
  | scopy (h : Hdr) (f : FmtC) (e1 : BitVec 64)
  /-- CCOPY_DEC (R260). Queues decoding of a range of PK1 chunks into consecutive bytes. -/
  | ccopyDec (h : Hdr) (f : FmtC) (e1 : BitVec 64)
  /-- CCOPY_ENC (R259). Queues deterministic PK1 encoding of raw bytes into a stream. -/
  | ccopyEnc (h : Hdr) (f : FmtC) (e1 : BitVec 64)
  /-- PREF (R261). Hints fills of not-present pages or memory-side cache fetches for a range. -/
  | pref (h : Hdr) (f : FmtC)
  /-- COLL (R263). Queues a reduce-scatter, all-gather or all-reduce step over a domain. -/
  | coll (h : Hdr) (f : FmtC) (e1 : BitVec 64) (e2 : BitVec 64)
  /-- DRAIN (R264). Holds the A strand until the channel's earlier copies are visible at .sys. -/
  | drain (h : Hdr) (f : FmtC)
  /-- ATOM (R271). Performs a read-modify-write at the page's home slice and returns the old value. -/
  | atom (h : Hdr) (f : FmtC)
  /-- RED (R271). Sends a non-returning reduction towards the home slice, possibly merged in routers. -/
  | red (h : Hdr) (f : FmtC)
  /-- CAS (R271). Compares and swaps a 32- or 64-bit location at the home slice, returning the old value. -/
  | cas (h : Hdr) (f : FmtC)
  /-- STGCFG (R279). Configures a stage and resets its slot counters. -/
  | stgcfg (h : Hdr) (f : FmtY) (e1 : BitVec 64)
  /-- ESTIM (R317). Records the core's estimate of the task's remaining time. -/
  | estim (h : Hdr) (f : FmtY)
  /-- IPREF (R316). Hints instruction-cache fetch of a range. -/
  | ipref (h : Hdr) (f : FmtY)
  /-- IPIN (R316). Pins a range in an instruction cache or none of it, writing success to a flag. -/
  | ipin (h : Hdr) (f : FmtY)
  /-- IUNPIN (R316). Releases this core's pins of a range. -/
  | iunpin (h : Hdr) (f : FmtY)
  /-- WROUTE (R334). Binds a route's source, strip chain and destinations and enters CONF. -/
  | wroute (h : Hdr) (f : FmtW) (e1 : BitVec 64) (e2 : BitVec 64)
  /-- WROUTE_FREE (R334). Releases a route's bindings and enters FREE. -/
  | wrouteFree (h : Hdr) (f : FmtW) (e1 : BitVec 64) (e2 : BitVec 64)
  /-- WLOAD (R332). Loads a strip's program, constants and table from window space. -/
  | wload (h : Hdr) (f : FmtW)
  /-- WSTART (R335). Starts a configured route, resetting strips and taking a tl4 number. -/
  | wstart (h : Hdr) (f : FmtW)
  /-- WSTOP (R335). Ends a route's source stream, optionally discarding every beat in flight. -/
  | wstop (h : Hdr) (f : FmtW)
  /-- WSTAT (R335). Reads a route's state, spill and beat count into sd. -/
  | wstat (h : Hdr) (f : FmtW)
  /-- MZERO (R154). Zeroes an accumulator as FP32 or INT32 and clears its poison. -/
  | mzero (h : Hdr) (f : FmtM)
  /-- MIDENT (R154). Writes a diagonal accumulator from a coefficient register. -/
  | mident (h : Hdr) (f : FmtM)
  /-- MLDACC (R155). Loads an accumulator from a window, widening exactly. -/
  | mldacc (h : Hdr) (f : FmtM)
  /-- MSTACC (R156). Stores an accumulator into a window with conversion and optional block scales. -/
  | mstacc (h : Hdr) (f : FmtM)
  /-- MMUL (R160). Adds A times B-transpose into an accumulator in grouped exact sums, resumable through mprog. -/
  | mmul (h : Hdr) (f : FmtM)
  /-- MADDA (R164). Adds or subtracts one accumulator into another element-wise. -/
  | madda (h : Hdr) (f : FmtM)
  /-- MSCALE (R164). Multiplies an accumulator by a coefficient element-wise. -/
  | mscale (h : Hdr) (f : FmtM)
  /-- MTRANS (R164). Transposes an accumulator. -/
  | mtrans (h : Hdr) (f : FmtM)
  /-- MNORM_FRO (R165). Writes the correctly rounded Frobenius norm of an accumulator to a coefficient register. -/
  | mnormFro (h : Hdr) (f : FmtM)
  /-- MNORM_MAX (R165). Writes the largest magnitude of an accumulator to a coefficient register. -/
  | mnormMax (h : Hdr) (f : FmtM)
  /-- MNORM_UNIT (R165). Writes the Frobenius norm and divides the accumulator by it. -/
  | mnormUnit (h : Hdr) (f : FmtM)
  /-- KMOV_S (R168). Writes a coefficient register from the low 32 bits of a scalar. -/
  | kmovS (h : Hdr) (f : FmtM)
  /-- KMOV_K (R168). Copies one coefficient register to another. -/
  | kmovK (h : Hdr) (f : FmtM)
  /-- KMOV_IMM (R168). Writes a coefficient register from a widened BF16 immediate. -/
  | kmovImm (h : Hdr) (f : FmtM)
  /-- KLD (R169). Loads up to sixteen coefficient registers from one window row. -/
  | kld (h : Hdr) (f : FmtM)
  /-- MPOLY (R173). Evaluates a matrix polynomial by Horner's rule on a resident tile. -/
  | mpoly (h : Hdr) (f : FmtM)
  /-- MITER (R176). Starts or resumes a Newton-Schulz or Newton-inverse iteration until tolerance, cap or divergence. -/
  | miter (h : Hdr) (f : FmtM)
  /-- VLD (R128). Loads a converted row segment of a window into a vector register. -/
  | vld (h : Hdr) (f : FmtV)
  /-- VST (R128). Stores a vector register into a window row segment with conversion. -/
  | vst (h : Hdr) (f : FmtV)
  /-- VGATH (R129). Gathers one window element per lane by index. -/
  | vgath (h : Hdr) (f : FmtV)
  /-- VSCAT (R129). Scatters one lane per indexed window element, highest lane winning. -/
  | vscat (h : Hdr) (f : FmtV)
  /-- VMOV (R131). Copies active lanes of a vector register. -/
  | vmov (h : Hdr) (f : FmtV)
  /-- VSPLAT (R131). Broadcasts the low bits of a scalar to every element. -/
  | vsplat (h : Hdr) (f : FmtV)
  /-- VEXTR (R131). Extracts one element into a scalar register. -/
  | vextr (h : Hdr) (f : FmtV)
  /-- VADD (R132). Element-wise rounded floating-point addition. -/
  | vadd (h : Hdr) (f : FmtV)
  /-- VSUB (R132). Element-wise rounded floating-point subtraction. -/
  | vsub (h : Hdr) (f : FmtV)
  /-- VMUL (R132). Element-wise rounded floating-point multiplication. -/
  | vmul (h : Hdr) (f : FmtV)
  /-- VFMA (R132). Element-wise fused multiply-add with one rounding. -/
  | vfma (h : Hdr) (f : FmtV)
  /-- VFMS (R132). Element-wise fused multiply-subtract with one rounding. -/
  | vfms (h : Hdr) (f : FmtV)
  /-- VMIN (R132). Element-wise minimum with -0 below +0 and NaN propagation. -/
  | vmin (h : Hdr) (f : FmtV)
  /-- VMAX (R132). Element-wise maximum with -0 below +0 and NaN propagation. -/
  | vmax (h : Hdr) (f : FmtV)
  /-- VABS (R132). Clears the sign bit of each element. -/
  | vabs (h : Hdr) (f : FmtV)
  /-- VNEG (R132). Inverts the sign bit of each element. -/
  | vneg (h : Hdr) (f : FmtV)
  /-- VRCP (R133). Correctly rounded reciprocal per element. -/
  | vrcp (h : Hdr) (f : FmtV)
  /-- VRSQ (R133). Correctly rounded reciprocal square root per element. -/
  | vrsq (h : Hdr) (f : FmtV)
  /-- VSQRT (R133). Correctly rounded square root per element. -/
  | vsqrt (h : Hdr) (f : FmtV)
  /-- VEXP2 (R133). Correctly rounded base-2 exponential per element. -/
  | vexp2 (h : Hdr) (f : FmtV)
  /-- VLOG2 (R133). Correctly rounded base-2 logarithm per element. -/
  | vlog2 (h : Hdr) (f : FmtV)
  /-- VTANH (R134). Hyperbolic tangent by the fixed FP32 sequence. -/
  | vtanh (h : Hdr) (f : FmtV)
  /-- VSIGM (R134). Logistic sigmoid by the fixed FP32 sequence. -/
  | vsigm (h : Hdr) (f : FmtV)
  /-- VCVT (R135). Converts a part of a register between element formats, optionally stochastically. -/
  | vcvt (h : Hdr) (f : FmtV)
  /-- VBSCALE (R136). Applies E8M0 block scales, or their inverses, to elements. -/
  | vbscale (h : Hdr) (f : FmtV)
  /-- VIADD (R137). Element-wise integer addition, wrapping or saturating. -/
  | viadd (h : Hdr) (f : FmtV)
  /-- VISUB (R137). Element-wise integer subtraction, wrapping or saturating. -/
  | visub (h : Hdr) (f : FmtV)
  /-- VIMUL (R137). Element-wise integer multiplication, wrapping or saturating. -/
  | vimul (h : Hdr) (f : FmtV)
  /-- VAND (R137). Lane-wise bitwise AND. -/
  | vand (h : Hdr) (f : FmtV)
  /-- VOR (R137). Lane-wise bitwise OR. -/
  | vor (h : Hdr) (f : FmtV)
  /-- VXOR (R137). Lane-wise bitwise XOR. -/
  | vxor (h : Hdr) (f : FmtV)
  /-- VSHL (R138). Element-wise left shift by register or immediate amount. -/
  | vshl (h : Hdr) (f : FmtV)
  /-- VSHR (R138). Element-wise logical right shift. -/
  | vshr (h : Hdr) (f : FmtV)
  /-- VSAR (R138). Element-wise arithmetic right shift. -/
  | vsar (h : Hdr) (f : FmtV)
  /-- VCMP (R139). Compares lanes and writes predicate bits of active lanes. -/
  | vcmp (h : Hdr) (f : FmtV)
  /-- VSEL (R131). Selects each lane from va or vb by a predicate. -/
  | vsel (h : Hdr) (f : FmtV)
  /-- VPERM (R131). Permutes lanes by an index register. -/
  | vperm (h : Hdr) (f : FmtV)
  /-- VBCAST (R131). Broadcasts one element of a register to every element. -/
  | vbcast (h : Hdr) (f : FmtV)
  /-- VSLIDE (R131). Slides elements across the concatenation of two registers. -/
  | vslide (h : Hdr) (f : FmtV)
  /-- VRED (R140). Reduces active lanes to a scalar by exact sum, maximum or minimum. -/
  | vred (h : Hdr) (f : FmtV)
  /-- VTOPK (R141). Selects the top k active lanes by value with their indices. -/
  | vtopk (h : Hdr) (f : FmtV)
  /-- VRAND (R142). Writes reproducible random bits or uniform FP32 values to active lanes. -/
  | vrand (h : Hdr) (f : FmtV)
  /-- PAND (R143). Bitwise AND of two predicates. -/
  | pand (h : Hdr) (f : FmtP)
  /-- POR (R143). Bitwise OR of two predicates. -/
  | por (h : Hdr) (f : FmtP)
  /-- PXOR (R143). Bitwise XOR of two predicates. -/
  | pxor (h : Hdr) (f : FmtP)
  /-- PNOT (R143). Bitwise complement of a predicate. -/
  | pnot (h : Hdr) (f : FmtP)
  /-- PCNT (R143). Counts the one bits of a predicate into a scalar. -/
  | pcnt (h : Hdr) (f : FmtP)
  /-- PSET (R143). Writes a predicate from a 64-bit extension word. -/
  | pset (h : Hdr) (f : FmtP) (e1 : BitVec 64)
  /-- SCANCFG (R191). Sets the configuration byte of a scan group index. -/
  | scancfg (h : Hdr) (f : FmtY)
  /-- SCANJOIN (R192). Arrives at a join of a scan group in a domain and holds the strand until it is decided. -/
  | scanjoin (h : Hdr) (f : FmtY)
  /-- SCANLEAVE (R193). Leaves a scan group once the current generation has retired everywhere. -/
  | scanleave (h : Hdr) (f : FmtY)
  /-- SCAN (R199). Runs a local scan pass, exchanges carries along the lacing and writes the final prefixes. -/
  | scan (h : Hdr) (f : FmtV)
  /-- SCANTOT (R201). Waits for and returns the group total of the latest scan generation. -/
  | scantot (h : Hdr) (f : FmtV)
  /-- APPEND (R289). Appends or deduplicates a record on a work list and returns its status. -/
  | append (h : Hdr) (f : FmtY)
  /-- WLPOP (R290). Pops the head record of a work list or reports EMPTY. -/
  | wlpop (h : Hdr) (f : FmtY)
  /-- NEST (R304). Starts a counted loop level, walking the body when the count is zero. -/
  | nest (h : Hdr) (f : FmtK)
  /-- ENDN (R304). Advances a loop counter and branches back while below the bound. -/
  | endn (h : Hdr) (f : FmtK)
  /-- BR (R305). Consumes the strand's copy of a condition flag and branches on it. -/
  | br (h : Hdr) (f : FmtK)
  /-- JMP (R305). Jumps to a PC-relative target. -/
  | jmp (h : Hdr) (f : FmtK)
  /-- JMP_REG (R306). Jumps all three strands through the jump slot to a register target. -/
  | jmpReg (h : Hdr) (f : FmtK)
  /-- CALL (R305). Pushes the return address and jumps to a PC-relative target. -/
  | call (h : Hdr) (f : FmtK)
  /-- CALL_REG (R306). Pushes the return address and jumps through the jump slot. -/
  | callReg (h : Hdr) (f : FmtK)
  /-- RET (R305). Pops the return stack into the PC. -/
  | ret (h : Hdr) (f : FmtK)
  /-- EXIT (R307). Stops the strand; once all three have exited, the core leaves its domains and groups and clears its overlay and pins. -/
  | exit (h : Hdr) (f : FmtK)
  /-- ARRIVE (R284). Arrives at the next barrier episode of the level-L domain. -/
  | arrive (h : Hdr) (f : FmtY)
  /-- WAITB (R284). Waits for completion of the episode of the strand's latest arrival. -/
  | waitb (h : Hdr) (f : FmtY)
  /-- SYNC (R284). Arrives and waits at the level-L barrier, closing the domain's phase. -/
  | sync (h : Hdr) (f : FmtY)
  /-- DMSET (R286). Records a pending domain identifier for level L. -/
  | dmset (h : Hdr) (f : FmtY)
  /-- QUIESCE (R292). Enters termination detection for a domain's work lists and reports termination or work in a flag. -/
  | quiesce (h : Hdr) (f : FmtY)
  /-- YIELD (R315). Freezes the core here if a checkpoint of the task has been decided. -/
  | yield (h : Hdr) (f : FmtK)
  /-- BRK (R315). Traps BRK with a code. -/
  | brk (h : Hdr) (f : FmtK)
  /-- TRAP (R315). Traps TRAP with a number. -/
  | trap (h : Hdr) (f : FmtK)
  /-- ILLEGAL_WORD (R61). A word with an invalid engine tag or unassigned opcode reached by a strand traps ILLEGAL_OP. -/
  | illegalWord (chk : BitVec 8)
  /-- X_PASS (R327). Strip step passing the input beat unchanged. -/
  | xPass (x : FmtX)
  /-- X_IDLE (R327). Strip waits exactly N issue clk. -/
  | xIdle (x : FmtX)
  /-- X_ADD (R327). Strip step adding two lane operands. -/
  | xAdd (x : FmtX)
  /-- X_MUL (R327). Strip step multiplying two lane operands. -/
  | xMul (x : FmtX)
  /-- X_FMA (R327). Strip step fused multiply-add in FP32. -/
  | xFma (x : FmtX)
  /-- X_MAX (R327). Strip step lane maximum. -/
  | xMax (x : FmtX)
  /-- X_MIN (R327). Strip step lane minimum. -/
  | xMin (x : FmtX)
  /-- X_ACC (R327). Strip step accumulating into acc, emitting after N steps with EMIT. -/
  | xAcc (x : FmtX)
  /-- X_CMP (R327). Strip step comparing lanes to an all-ones or zero mask. -/
  | xCmp (x : FmtX)
  /-- X_SEL (R327). Strip step selecting lanes by a mask operand. -/
  | xSel (x : FmtX)
  /-- X_CVT (R328). Strip step converting, packing or unpacking lanes to a narrow type. -/
  | xCvt (x : FmtX)
  /-- X_SCALE (R327). Strip step scaling lanes by a power of two from an E8M0 byte. -/
  | xScale (x : FmtX)
  /-- X_LUT (R329). Strip step interpolating a 257-entry lookup table. -/
  | xLut (x : FmtX)
  /-- STRIP_END_MARK (R331). The end mark reaches a strip, which completes or drops its step and passes the mark on. -/
  | stripEndMark (cl ws : Nat)
  /-- MO_BEAT (R321). An MO source port forms a beat from one accumulator row. -/
  | moBeat (ci rt : Nat)
  /-- VO_SLOT (R321). A VO port acquires a stage slot, emits its beats and releases it as a consumer. -/
  | voSlot (ci rt : Nat)
  /-- VI_SLOT (R322). A VI port acquires a stage slot, writes beats into it and releases it as a producer. -/
  | viSlot (ci rt dst : Nat)
  /-- TRANSPOSE_BLOCK (R323). A transpose unit emits a transposed 64-beat block once complete and its output has room. -/
  | transposeBlock (cl u : Nat)
  /-- ROUTE_DONE (R336). Every destination has taken all beats and the end mark; the route's tl4 number completes and it returns to CONF. -/
  | routeDone (ci rt : Nat)
  /-- WATCHDOG_EXPIRY (R339). No beat moved for WDOG clk: the monitor grows the smallest full link or builds the wait-for graph. -/
  | watchdogExpiry (ctx cl : Nat)
  /-- WAIT_STANDSTILL (R340). Token, flag, stage, barrier, scan or slip waits stand still for WDOG clk and the wait-for graph is built. -/
  | waitStandstill (ctx : Nat)
  /-- COPY_RUN (R235). A channel serves its next accepted copy, making its accesses in element order. -/
  | copyRun (ci ch : Nat) (w : CopyWork)
  /-- PHASE_COPY_SLOT (R239). A phase copy's slot elapses after the opening SYNC release and it may start, counting lateness if late. -/
  | phaseCopySlot (ci ch : Nat)
  /-- TIMELINE_COMPLETE (R228). An operation numbered on a timeline becomes done and the completion counter advances. -/
  | timelineComplete (ci tl : Nat)
  /-- TCOPY_STAGE_RELEASE (R252). A TCOPY's last write becomes visible at .cl and it releases its stage. -/
  | tcopyStageRelease (ci ch : Nat)
  /-- PAGE_FILL (R266). An access to a not-present backed page is held and the paging firmware starts a fill. -/
  | pageFill (ctx va : Nat)
  /-- FILL_DONE (R266). A fill completes: the entry is made present and held accesses proceed, or fault on failure. -/
  | fillDone (ctx va frame : Nat) (ok : Bool)
  /-- COW_RESOLVE (R374). Hardware-mode firmware copies a COW frame, rewrites the entry, invalidates and resumes the core. -/
  | cowResolve (ci frame : Nat)
  /-- HOME_ATOMIC (R231). An ATOM, CAS or merged RED is performed indivisibly at the home slice. -/
  | homeAtomic (i : Nat)
  /-- MERGE_BUFFER_FORWARD (R273). A router merge entry is forwarded towards the home within 64 clk of creation. -/
  | mergeBufferForward (i : Nat)
  /-- HOME_LIST_OP (R289). An APPEND or WLPOP is performed at the work list's home, one at a time in arrival order. -/
  | homeListOp (i : Nat)
  /-- BARRIER_RELEASE (R284). A barrier episode completes when every member has arrived or left and releases them together. -/
  | barrierRelease (ci lvl : Nat) (remote : BarrierNews)
  /-- QUIESCE_DECISION (R292). Quiescence ends with termination for all members, or with work for a member. -/
  | quiesceDecision (ci : Nat) (q : QuiesceNews)
  /-- SCAN_JOIN_DECISION (R192). A scan join is decided once every domain core has arrived, exited or been killed. -/
  | scanJoinDecision (ci : Nat) (j : JoinNews)
  /-- SCAN_CARRY_ARRIVAL (R197). A scan carry arrives along the lacing at a member's eyelet. -/
  | scanCarryArrival (ci : Nat) (y : CarryNews)
  /-- SCAN_TOTAL_ARRIVAL (R198). The group total reaches a member's group-total buffer. -/
  | scanTotalArrival (ci g : Nat)
  /-- CORE_FREEZE_RECORD (R389). Once in-flight work of a frozen core has finished, the trap record is taken and the trap event is raised. -/
  | coreFreezeRecord (ci recPA : Nat)
  /-- KICK (R347). An 8-byte kick write updates SUBSEEN, marks an unmapped queue pending, or causes OVERRUN. -/
  | kick (qid seq : Nat)
  /-- EVCONS (R423). Host write of the largest consumed event number, releasing waiting events. -/
  | evcons (v : Nat)
  /-- REGISTER_WRITE_IGNORED (R421). A write to RSV BAR space, a status mirror, a malformed kick or a wrong doorbell number is ignored. -/
  | registerWriteIgnored (off : Nat) (data : List (BitVec 8))
  /-- HOST_POSTED_WRITE (R234). A posted write from the host into device memory or a BAR page is performed at .sys. -/
  | hostPostedWrite (bar : Bool) (addr : Nat) (data : List (BitVec 8)) (poisoned : Bool)
  /-- UNSUPPORTED_REQUEST (R420). A PCIe request of an unsupported kind is completed as Unsupported Request. -/
  | unsupportedRequest (kind : Nat)
  /-- BIND (R353). Binding checks the record, takes clusters, writes remap tables and starts the cores. -/
  | bind (place : List Nat)
  /-- PEER_JOB_START (R355). Cores of a peer task start once every package of the job has bound its peer. -/
  | peerJobStart (job : Nat)
  /-- SHARE_REPORT (R307). An exited core's share is reported to the completion tree once its copies, REDs and APPENDs are done. -/
  | shareReport (ci : Nat)
  /-- LAUNCH_COMPLETE (R356). The package completes a launch, frees clusters, advances COMPLETED, writes status and raises MSI-X. -/
  | launchComplete (t : Nat)
  /-- QUEUE_AUDIT (R410). Every 2^20 clk each queue's status and invariants are checked, rewriting or entering RESYNC. -/
  | queueAudit (qid : Nat)
  /-- DRAIN_STOP_POINT (R360). A draining victim reaches its stop point; the device waits for its channels and saves it. -/
  | drainStopPoint (t : Nat)
  /-- DRAIN_LIMIT_EXPIRY (R360). A drain not stopped within the drain limit is decided again. -/
  | drainLimitExpiry (t : Nat)
  /-- CHECKPOINT (R361). Every core of a victim is frozen at once for a save. -/
  | checkpoint (t : Nat)
  /-- KILL (R363). A victim's cores are frozen, its clusters released and the launch completed KILLED. -/
  | kill (t : Nat)
  /-- CONTEXT_SAVE (R399). Once the drain counters are zero, the image is written with MAGIC last and the task enters its resume list. -/
  | contextSave (t : Nat)
  /-- RESUME_BIND (R364). A selected saved task binds onto clusters matching its lasts and its remap tables are rewritten. -/
  | resumeBind (t : Nat) (place : List Nat)
  /-- RESTORE (R401). An image is checked and loaded, MAGIC cleared and every strand resumed. -/
  | restore (t : Nat)
  /-- INVAL_RANGE (R379). Invalidation command for a VA range of one ASID. -/
  | invalRange (cmd : List (BitVec 8))
  /-- INVAL_ASID (R379). Invalidation command for a whole ASID. -/
  | invalAsid (cmd : List (BitVec 8))
  /-- INVAL_ALL (R379). Invalidation command for every ASID. -/
  | invalAll (cmd : List (BitVec 8))
  /-- REGISTER_OBJECT (R386). Mailbox command 0x01: checks a Turip object and maps its sections, or writes a refusal record. -/
  | registerObject (base : Nat)
  /-- FNMODE_APPLY (R413). A requested FNMODE bit takes effect at its quiescent point and an event is written. -/
  | fnmodeApply (b : Nat)
  /-- RETIRE (R424). Mailbox command 0x0E: retires a frame, core slot or cluster. -/
  | retire (frame base : Nat)
  /-- FRAME_RETIRE (R408). A frame reaching its error threshold is copied, remapped, invalidated and listed. -/
  | frameRetire (old frame base : Nat)
  /-- UNCORRECTABLE_CORE_STATE (R404). An uncorrectable error in unmarked core state traps POISON as not resumable. -/
  | uncorrectableCoreState (ci k : Nat)
  /-- PATROL_SCRUB (R405). Patrol scrubbing reads and corrects SRAM and device memory on its period; a finding is corrected or lost. -/
  | patrolScrub (found : Finding)
  /-- POWER_CAP_ADJUST (R385). The power manager sets each die's issue duty at a window boundary against the power cap. -/
  | powerCapAdjust (watts : Nat) (duties : List Nat)
  /-- THERMAL_ACTION (R427). A die reaching 95 or 105 degrees lowers issue duty and raises event 0xA0. -/
  | thermalAction (die tenths : Nat)
  /-- TELEMETRY_PERIOD (R429). Each 2^30 clk period a telemetry record is written or sent as an event. -/
  | telemetryPeriod (watts tenths : Nat)
  /-- COLD_RESET (R428). Cold reset verifies firmware, reads the defect map, trains links and sets READY. -/
  | coldReset (fuses : List Nat) (pkg : Nat) (others : List Nat) (images : List Image)
  /-- WALKED_WORD (R38). A strand walks past a leading word whose ENG names another strand: it fetches the word, advances its PC and dwc by 1 + XW under the slip bound, and may fault on the fetch or wait for a fill. -/
  | walkedWord (w : BitVec 64)
  /-- CORE_SLOT_RETIREMENT (R407). A core slot reaching its retirement threshold becomes not bindable once its task completes or is saved, or in host-assisted mode raises event 0x11. -/
  | coreSlotRetirement (die cl slot : Nat)
  /-- CLUSTER_HARD_FAILURE (R407). A hard failure of a cluster's pool, crossbar, welt or supervisor makes all its slots not bindable. -/
  | clusterHardFailure (die cl : Nat)
  /-- REMOTE_COPY_ARRIVAL (R238). A remote copy, COLL step or remote atomic from another package arrives over the scale-out network into this package's window space or memory under the peer context, or fails when no peer is resident or the cluster is closed. -/
  | remoteCopyArrival (kind job cl addr : Nat) (data : List (BitVec 8))
  /-- DIE_TO_DIE_LINK_FAILURE (R406). A die-to-die link fails beyond link-level retry, a job-interrupting failure. -/
  | dieToDieLinkFailure (edge : Nat)
  /-- SCALE_OUT_PORT_FAILURE (R406). A scale-out Ethernet port fails or goes down, interrupting jobs with level-4 peers and changing the ports-up bitmap of telemetry. -/
  | scaleOutPortFailure (port : Nat)
  /-- HOME_MIGRATION_WINDOW (R269). At the end of each 2^20 clk window, regions dominated by another die move their atomic home. -/
  | homeMigrationWindow
  /-- EVENT_WRITE (R393). An event record is written to the host event ring when flow control allows, and MSI-X vector 0 is raised. -/
  | eventWrite
  /-- QS_WAKE (R348). The queue-scheduler firmware wakes on a kick-bitmap bit or an idle queue and unmaps and maps queues. -/
  | qsWake
  /-- QS_PERIODIC_WAKE (R348). The 2^18 clk wake of the queue scheduler, which may swap one queue. -/
  | qsPeriodicWake
  /-- SELECTION (R351). The distributor commits to the highest-priority fitting head, reads its record and advances CONSUMED. -/
  | selection
  /-- INVAL_ACK (R379). Once accesses through removed translations have drained, ACKSEQ is written to ACKPA. -/
  | invalAck
  /-- DEREGISTER_OBJECT (R387). Mailbox command 0x02: unmaps an unused object and invalidates its ranges. -/
  | deregisterObject
  /-- REGISTER_QUEUE (R344). Mailbox command 0x03: registers or replaces a user queue. -/
  | registerQueue
  /-- SET_PBIAS (R346). Mailbox command 0x04: sets a queue's priority offset. -/
  | setPbias
  /-- SET_CONTEXT_DESCRIPTOR (R366). Mailbox command 0x05 with WHAT 0: writes a context descriptor under the PART and ASID rules. -/
  | setContextDescriptor
  /-- SET_TIME_SHARE_TABLE (R382). Mailbox command 0x05 with WHAT 1: writes the time-share table. -/
  | setTimeShareTable
  /-- CONTINUE (R392). TRAPACT action 0: resumes a trapped core from its possibly edited record. -/
  | continue
  /-- KILLCORE (R394). TRAPACT action 1: kills a trapped core. -/
  | killcore
  /-- ENDTASK (R392). TRAPACT action 2: ends the task with code FAULTED. -/
  | endtask
  /-- SAVEACK (R400). Mailbox command 0x07: after an aborted save, names an area or ends the task. -/
  | saveack
  /-- RESYNC (R411). Mailbox command 0x08: leaves RESYNC or error stop with a new SUBSEEN. -/
  | resync
  /-- QRESET (R412). Mailbox command 0x09: kills a queue's running and saved launches and resets SUBSEEN. -/
  | qreset
  /-- FNSET (R413). Mailbox command 0x0A: requests function-mode changes and names the telemetry buffer. -/
  | fnset
  /-- ATTEST (R415). Mailbox command 0x0B: writes a signed attestation report. -/
  | attest
  /-- EVRING (R393). Mailbox command 0x0C: registers or moves the host event ring. -/
  | evring
  /-- MAPQ (R424). Mailbox command 0x0D: maps or unmaps a queue in host-assisted mapping. -/
  | mapq
  /-- SETDUTY (R424). Mailbox command 0x0F: sets a die's issue duty in host-assisted power capping. -/
  | setduty
  /-- CORESTATE (R424). Mailbox command 0x10: writes a frozen core's state block and trap record to memory. -/
  | corestate
  /-- UNKNOWN_COMMAND (R423). A mailbox command with an unassigned code, or any but ATTEST before READY, is refused. -/
  | unknownCommand
  /-- SHARE_WINDOW (R383). At each 4,096 clk window boundary grant counts restart and a new table or duty takes effect. -/
  | shareWindow
  /-- THERMAL_POWER_OFF (R427). 115 degrees or coolant loss powers the module off and every context is lost. -/
  | thermalPowerOff
  /-- FUNCTION_LEVEL_RESET (R428). A PCIe FLR ends every task, discards queues and images, clears FNMODE and sets READY. -/
  | functionLevelReset
  /-- POWER_DELIVERY_TRIP (R406). A power delivery trip removes supply from the module and every context is lost. -/
  | powerDeliveryTrip
  deriving DecidableEq, Repr

end Sys2Proof
end

