-- ==== Sys2Proof/Machine/Fields.lean ====
section
/-! DEFINITION. Check 6 of R54, entry by entry: reserved fields, reserved codes and values an entry forbids. -/
namespace Sys2Proof.Machine

/-- The bits of x outside a mask are zero. -/
def within (x mask : Nat) : Bool := x &&& mask == x

/-- A scope code that is not reserved (R42). -/
def scpOk (x : BitVec 3) : Bool := x.toNat < 5

/-- Annotation rule of R220 for an access that may carry the codes in `ok`; with no annotation SCP must be 0. -/
def annOk (f : FmtC) (ok : List Nat) : Bool :=
  scpOk f.scp && (if f.ord == 0 then f.scp == 0 else ok.contains f.ord.toNat)

/-- A copy's annotation: only .rel (R220); SCP is the visibility scope. -/
def copyAnn (f : FmtC) : Bool := scpOk f.scp && (f.ord == 0 || f.ord == 2)

/-- DLY is RSV when ENG is not 2, and a tag-3 word has no token bits (R37, R39). -/
def hdrOk (h : Hdr) : Bool := h.eng == 2 || h.dly == 0

/-- Fields an SR entry leaves unused (R45). -/
def srOk (f : FmtSR) (useB useC : Bool) : Bool :=
  f.rsv == 0 && (useB || f.sb == 0) && (useC || f.sc == 0)

/-- Format V: which of RM, va, vb, vc the entry uses, and the mask of its OPS bits (R127). -/
def vOk (f : FmtV) (rm va vb vc : Bool) (mask : Nat) : Bool :=
  (rm || f.rm == 0) && (va || f.va == 0) && (vb || f.vb == 0) && (vc || f.vc == 0) && within f.ops.toNat mask
    && !(f.ty == 13 || f.ty == 14)

/-- Format Y: which of sd, sa, sb, SCP the entry uses, the bound of IDX and the mask of OPS (R51). -/
def yOk (f : FmtY) (sd sa sb scp : Bool) (idx mask : Nat) : Bool :=
  (sd || f.sd == 0) && (sa || f.sa == 0) && (sb || f.sb == 0) && (if scp then scpOk f.scp else f.scp == 0)
    && f.idx.toNat < idx && within f.ops.toNat mask

/-- Format M: which fields the entry uses (R153). -/
def mOk (f : FmtM) (acd acs wa wb ty rm : Bool) (flg mask : Nat) : Bool :=
  (acd || f.acd == 0) && (acs || f.acs == 0) && (wa || f.wa == 0) && (wb || f.wb == 0)
    && (if ty then !(f.ty == 13 || f.ty == 14) else f.ty == 0) && (rm || f.rm == 0)
    && within f.flg.toNat flg && within f.ops.toNat mask

/-- Format K: which fields the entry uses (R52). -/
def kOk (f : FmtK) (sa cf cn lv : Bool) (ops imm : Nat) : Bool :=
  (sa || f.sa == 0) && (cf || f.cf == 0) && (cn || f.cn == 0) && (lv || f.lv == 0)
    && within f.ops.toNat ops && within f.imm.toNat imm

/-- Format W: which fields the entry uses (R53). -/
def wOk (f : FmtW) (sd sa sb rt ws : Bool) (mask : Nat) : Bool :=
  (sd || f.sd == 0) && (sa || f.sa == 0) && (sb || f.sb == 0) && (rt || f.rt == 0) && (ws || f.ws == 0)
    && within f.ops.toNat mask

/-- Format P (R48). -/
def pOk (f : FmtP) (pd pb sd : Bool) : Bool :=
  f.rsv == 0 && (if pd then f.pd != 0 else f.pd == 0) && (pb || f.pb == 0) && (sd || f.sd == 0)

/-- An extension word's DW, SW and SLOT fields as COPY lays them out (R247). -/
def copyExtOk (e sk dk : Nat) : Bool :=
  (dk == 1 || rsv e 37 34) && (sk == 1 || rsv e 33 30) && (bitAt e 29 || rsv e 28 17)

/-- COPY (R247). A register field a form does not use is RSV (R41). -/
def copyOk (f : FmtC) (e : Nat) : Bool :=
  let o := f.ops.toNat
  let sk := bits o 15 14
  let dk := bits o 13 12
  copyAnn f && f.dr == 0 && rsv o 9 0 && sk != 3 && dk != 3 && (!bitAt o 11 || sk == 0)
    && (dk != 2 || f.sd == 0) && (sk != 2 || f.sa == 0)
    && (if bitAt o 10 then rsv e 16 0 else f.sb == 0) && copyExtOk e sk dk

/-- A type code that stochastic rounding may target in a copy (R106). -/
def srTarget (ty : Nat) : Bool := [1, 3, 4, 6, 7].contains ty

/-- TCOPY (R249, R251, R252, R253). -/
def tcopyOk (f : FmtC) (e1 e2 e3 : Nat) : Bool :=
  let o := f.ops.toNat
  let scm := bits o 12 11
  let cty := bits e3 63 60
  let dir := bitAt e2 33
  let stgv := bitAt e2 19
  let welt := bitAt e2 11
  copyAnn f && scm != 3 && rsv o 8 0 && rsv e1 15 0 && rsv e2 10 0 && rsv e3 59 32
    && cty != 13 && cty != 14 && (!welt || (rsv e2 37 34 && !dir)) && (bitAt e2 32 || rsv e2 31 20)
    && (if stgv then !dir && !welt else f.sd == 0 && rsv e2 18 16)
    && (!bitAt o 13 || rsv o 10 9)
    && (if cty == 15 then scm == 0
        else (scm == 1 || rsv e3 31 0) && (scm == 2 || rsv e2 15 12)
          && (!(cty == 5 || cty == 7) || scm == 2) && (scm != 2 || (3 ≤ cty && cty ≤ 7))
          && (!bitAt o 13 || dir || srTarget cty))

/-- SCOPY (R254). -/
def scopyOk (f : FmtC) (e : Nat) : Bool :=
  let o := f.ops.toNat
  copyAnn f && f.dr == 0 && bits o 15 14 < 2 && bits o 13 12 < 2 && rsv o 11 0 && rsv e 7 0
    && bits e 11 8 ≤ 12 && copyExtOk e (bits o 15 14) (bits o 13 12)

/-- CCOPY in the direction ENC (R260). -/
def ccopyOk (f : FmtC) (e : Nat) (enc : Bool) : Bool :=
  let o := f.ops.toNat
  copyAnn f && f.dr == 0 && bits o 15 14 < 2 && bits o 13 12 < 2 && bitAt o 11 == enc && rsv o 8 0
    && (enc || rsv o 10 9) && rsv e 16 0 && copyExtOk e (bits o 15 14) (bits o 13 12)

/-- COLL (R262); the condition on R, the number of ranks, is checked at issue. -/
def collOk (f : FmtC) (e1 e2 : Nat) : Bool :=
  let o := f.ops.toNat
  let lvl := bits o 15 13
  let kind := bits o 12 11
  let op := bits o 10 8
  let sty := bits e1 63 60
  let dty := bits e1 59 56
  copyAnn f && f.dr == 0 && 1 ≤ lvl && lvl ≤ 4 && kind != 3 && op ≤ 3 && rsv o 7 0 && lvl ≤ f.scp.toNat
    && rsv e1 40 0 && rsv e2 31 0 && bits e1 52 51 < 2 && bits e1 50 49 < 2
    && (bits e1 52 51 == 1 || rsv e1 48 45) && (bits e1 50 49 == 1 || rsv e1 44 41)
    && sty != 13 && sty != 14 && dty != 13 && dty != 14 && (op != 3 || (3 ≤ sty && sty ≤ 7 && rsv e1 55 54))
    && (!(dty == 5 || dty == 7) || op == 3) && (kind != 1 || op == 0)

/-- ATOM and RED: an operation with a type it accepts, reserved type codes aside (R271). -/
def aopTyOk (red : Bool) (aop ty : Nat) : Bool :=
  if aop ≤ 8 && !(red && aop == 8) then
    if ty == 11 || ty == 12 then true else ty == 0 && [0, 4, 5, 8].contains aop
  else false

/-- The values an AOP field may hold, with FP32 the four that accept it (R271): a value its entry forbids fails check 6
(log entry 42). -/
def aopOk (red : Bool) (aop ty : Nat) : Bool :=
  aop ≤ 8 && !(red && aop == 8) && ty != 13 && ty != 14 && (ty != 0 || [0, 4, 5, 8].contains aop)

/-- SCANCFG's CFG byte: an operator, AOUT as the operator has it, and no RSV bit (R188, R191; log entry 42). -/
def scanCfgOk (cfg : Nat) : Bool :=
  cfg / 32 ≤ 5 && !bitAt cfg 0 && (cfg / 32 == 4 || bitAt cfg 1 == (cfg / 32 == 5))

/-- STGCFG's extension word: the value checks made under check 6 (R279, step 1). -/
def stgWordOk (e : Nat) : Bool :=
  1 ≤ bits e 15 8 && bits e 15 8 ≤ 64 && 1 ≤ bits e 7 0 && bits e 7 0 ≤ 64 && 16 ≤ bits e 37 20

/-- A port code's kind as a route's source, and its slot (R320, R334). -/
def srcKindOk (code : Nat) : Bool :=
  [0, 3, 5, 6, 7].contains (bits code 8 6) && (bits code 8 6 < 6 || rsv code 5 0)

/-- The extension words of WROUTE (R334), given word 1 after CHR substitution. -/
def wrouteOk (e1 e2 : Nat) : Bool :=
  let ns := bits e1 54 52
  let kind := bits e1 63 61
  let dk := bits e2 63 61
  let nd := bits e2 9 7 + 1
  srcKindOk (bits e1 63 55) && ns ≤ 4
    && (List.range 4).all (fun j => j < ns || rsv e1 (51 - 4 * j) (48 - 4 * j))
    && (kind == 3 || rsv e1 35 33) && (kind == 0 || rsv e1 32 31) && rsv e1 30 0
    && [1, 2, 4, 6, 7].contains dk && (dk == 2 || rsv e2 60 58)
    && (List.range 8).all (fun j => j < nd || rsv e2 (57 - 6 * j) (52 - 6 * j))
    && (dk < 6 || (nd == 1 && rsv e2 57 52)) && rsv e2 6 0

/-- Numbers of readable CSRs (R318). -/
def csrKnown (n : Nat) : Bool :=
  n ≤ 9 || (0xC ≤ n && n ≤ 0xF) || (0x10 ≤ n && n ≤ 0x1F) || (0x21 ≤ n && n ≤ 0x24) || (0x28 ≤ n && n ≤ 0x2B)

/-- Numbers of writable CSRs (R318). -/
def csrWritable (n : Nat) : Bool := n ≤ 5 || (0x10 ≤ n && n ≤ 0x1F)

/-- WAITT's three forms (R275): op 0 wait, 1 take, 2 sig. -/
def waittOk (h : Hdr) (f : FmtY) (op : Nat) : Bool :=
  let o := f.ops.toNat
  bits o 18 17 == op && f.sb == 0 && f.scp == 0 && f.idx.toNat < 8 && !bitAt o 16
    && (if op == 1 then !bitAt o 19 && f.sa == 0 && rsv o 15 0 && 5 ≤ f.idx.toNat && h.eng != 1
        else f.sd == 0 && (if bitAt o 19 then f.sa == 0 else rsv o 15 0) && (op == 0 || 5 ≤ f.idx.toNat))

/-- LDS and STS (R243, R220); both forms take the annotation of their access. -/
def ldstOk (f : FmtC) (w : Bool) (ann : Nat) : Bool :=
  let o := f.ops.toNat
  let ty := bits o 14 11
  f.ch == 0 && bitAt o 15 == w && ty != 13 && ty != 14
    && annOk f [ann] && (if w then rsv o 10 0 else f.sb == 0 && f.dr == 0)

/-- MMUL's field limits (R157, R159): reserved sources, unused fields, K, scale mode and scale register. -/
def mmulOk (f : FmtM) : Bool :=
  let o := f.ops.toNat
  let asrc := bits o 19 18
  let bsrc := bits o 17 16
  let sm := bits f.flg.toNat 2 1
  let accA := asrc == 1 || asrc == 2
  let accB := bsrc == 1 || bsrc == 2
  asrc != 3 && f.rm == 0 && !bitAt f.flg.toNat 0 && !(f.ty == 13 || f.ty == 14)
    && (asrc == 0 || f.wa == 0) && (bsrc == 0 || f.wb == 0) && (accA || accB || f.acs == 0)
    && (!(accA || accB) || bits o 11 0 < 64)
    && (if f.ty == 15 then sm == 0
        else sm != 3 && (sm != 0 || rsv o 15 12) && (sm == 0 || bits o 15 12 ≤ 14)
          && (sm == 0 || (!accA && !accB && f.ty != 8 && f.ty != 9))
          && (!(f.ty == 5 || f.ty == 7) || sm == 2) && (sm != 2 || (3 ≤ f.ty.toNat && f.ty.toNat ≤ 7)))

/-- KMOV's three forms (R168). -/
def kmovOk (f : FmtM) (src mask : Nat) : Bool :=
  mOk f false false false false false false 3 mask && bits f.flg.toNat 1 0 == src

/-- MNORM's three forms (R165). -/
def mnormOk (f : FmtM) (op : Nat) : Bool :=
  mOk f (op == 2) true false false false (op == 2) 3 0xF && bits f.flg.toNat 1 0 == op

/-- Shifts: an immediate amount or a register amount (R138). -/
def shiftOk (f : FmtV) : Bool :=
  vOk f false true (!bitAt f.ops.toNat 7) false (if bitAt f.ops.toNat 7 then 0xBF else 0x80)

/-- A strip instruction: reserved codes, RSV fields and the fields its operation does not use (R326, R327, R328,
R329). -/
def stripOk (x : FmtX) (a b c int sub rm flg pk : Bool) : Bool :=
  x.rsv == 0 && (a || x.a == 0) && (b || x.b == 0) && (c || x.c == 0) && (int || x.int == 0) && (sub || x.sub == 0)
    && (rm || x.rm == 0) && (flg || x.flg == 0) && (pk || x.pk == 0)

/-- Arithmetic strip operations: INT lanes wrap, so RM is then unused (R326, R327). -/
def stripArith (x : FmtX) : Bool := stripOk x true true false true false true false false && (x.int == 0 || x.rm == 0)

/-- X.CVT's rules (R328). -/
def xcvtOk (x : FmtX) : Bool :=
  stripOk x true false false true true true true true && x.sub != 7 && x.pk != 3
    && (x.pk == 0 || (x.sub != 0 && x.sub != 6)) && (x.pk != 2 || (x.int == 0 && x.rm == 0 && x.flg == 0))

/-- Check 6 of R54 for each row; an event row has no reserved field. -/
def fieldsOk : Instr → Bool
  | .mov h f => hdrOk h && srOk f false false
  | .clz h f => hdrOk h && srOk f false false
  | .popc h f => hdrOk h && srOk f false false
  | .sel h f => hdrOk h && srOk f true true
  | .add h f => hdrOk h && srOk f true false
  | .sub h f => hdrOk h && srOk f true false
  | .mul h f => hdrOk h && srOk f true false
  | .mulh h f => hdrOk h && srOk f true false
  | .mulhu h f => hdrOk h && srOk f true false
  | .div h f => hdrOk h && srOk f true false
  | .divu h f => hdrOk h && srOk f true false
  | .rem h f => hdrOk h && srOk f true false
  | .remu h f => hdrOk h && srOk f true false
  | .and h f => hdrOk h && srOk f true false
  | .or h f => hdrOk h && srOk f true false
  | .xor h f => hdrOk h && srOk f true false
  | .shl h f => hdrOk h && srOk f true false
  | .shr h f => hdrOk h && srOk f true false
  | .sar h f => hdrOk h && srOk f true false
  | .cmpeq h f => hdrOk h && srOk f true false
  | .cmplt h f => hdrOk h && srOk f true false
  | .cmpltu h f => hdrOk h && srOk f true false
  | .min h f => hdrOk h && srOk f true false
  | .max h f => hdrOk h && srOk f true false
  | .minu h f => hdrOk h && srOk f true false
  | .maxu h f => hdrOk h && srOk f true false
  | .addi h _ => hdrOk h
  | .andi h _ => hdrOk h
  | .ori h _ => hdrOk h
  | .xori h _ => hdrOk h
  | .lih h _ => hdrOk h
  | .li h f => hdrOk h && f.sa == 0
  | .wset h f e => hdrOk h && yOk f false true false false 16 0xFFFFF && rsv e.toNat 59 56 && rsv e.toNat 31 24
      && bits e.toNat 63 60 != 13 && bits e.toNat 63 60 != 14
  | .fence h f => hdrOk h && yOk f false false false true 1 0
  | .waitt h f => hdrOk h && waittOk h f 0
  | .waittTake h f => hdrOk h && waittOk h f 1
  | .waittSig h f => hdrOk h && waittOk h f 2
  | .stgacqW h f => hdrOk h && yOk f (h.eng != 1) true false false 8 1 && !bitAt f.ops.toNat 0
  | .stgacqR h f => hdrOk h && yOk f (h.eng != 1) true false false 8 1 && bitAt f.ops.toNat 0
  | .stgrelW h f => hdrOk h && yOk f false true false false 8 1 && !bitAt f.ops.toNat 0
  | .stgrelR h f => hdrOk h && yOk f false true false false 8 1 && bitAt f.ops.toNat 0
  | .rep h f => hdrOk h && kOk f false false false false 0x3F 0xFF
  | .tlrd h f => hdrOk h && yOk f true false false false 8 1
  | .itrd h f => hdrOk h && yOk f true false false false 1 0x1F && f.ops.toNat ≤ 18
  | .csrr h f => hdrOk h && yOk f true false false false 1 0xFFF && csrKnown f.ops.toNat
  | .csrw h f => hdrOk h && yOk f false true false false 1 0xFFF && csrWritable f.ops.toNat
  | .setcf h f => hdrOk h && yOk f false true false false 8 0x80001
      && (if bitAt f.ops.toNat 19 then f.sa == 0 else !bitAt f.ops.toNat 0)
  | .patch h f => hdrOk h && kOk f true false false false 0x7FF 0xFFFFF
  | .patchclr h f => hdrOk h && kOk f false false false false 0x7FF 0xFFFFF && f.ops != 0
  | .patchclrAll h f => hdrOk h && kOk f false false false false 0 0
  | .nop h f => hdrOk h && kOk f false false false false 0 0
  | .lds h f => hdrOk h && ldstOk f false 1
  | .ldsW h f => hdrOk h && ldstOk f true 1
  | .sts h f => hdrOk h && ldstOk f false 2
  | .stsW h f => hdrOk h && ldstOk f true 2
  | .ldtd h f => hdrOk h && f.ch == 0 && f.sd == 0 && f.sb == 0 && rsv f.ops.toNat 15 11 && scpOk f.scp
      && (f.ord == 0 || f.ord == 1)
  | .copy h f e => hdrOk h && copyOk f e.toNat
  | .tcopy h f e1 e2 e3 => hdrOk h && tcopyOk f e1.toNat e2.toNat e3.toNat
  | .scopy h f e => hdrOk h && scopyOk f e.toNat
  | .ccopyDec h f e => hdrOk h && ccopyOk f e.toNat false
  | .ccopyEnc h f e => hdrOk h && ccopyOk f e.toNat true
  | .pref h f => hdrOk h && f.scp == 0 && f.ord == 0 && f.sd == 0 && f.dr == 0 && rsv f.ops.toNat 15 4
      && bits f.ops.toNat 1 0 < 2
  | .coll h f e1 e2 => hdrOk h && collOk f e1.toNat e2.toNat
  | .drain h f => hdrOk h && f.scp == 0 && f.ord == 0 && f.sd == 0 && f.sa == 0 && f.sb == 0 && f.dr == 0 && f.ops == 0
  | .atom h f => hdrOk h && f.ch == 0 && f.dr == 0 && annOk f [1, 2]
      && aopOk false (bits f.ops.toNat 15 12) (bits f.ops.toNat 11 8)
  | .red h f => hdrOk h && f.ch == 0 && f.dr == 0 && f.sd == 0 && annOk f [2]
      && aopOk true (bits f.ops.toNat 15 12) (bits f.ops.toNat 11 8)
  | .cas h f => hdrOk h && f.ch == 0 && f.dr == 0 && annOk f [1, 2] && rsv f.ops.toNat 10 9
  | .stgcfg h f e => hdrOk h && yOk f false false false false 8 0 && stgWordOk e.toNat
  | .estim h f => hdrOk h && yOk f false true false false 1 0
  | .ipref h f => hdrOk h && yOk f false true true false 1 1
  | .ipin h f => hdrOk h && yOk f false true true false 8 1
  | .iunpin h f => hdrOk h && yOk f false true true false 1 1
  | .wroute h f e1 e2 => hdrOk h && wOk f false false (bitAt f.ops.toNat 17) true false 0x20000
      && (bitAt f.ops.toNat 17 || wrouteOk e1.toNat e2.toNat)
  | .wrouteFree h f e1 e2 => hdrOk h && wOk f false false false true false 0x40000 && bitAt f.ops.toNat 18
      && e1 == 0 && e2 == 0
  | .wload h f => hdrOk h && wOk f false true false false true 0x1F
  | .wstart h f => hdrOk h && wOk f false false true true false 0
  | .wstop h f => hdrOk h && wOk f false false false true false 1
  | .wstat h f => hdrOk h && wOk f true false false true false 0
  | .mzero h f => hdrOk h && mOk f true false false false true false 0 0
  | .mident h f => hdrOk h && mOk f true false false false false false 0 0xF
  | .mldacc h f => hdrOk h && mOk f true false true false true false 0 0
  | .mstacc h f => hdrOk h && mOk f false true true false true true 0xC 0xF
      && (f.ty == 5 || f.ty == 7 || f.ty == 15 || f.ops == 0)
      && (!bitAt f.flg.toNat 2 || (f.rm == 0 && (f.ty == 15 || srTarget f.ty.toNat)))
  | .mmul h f => hdrOk h && mmulOk f
  | .madda h f => hdrOk h && mOk f true true false false false true 8 0
  | .mscale h f => hdrOk h && mOk f true true false false false true 0 0xF
  | .mtrans h f => hdrOk h && mOk f true true false false false false 0 0
  | .mnormFro h f => hdrOk h && mnormOk f 0
  | .mnormMax h f => hdrOk h && mnormOk f 1
  | .mnormUnit h f => hdrOk h && mnormOk f 2
  | .kmovS h f => hdrOk h && kmovOk f 0 0x1FF
  | .kmovK h f => hdrOk h && kmovOk f 1 0xFF
  | .kmovImm h f => hdrOk h && kmovOk f 2 0xFFFFF
  | .kld h f => hdrOk h && mOk f false false true false true false 0 0x3FFF
      && bits f.ops.toNat 3 0 + (bits f.ops.toNat 7 4 + 1) ≤ 16
  | .mpoly h f => hdrOk h && mOk f true true false false false false 8 0xF && f.acd != f.acs
  | .miter h f => hdrOk h && mOk f true true false false false false 8 0x3FFF && bits f.ops.toNat 11 10 != 3
      && bits f.ops.toNat 7 0 != 0 && (bits f.ops.toNat 11 10 == 2 || rsv f.ops.toNat 13 12) && f.acd != f.acs
      && (bits f.ops.toNat 11 10 != 2 ||
        (bits f.ops.toNat 13 12 != f.acd.toNat && bits f.ops.toNat 13 12 != f.acs.toNat))
  | .vld h f => hdrOk h && vOk f true true true false 0xF00
  | .vst h f => hdrOk h && vOk f true true true false 0xF80
  | .vgath h f => hdrOk h && vOk f true false true false 0xF00
  | .vscat h f => hdrOk h && vOk f true false true false 0xF80
  | .vmov h f => hdrOk h && vOk f false true false false 0
  | .vsplat h f => hdrOk h && vOk f false true false false 0
  | .vextr h f => hdrOk h && vOk f false true false false 0xFF && f.pred == 0 && f.pneg == 0
  | .vadd h f => hdrOk h && vOk f true true true false 0
  | .vsub h f => hdrOk h && vOk f true true true false 0
  | .vmul h f => hdrOk h && vOk f true true true false 0
  | .vfma h f => hdrOk h && vOk f true true true true 0
  | .vfms h f => hdrOk h && vOk f true true true true 0
  | .vmin h f => hdrOk h && vOk f false true true false 0
  | .vmax h f => hdrOk h && vOk f false true true false 0
  | .vabs h f => hdrOk h && vOk f false true false false 0
  | .vneg h f => hdrOk h && vOk f false true false false 0
  | .vrcp h f => hdrOk h && vOk f true true false false 0
  | .vrsq h f => hdrOk h && vOk f true true false false 0
  | .vsqrt h f => hdrOk h && vOk f true true false false 0
  | .vexp2 h f => hdrOk h && vOk f true true false false 0
  | .vlog2 h f => hdrOk h && vOk f true true false false 0
  | .vtanh h f => hdrOk h && vOk f true true false false 0
  | .vsigm h f => hdrOk h && vOk f true true false false 0
  | .vcvt h f => hdrOk h && vOk f true true false false 0xFF0
      && [0, 1, 2, 3, 4, 6, 8, 9, 10, 11].contains (bits f.ops.toNat 11 8)
      && (!bitAt f.ops.toNat 6 || (f.rm == 0 && (f.ty == 15 || [1, 3, 4, 6].contains f.ty.toNat)))
  | .vbscale h f => hdrOk h && vOk f true true true false 0x80
  | .viadd h f => hdrOk h && vOk f false true true false 0x80
  | .visub h f => hdrOk h && vOk f false true true false 0x80
  | .vimul h f => hdrOk h && vOk f false true true false 0x80
  | .vand h f => hdrOk h && vOk f false true true false 0
  | .vor h f => hdrOk h && vOk f false true true false 0
  | .vxor h f => hdrOk h && vOk f false true true false 0
  | .vshl h f => hdrOk h && shiftOk f
  | .vshr h f => hdrOk h && shiftOk f
  | .vsar h f => hdrOk h && shiftOk f
  | .vcmp h f => hdrOk h && vOk f false true true false 0xF && f.vd.toNat < 8 && f.vd != 0
      && bits f.ops.toNat 2 0 != 7 && (f.ty != 0 || !bitAt f.ops.toNat 3)
      && (f.ty != 11 || bits f.ops.toNat 2 0 != 6)
  | .vsel h f => hdrOk h && vOk f false true true false 7
  | .vperm h f => hdrOk h && vOk f false true true false 0
  | .vbcast h f => hdrOk h && vOk f false true false false 0xFF
  | .vslide h f => hdrOk h && vOk f false true true false 0x1FF
  | .vred h f => hdrOk h && vOk f true true false false 3 && bits f.ops.toNat 1 0 != 3
      && (bits f.ops.toNat 1 0 == 0 || f.rm == 0) && (f.rm == 0 || f.ty.toNat ≤ 2 || f.ty == 15)
  | .vtopk h f => hdrOk h && vOk f false true false true 0x1F && 1 ≤ bits f.ops.toNat 3 0
      && bits f.ops.toNat 3 0 ≤ 8 && f.vd != f.vc
  | .vrand h f => hdrOk h && vOk f false false false false 0
  | .pand h f => hdrOk h && pOk f true true false
  | .por h f => hdrOk h && pOk f true true false
  | .pxor h f => hdrOk h && pOk f true true false
  | .pnot h f => hdrOk h && pOk f true false false
  | .pcnt h f => hdrOk h && pOk f false false true
  | .pset h f _ => hdrOk h && pOk f true false false && f.pa == 0
  | .scancfg h f => hdrOk h && yOk f false false false false 4 0xFF && scanCfgOk (bits f.ops.toNat 7 0)
  | .scanjoin h f => hdrOk h && yOk f true false false false 4 7 && f.ops.toNat < 5
  | .scanleave h f => hdrOk h && yOk f false false false false 4 0
  | .scan h f => hdrOk h && f.rm == 0 && f.pneg == 0 && !bitAt f.vd.toNat 4 && !bitAt f.va.toNat 4
      && !bitAt f.vb.toNat 4 && !bitAt f.vc.toNat 4 && f.ty != 13 && f.ty != 14
  | .scantot h f => hdrOk h && f.rm == 0 && f.pred == 0 && f.pneg == 0 && f.va == 0 && f.vb == 0 && f.ty != 13
      && f.ty != 14 && within f.ops.toNat 0xC00
  | .append h f => hdrOk h && yOk f true true true false 1 0x3F
  | .wlpop h f => hdrOk h && yOk f true true false false 1 0x1F
  | .nest h f => hdrOk h && kOk f false false false true 0 0xFFFFF
  | .endn h f => hdrOk h && kOk f false false false true 0 0xFFFFF
  | .br h f => hdrOk h && kOk f false true true false 0 0xFFFFF
  | .jmp h f => hdrOk h && kOk f false false false false 0 0xFFFFF
  | .jmpReg h f => hdrOk h && kOk f true false false false 1 0 && f.ops == 1
  | .call h f => hdrOk h && kOk f false false false false 0 0xFFFFF
  | .callReg h f => hdrOk h && kOk f true false false false 1 0 && f.ops == 1
  | .ret h f => hdrOk h && kOk f false false false false 0 0
  | .exit h f => hdrOk h && kOk f false false false false 0 0
  | .arrive h f => hdrOk h && yOk f false false false false 5 0
  | .waitb h f => hdrOk h && yOk f false false false false 5 0
  | .sync h f => hdrOk h && yOk f false false false false 5 0xFFFF
  | .dmset h f => hdrOk h && yOk f false true false false 4 1 && 1 ≤ f.idx.toNat
  | .quiesce h f => hdrOk h && yOk f false false false false 5 7 && 1 ≤ f.idx.toNat
  | .yield h f => hdrOk h && kOk f false false false false 0 0
  | .brk h f => hdrOk h && kOk f false false false false 0 0xFFFF
  | .trap h f => hdrOk h && kOk f false false false false 0xFF 0
  | .xPass x => stripOk x false false false false false false false false
  | .xIdle x => stripOk x false false false false false false false false
  | .xAdd x => stripArith x
  | .xMul x => stripArith x
  | .xFma x => stripOk x true true true false false true false false
  | .xMax x => stripOk x true true false true false false false false
  | .xMin x => stripOk x true true false true false false false false
  | .xAcc x => stripOk x true false false true true true true false && x.sub.toNat ≤ 2
      && ((x.int == 0 && x.sub == 0) || x.rm == 0)
  | .xCmp x => stripOk x true true false true true false false false && x.sub != 7
  | .xSel x => stripOk x true true true false false false false false
  | .xCvt x => xcvtOk x
  | .xScale x => stripOk x true true false false true true false false && x.sub.toNat ≤ 1
  | .xLut x => stripOk x false false false false false false false false
  | _ => true

end Sys2Proof.Machine
end

