-- ==== Sys2Proof/Machine/TypeChecks.lean ====
section
/-! DEFINITION. Check 7 of R54: the type codes each entry accepts (R43, R124), and the values an entry forbids for a
given type (R131, R135, R139, R140), which check 6 covers. -/
namespace Sys2Proof.Machine

/-- How an entry uses its type field: the code, the codes it accepts, whether it accepts the escape 15, and whether it
has a scale mode of its own (R43, R111). -/
structure TyUse where
  code : Nat
  set : List Nat
  esc : Bool
  sm : Bool
  deriving DecidableEq, Repr

/-- Whether an operand of an MMUL comes from an accumulator (R157). -/
def mmulAcc (f : FmtM) : Bool := (bits f.ops.toNat 19 18 == 1 || bits f.ops.toNat 19 18 == 2)
  || (bits f.ops.toNat 17 16 == 1 || bits f.ops.toNat 17 16 == 2)

/-- The codes that an MMUL accepts: BF16 where a source is an accumulator, no T6 from the port MB (R157, R161). -/
def mmulSet (f : FmtM) : List Nat :=
  if mmulAcc f then [1] else if bits f.ops.toNat 17 16 == 3 then [1, 2, 3, 4, 5, 6, 8, 9] else [1, 2, 3, 4, 5, 6, 7, 8, 9]

/-- The type field of each entry that has one: its code, the types it may name, and whether it may be an escape code or scaled. The
field of SCAN takes the escape 15 (R43, R111, R194), that of KLD does not (log entry 29). -/
def tyUse : Instr → Option TyUse
  | .lds _ f => some { code := bits f.ops.toNat 14 11, set := [0, 1, 2, 3, 4, 6, 8, 9, 10, 11, 12], esc := false, sm := false }
  | .ldsW _ f => some { code := bits f.ops.toNat 14 11, set := [0, 1, 2, 3, 4, 6, 8, 9, 10, 11, 12], esc := false, sm := false }
  | .sts _ f => some { code := bits f.ops.toNat 14 11, set := [0, 1, 2, 3, 4, 6, 8, 9, 10, 11, 12], esc := false, sm := false }
  | .stsW _ f => some { code := bits f.ops.toNat 14 11, set := [0, 1, 2, 3, 4, 6, 8, 9, 10, 11, 12], esc := false, sm := false }
  | .tcopy _ _ _ _ e3 => some { code := bits e3.toNat 63 60, set := [0, 1, 2, 3, 4, 5, 6, 7, 8, 9, 10, 11], esc := true, sm := true }
  | .mzero _ f => some { code := f.ty.toNat, set := [0, 11], esc := false, sm := false }
  | .mldacc _ f => some { code := f.ty.toNat, set := [0, 1, 2, 3, 4, 6, 8, 9, 10, 11], esc := true, sm := false }
  | .mstacc _ f => some { code := f.ty.toNat, set := [0, 1, 2, 3, 4, 5, 6, 7, 8, 9, 10, 11], esc := true, sm := true }
  | .mmul _ f => some { code := f.ty.toNat, set := mmulSet f, esc := true, sm := true }
  | .kld _ f => some { code := f.ty.toNat, set := [0, 1], esc := false, sm := false }
  | .vld _ f => some { code := f.ty.toNat, set := [0, 1, 2, 3, 4, 6, 8, 9, 10, 11], esc := true, sm := false }
  | .vst _ f => some { code := f.ty.toNat, set := [0, 1, 2, 3, 4, 6, 8, 9, 10, 11], esc := true, sm := false }
  | .vgath _ f => some { code := f.ty.toNat, set := [0, 11], esc := true, sm := false }
  | .vscat _ f => some { code := f.ty.toNat, set := [0, 11], esc := true, sm := false }
  | .vmov _ f => some { code := f.ty.toNat, set := [0], esc := true, sm := false }
  | .vsplat _ f => some { code := f.ty.toNat, set := [0, 1, 2, 3, 4, 6, 8, 9, 10, 11], esc := true, sm := false }
  | .vextr _ f => some { code := f.ty.toNat, set := [0, 1, 2, 3, 4, 6, 8, 9, 10, 11], esc := true, sm := false }
  | .vadd _ f => some { code := f.ty.toNat, set := [0, 1, 2], esc := true, sm := false }
  | .vsub _ f => some { code := f.ty.toNat, set := [0, 1, 2], esc := true, sm := false }
  | .vmul _ f => some { code := f.ty.toNat, set := [0, 1, 2], esc := true, sm := false }
  | .vfma _ f => some { code := f.ty.toNat, set := [0, 1, 2], esc := true, sm := false }
  | .vfms _ f => some { code := f.ty.toNat, set := [0, 1, 2], esc := true, sm := false }
  | .vmin _ f => some { code := f.ty.toNat, set := [0, 1, 2], esc := true, sm := false }
  | .vmax _ f => some { code := f.ty.toNat, set := [0, 1, 2], esc := true, sm := false }
  | .vabs _ f => some { code := f.ty.toNat, set := [0, 1, 2], esc := true, sm := false }
  | .vneg _ f => some { code := f.ty.toNat, set := [0, 1, 2], esc := true, sm := false }
  | .vrcp _ f => some { code := f.ty.toNat, set := [0, 1], esc := true, sm := false }
  | .vrsq _ f => some { code := f.ty.toNat, set := [0, 1], esc := true, sm := false }
  | .vsqrt _ f => some { code := f.ty.toNat, set := [0, 1], esc := true, sm := false }
  | .vexp2 _ f => some { code := f.ty.toNat, set := [0, 1], esc := true, sm := false }
  | .vlog2 _ f => some { code := f.ty.toNat, set := [0, 1], esc := true, sm := false }
  | .vtanh _ f => some { code := f.ty.toNat, set := [0, 1], esc := true, sm := false }
  | .vsigm _ f => some { code := f.ty.toNat, set := [0, 1], esc := true, sm := false }
  | .vcvt _ f => some { code := f.ty.toNat, set := [0, 1, 2, 3, 4, 6, 8, 9, 10, 11], esc := true, sm := false }
  | .vbscale _ f => some { code := f.ty.toNat, set := [0, 1, 2], esc := true, sm := false }
  | .viadd _ f => some { code := f.ty.toNat, set := [8, 9, 10, 11], esc := true, sm := false }
  | .visub _ f => some { code := f.ty.toNat, set := [8, 9, 10, 11], esc := true, sm := false }
  | .vimul _ f => some { code := f.ty.toNat, set := [8, 9, 10, 11], esc := true, sm := false }
  | .vand _ f => some { code := f.ty.toNat, set := [0], esc := true, sm := false }
  | .vor _ f => some { code := f.ty.toNat, set := [0], esc := true, sm := false }
  | .vxor _ f => some { code := f.ty.toNat, set := [0], esc := true, sm := false }
  | .vshl _ f => some { code := f.ty.toNat, set := [8, 9, 10, 11], esc := true, sm := false }
  | .vshr _ f => some { code := f.ty.toNat, set := [8, 9, 10, 11], esc := true, sm := false }
  | .vsar _ f => some { code := f.ty.toNat, set := [8, 9, 10, 11], esc := true, sm := false }
  | .vcmp _ f => some { code := f.ty.toNat, set := [0, 11], esc := true, sm := false }
  | .vsel _ f => some { code := f.ty.toNat, set := [0], esc := true, sm := false }
  | .vperm _ f => some { code := f.ty.toNat, set := [0], esc := true, sm := false }
  | .vbcast _ f => some { code := f.ty.toNat, set := [0, 1, 2, 3, 4, 6, 8, 9, 10, 11], esc := true, sm := false }
  | .vslide _ f => some { code := f.ty.toNat, set := [0, 1, 2, 3, 4, 6, 8, 9, 10, 11], esc := true, sm := false }
  | .vred _ f => some { code := f.ty.toNat, set := [0, 1, 2, 8, 9, 10, 11], esc := true, sm := false }
  | .vtopk _ f => some { code := f.ty.toNat, set := [0, 11], esc := true, sm := false }
  | .vrand _ f => some { code := f.ty.toNat, set := [0, 11], esc := true, sm := false }
  | .scan _ f => some { code := f.ty.toNat, set := [0, 1], esc := true, sm := false }
  | .scantot _ f => some { code := f.ty.toNat, set := [0], esc := false, sm := false }
  | .atom _ f => some { code := bits f.ops.toNat 11 8, set := [0, 11, 12], esc := false, sm := false }
  | .red _ f => some { code := bits f.ops.toNat 11 8, set := [0, 11, 12], esc := false, sm := false }
  | .coll _ _ e1 _ => some { code := Nat.max (bits e1.toNat 63 60) (bits e1.toNat 59 56), set := List.range 12, esc := false, sm := false }
  | _ => none

/-- The part of check 7 that needs no register: a code the entry does not accept (R43). -/
def tyStatic (i : Instr) : Bool :=
  match tyUse i with
  | none => true
  | some u => u.set.contains u.code || (u.code == 15 && u.esc)

/-- Elements of a vector register for a type (R123). -/
def elemsOf (ty : Nat) : Nat :=
  if ty == 0 || ty == 11 then 64 else if ty == 1 || ty == 2 || ty == 10 then 128 else 256

/-- Values that an entry forbids under a given type (R131, R135, R138, R139, R140, R162). -/
def tyValueOk (ty : Nat) : Instr → Bool
  | .vextr _ f => bits f.ops.toNat 7 0 < elemsOf ty
  | .vbcast _ f => bits f.ops.toNat 7 0 < elemsOf ty
  | .vslide _ f => bits f.ops.toNat 7 0 < elemsOf ty
  | .vcvt _ f =>
    let ns := elemsOf (bits f.ops.toNat 11 8)
    let nd := elemsOf ty
    bits f.ops.toNat 5 4 < Nat.max ns nd / Nat.min ns nd
      && (!bitAt f.ops.toNat 6 || [1, 3, 4, 6].contains ty)
  | .vcmp _ f => (ty != 0 || !bitAt f.ops.toNat 3) && (ty != 11 || bits f.ops.toNat 2 0 != 6)
  | .vred _ f => f.rm == 0 || ty ≤ 2
  | .mstacc _ f => (!bitAt f.flg.toNat 2 || srTarget ty) && (ty == 5 || ty == 7 || f.ops == 0)
  | _ => true

/-- Check 6 in whole: reserved fields and codes, and the values forbidden for the type the word names. -/
def check6 (i : Instr) : Bool :=
  fieldsOk i && (match tyUse i with
    | none => true
    | some u => !u.set.contains u.code || tyValueOk u.code i)

end Sys2Proof.Machine
end

