-- ==== Sys2Proof/Decode.lean ====
section
/-! DEFINITION. Decoding of instruction words and strip words, total and rejecting by the failing check of R54, from the
opcode maps of spec/02 (R37-R61) and spec/13 (R326); and after it the encoder. -/
namespace Sys2Proof

/-- Why a list of words is no instruction: nothing was fetched, the check of R54 that fails first (1 to 4), or an
extension word is missing from the list. -/
inductive DecodeError where
  | empty
  | check (n : Nat)
  | short
  deriving DecidableEq, Repr

/-- The common bits of a leading word (R37). -/
def Hdr.ofWord (w : Word) : Hdr :=
  { eng := w.extractLsb' 61 3, pushN := w.getLsbD 60, pushP := w.getLsbD 59, popN := w.getLsbD 58,
    popP := w.getLsbD 57, dly := w.extractLsb' 42 4 }

/-- OPC (R37). -/
def opcBits (w : Word) : BitVec 9 := w.extractLsb' 48 9

/-- XW, the number of extension words (R37). -/
def xwBits (w : Word) : BitVec 2 := w.extractLsb' 46 2

/-- The format-specific body (R37). -/
def bodyBits (w : Word) : BitVec 42 := w.extractLsb' 0 42

/-- A leading word from its parts (R37). -/
def leadWord (h : Hdr) (opc : BitVec 9) (xw : BitVec 2) (body : BitVec 42) : Word :=
  h.eng ++ BitVec.ofBool h.pushN ++ BitVec.ofBool h.pushP ++ BitVec.ofBool h.popN ++ BitVec.ofBool h.popP ++ opc ++ xw
    ++ h.dly ++ body

/-- The fields of format SR (R45). -/
def FmtSR.ofBits (b : BitVec 42) : FmtSR :=
  { sd := b.extractLsb' 37 5, sa := b.extractLsb' 32 5, sb := b.extractLsb' 27 5, sc := b.extractLsb' 22 5,
    rsv := b.extractLsb' 0 22 }

/-- The body of format SR (R45). -/
def FmtSR.toBits (f : FmtSR) : BitVec 42 :=
  f.sd ++ f.sa ++ f.sb ++ f.sc ++ f.rsv

/-- The fields of format SI (R46). -/
def FmtSI.ofBits (b : BitVec 42) : FmtSI :=
  { sd := b.extractLsb' 37 5, sa := b.extractLsb' 32 5, imm := b.extractLsb' 0 32 }

/-- The body of format SI (R46). -/
def FmtSI.toBits (f : FmtSI) : BitVec 42 :=
  f.sd ++ f.sa ++ f.imm

/-- The fields of format V (R47). -/
def FmtV.ofBits (b : BitVec 42) : FmtV :=
  { rm := b.extractLsb' 40 2, pred := b.extractLsb' 37 3, pneg := b.extractLsb' 36 1, vd := b.extractLsb' 31 5,
    va := b.extractLsb' 26 5, vb := b.extractLsb' 21 5, vc := b.extractLsb' 16 5, ty := b.extractLsb' 12 4,
    ops := b.extractLsb' 0 12 }

/-- The body of format V (R47). -/
def FmtV.toBits (f : FmtV) : BitVec 42 :=
  f.rm ++ f.pred ++ f.pneg ++ f.vd ++ f.va ++ f.vb ++ f.vc ++ f.ty ++ f.ops

/-- The fields of format P (R48). -/
def FmtP.ofBits (b : BitVec 42) : FmtP :=
  { pd := b.extractLsb' 39 3, pa := b.extractLsb' 36 3, pb := b.extractLsb' 33 3, sd := b.extractLsb' 28 5,
    rsv := b.extractLsb' 0 28 }

/-- The body of format P (R48). -/
def FmtP.toBits (f : FmtP) : BitVec 42 :=
  f.pd ++ f.pa ++ f.pb ++ f.sd ++ f.rsv

/-- The fields of format M (R49). -/
def FmtM.ofBits (b : BitVec 42) : FmtM :=
  { acd := b.extractLsb' 40 2, acs := b.extractLsb' 38 2, wa := b.extractLsb' 34 4, wb := b.extractLsb' 30 4,
    ty := b.extractLsb' 26 4, rm := b.extractLsb' 24 2, flg := b.extractLsb' 20 4, ops := b.extractLsb' 0 20 }

/-- The body of format M (R49). -/
def FmtM.toBits (f : FmtM) : BitVec 42 :=
  f.acd ++ f.acs ++ f.wa ++ f.wb ++ f.ty ++ f.rm ++ f.flg ++ f.ops

/-- The fields of format C (R50). -/
def FmtC.ofBits (b : BitVec 42) : FmtC :=
  { ch := b.extractLsb' 40 2, scp := b.extractLsb' 37 3, ord := b.extractLsb' 35 2, sd := b.extractLsb' 30 5,
    sa := b.extractLsb' 25 5, sb := b.extractLsb' 20 5, dr := b.extractLsb' 16 4, ops := b.extractLsb' 0 16 }

/-- The body of format C (R50). -/
def FmtC.toBits (f : FmtC) : BitVec 42 :=
  f.ch ++ f.scp ++ f.ord ++ f.sd ++ f.sa ++ f.sb ++ f.dr ++ f.ops

/-- The fields of format Y (R51). -/
def FmtY.ofBits (b : BitVec 42) : FmtY :=
  { sd := b.extractLsb' 37 5, sa := b.extractLsb' 32 5, sb := b.extractLsb' 27 5, scp := b.extractLsb' 24 3,
    idx := b.extractLsb' 20 4, ops := b.extractLsb' 0 20 }

/-- The body of format Y (R51). -/
def FmtY.toBits (f : FmtY) : BitVec 42 :=
  f.sd ++ f.sa ++ f.sb ++ f.scp ++ f.idx ++ f.ops

/-- The fields of format K (R52). -/
def FmtK.ofBits (b : BitVec 42) : FmtK :=
  { sa := b.extractLsb' 37 5, cf := b.extractLsb' 34 3, cn := b.extractLsb' 33 1, lv := b.extractLsb' 31 2,
    ops := b.extractLsb' 20 11, imm := b.extractLsb' 0 20 }

/-- The body of format K (R52). -/
def FmtK.toBits (f : FmtK) : BitVec 42 :=
  f.sa ++ f.cf ++ f.cn ++ f.lv ++ f.ops ++ f.imm

/-- The fields of format W (R53). -/
def FmtW.ofBits (b : BitVec 42) : FmtW :=
  { sd := b.extractLsb' 37 5, sa := b.extractLsb' 32 5, sb := b.extractLsb' 27 5, rt := b.extractLsb' 23 4,
    ws := b.extractLsb' 19 4, ops := b.extractLsb' 0 19 }

/-- The body of format W (R53). -/
def FmtW.toBits (f : FmtW) : BitVec 42 :=
  f.sd ++ f.sa ++ f.sb ++ f.rt ++ f.ws ++ f.ops

/-- The fields of a strip instruction below OP (R326). -/
def FmtX.ofWord (w : BitVec 32) : FmtX :=
  { a := w.extractLsb' 26 2, b := w.extractLsb' 24 2, c := w.extractLsb' 22 2, int := w.extractLsb' 21 1, sub := w.extractLsb' 18 3,
    rm := w.extractLsb' 16 2, flg := w.extractLsb' 15 1, pk := w.extractLsb' 13 2, rsv := w.extractLsb' 12 1, nm1 := w.extractLsb' 0 12 }

/-- The bits of a strip instruction below OP (R326). -/
def FmtX.toBits (x : FmtX) : BitVec 28 :=
  x.a ++ x.b ++ x.c ++ x.int ++ x.sub ++ x.rm ++ x.flg ++ x.pk ++ x.rsv ++ x.nm1

/-- One assigned opcode: its XW, its profile byte (R77) and how the fields make the instruction. -/
structure OpRow where
  xw : Nat
  prof : Nat
  make : Hdr → BitVec 42 → List Word → Instr

/-- The scalar block of tags 0 and 2 (R55). -/
def scalarRow (opc : Nat) : Option OpRow :=
  match opc with
  | 0x001 => some { xw := 0, prof := 0x01, make := fun h b _ => .add h (FmtSR.ofBits b) }
  | 0x002 => some { xw := 0, prof := 0x01, make := fun h b _ => .sub h (FmtSR.ofBits b) }
  | 0x003 => some { xw := 0, prof := 0x01, make := fun h b _ => .mul h (FmtSR.ofBits b) }
  | 0x004 => some { xw := 0, prof := 0x01, make := fun h b _ => .mulh h (FmtSR.ofBits b) }
  | 0x005 => some { xw := 0, prof := 0x01, make := fun h b _ => .mulhu h (FmtSR.ofBits b) }
  | 0x006 => some { xw := 0, prof := 0x01, make := fun h b _ => .div h (FmtSR.ofBits b) }
  | 0x007 => some { xw := 0, prof := 0x01, make := fun h b _ => .divu h (FmtSR.ofBits b) }
  | 0x008 => some { xw := 0, prof := 0x01, make := fun h b _ => .rem h (FmtSR.ofBits b) }
  | 0x009 => some { xw := 0, prof := 0x01, make := fun h b _ => .remu h (FmtSR.ofBits b) }
  | 0x00A => some { xw := 0, prof := 0x01, make := fun h b _ => .and h (FmtSR.ofBits b) }
  | 0x00B => some { xw := 0, prof := 0x01, make := fun h b _ => .or h (FmtSR.ofBits b) }
  | 0x00C => some { xw := 0, prof := 0x01, make := fun h b _ => .xor h (FmtSR.ofBits b) }
  | 0x00D => some { xw := 0, prof := 0x01, make := fun h b _ => .shl h (FmtSR.ofBits b) }
  | 0x00E => some { xw := 0, prof := 0x01, make := fun h b _ => .shr h (FmtSR.ofBits b) }
  | 0x00F => some { xw := 0, prof := 0x01, make := fun h b _ => .sar h (FmtSR.ofBits b) }
  | 0x010 => some { xw := 0, prof := 0x01, make := fun h b _ => .cmpeq h (FmtSR.ofBits b) }
  | 0x011 => some { xw := 0, prof := 0x01, make := fun h b _ => .cmplt h (FmtSR.ofBits b) }
  | 0x012 => some { xw := 0, prof := 0x01, make := fun h b _ => .cmpltu h (FmtSR.ofBits b) }
  | 0x013 => some { xw := 0, prof := 0x01, make := fun h b _ => .sel h (FmtSR.ofBits b) }
  | 0x014 => some { xw := 0, prof := 0x01, make := fun h b _ => .min h (FmtSR.ofBits b) }
  | 0x015 => some { xw := 0, prof := 0x01, make := fun h b _ => .max h (FmtSR.ofBits b) }
  | 0x016 => some { xw := 0, prof := 0x01, make := fun h b _ => .minu h (FmtSR.ofBits b) }
  | 0x017 => some { xw := 0, prof := 0x01, make := fun h b _ => .maxu h (FmtSR.ofBits b) }
  | 0x018 => some { xw := 0, prof := 0x01, make := fun h b _ => .mov h (FmtSR.ofBits b) }
  | 0x019 => some { xw := 0, prof := 0x01, make := fun h b _ => .clz h (FmtSR.ofBits b) }
  | 0x01A => some { xw := 0, prof := 0x01, make := fun h b _ => .popc h (FmtSR.ofBits b) }
  | 0x020 => some { xw := 0, prof := 0x01, make := fun h b _ => .addi h (FmtSI.ofBits b) }
  | 0x021 => some { xw := 0, prof := 0x01, make := fun h b _ => .andi h (FmtSI.ofBits b) }
  | 0x022 => some { xw := 0, prof := 0x01, make := fun h b _ => .ori h (FmtSI.ofBits b) }
  | 0x023 => some { xw := 0, prof := 0x01, make := fun h b _ => .xori h (FmtSI.ofBits b) }
  | 0x024 => some { xw := 0, prof := 0x01, make := fun h b _ => .li h (FmtSI.ofBits b) }
  | 0x025 => some { xw := 0, prof := 0x01, make := fun h b _ => .lih h (FmtSI.ofBits b) }
  | 0x030 => some { xw := 1, prof := 0x01, make := fun h b x => .wset h (FmtY.ofBits b) (x.getD 0 0) }
  | _ => none

/-- The opcodes of R56 that tags 0, 1 and 2 share. -/
def everyRow (opc : Nat) : Option OpRow :=
  match opc with
  | 0x1C0 => some { xw := 0, prof := 0x01, make := fun h b _ => .fence h (FmtY.ofBits b) }
  | 0x1C1 => some { xw := 0, prof := 0x01, make := fun h b _ => let f := FmtY.ofBits b; if Machine.bits f.ops.toNat 18 17 == 1 then .waittTake h f else if Machine.bits f.ops.toNat 18 17 == 2 then .waittSig h f else .waitt h f }
  | 0x1C2 => some { xw := 0, prof := 0x01, make := fun h b _ => let f := FmtY.ofBits b; if Machine.bits f.ops.toNat 0 0 == 1 then .stgacqR h f else .stgacqW h f }
  | 0x1C3 => some { xw := 0, prof := 0x01, make := fun h b _ => let f := FmtY.ofBits b; if Machine.bits f.ops.toNat 0 0 == 1 then .stgrelR h f else .stgrelW h f }
  | 0x1C4 => some { xw := 0, prof := 0x01, make := fun h b _ => .rep h (FmtK.ofBits b) }
  | _ => none

/-- The opcodes of R56 that tags 0 and 2 share. -/
def sharedRow (opc : Nat) : Option OpRow :=
  match opc with
  | 0x1C8 => some { xw := 0, prof := 0x01, make := fun h b _ => .tlrd h (FmtY.ofBits b) }
  | 0x1C9 => some { xw := 0, prof := 0x31, make := fun h b _ => .itrd h (FmtY.ofBits b) }
  | 0x1CA => some { xw := 0, prof := 0x01, make := fun h b _ => .csrr h (FmtY.ofBits b) }
  | 0x1CB => some { xw := 0, prof := 0x01, make := fun h b _ => .csrw h (FmtY.ofBits b) }
  | 0x1CC => some { xw := 0, prof := 0x01, make := fun h b _ => .setcf h (FmtY.ofBits b) }
  | 0x1CD => some { xw := 0, prof := 0x01, make := fun h b _ => .patch h (FmtK.ofBits b) }
  | 0x1CE => some { xw := 0, prof := 0x01, make := fun h b _ => let f := FmtK.ofBits b; if f.ops == 0 then .patchclrAll h f else .patchclr h f }
  | _ => none

/-- NOP, in every tag (R56, R60). -/
def nopRow (opc : Nat) : Option OpRow :=
  match opc with
  | 0x1F0 => some { xw := 0, prof := 0x01, make := fun h b _ => .nop h (FmtK.ofBits b) }
  | _ => none

/-- The opcodes of tag 0 alone (R57). -/
def tag0Row (opc : Nat) : Option OpRow :=
  match opc with
  | 0x080 => some { xw := 0, prof := 0x01, make := fun h b _ => let f := FmtC.ofBits b; if Machine.bits f.ops.toNat 15 15 == 1 then .ldsW h f else .lds h f }
  | 0x081 => some { xw := 0, prof := 0x01, make := fun h b _ => let f := FmtC.ofBits b; if Machine.bits f.ops.toNat 15 15 == 1 then .stsW h f else .sts h f }
  | 0x082 => some { xw := 0, prof := 0x01, make := fun h b _ => .ldtd h (FmtC.ofBits b) }
  | 0x083 => some { xw := 1, prof := 0x01, make := fun h b x => .copy h (FmtC.ofBits b) (x.getD 0 0) }
  | 0x084 => some { xw := 3, prof := 0x01, make := fun h b x => .tcopy h (FmtC.ofBits b) (x.getD 0 0) (x.getD 1 0) (x.getD 2 0) }
  | 0x085 => some { xw := 1, prof := 0x01, make := fun h b x => .scopy h (FmtC.ofBits b) (x.getD 0 0) }
  | 0x086 => some { xw := 1, prof := 0x01, make := fun h b x => let f := FmtC.ofBits b; if Machine.bits f.ops.toNat 11 11 == 1 then .ccopyEnc h f (x.getD 0 0) else .ccopyDec h f (x.getD 0 0) }
  | 0x087 => some { xw := 0, prof := 0x01, make := fun h b _ => .pref h (FmtC.ofBits b) }
  | 0x088 => some { xw := 2, prof := 0x01, make := fun h b x => .coll h (FmtC.ofBits b) (x.getD 0 0) (x.getD 1 0) }
  | 0x089 => some { xw := 0, prof := 0x01, make := fun h b _ => .drain h (FmtC.ofBits b) }
  | 0x0A0 => some { xw := 0, prof := 0x01, make := fun h b _ => .atom h (FmtC.ofBits b) }
  | 0x0A1 => some { xw := 0, prof := 0x01, make := fun h b _ => .red h (FmtC.ofBits b) }
  | 0x0A2 => some { xw := 0, prof := 0x01, make := fun h b _ => .cas h (FmtC.ofBits b) }
  | 0x0C0 => some { xw := 1, prof := 0x01, make := fun h b x => .stgcfg h (FmtY.ofBits b) (x.getD 0 0) }
  | 0x0C1 => some { xw := 0, prof := 0x01, make := fun h b _ => .estim h (FmtY.ofBits b) }
  | 0x0C2 => some { xw := 0, prof := 0x01, make := fun h b _ => .ipref h (FmtY.ofBits b) }
  | 0x0C3 => some { xw := 0, prof := 0x01, make := fun h b _ => .ipin h (FmtY.ofBits b) }
  | 0x0C4 => some { xw := 0, prof := 0x01, make := fun h b _ => .iunpin h (FmtY.ofBits b) }
  | 0x0E0 => some { xw := 2, prof := 0x41, make := fun h b x => let f := FmtW.ofBits b; if Machine.bits f.ops.toNat 18 18 == 1 then .wrouteFree h f (x.getD 0 0) (x.getD 1 0) else .wroute h f (x.getD 0 0) (x.getD 1 0) }
  | 0x0E1 => some { xw := 0, prof := 0x41, make := fun h b _ => .wload h (FmtW.ofBits b) }
  | 0x0E2 => some { xw := 0, prof := 0x41, make := fun h b _ => .wstart h (FmtW.ofBits b) }
  | 0x0E3 => some { xw := 0, prof := 0x41, make := fun h b _ => .wstop h (FmtW.ofBits b) }
  | 0x0E4 => some { xw := 0, prof := 0x41, make := fun h b _ => .wstat h (FmtW.ofBits b) }
  | _ => none

/-- The opcodes of tag 1 alone (R58). -/
def tag1Row (opc : Nat) : Option OpRow :=
  match opc with
  | 0x100 => some { xw := 0, prof := 0x11, make := fun h b _ => .mzero h (FmtM.ofBits b) }
  | 0x101 => some { xw := 0, prof := 0x11, make := fun h b _ => .mident h (FmtM.ofBits b) }
  | 0x102 => some { xw := 0, prof := 0x11, make := fun h b _ => .mldacc h (FmtM.ofBits b) }
  | 0x103 => some { xw := 0, prof := 0x11, make := fun h b _ => .mstacc h (FmtM.ofBits b) }
  | 0x104 => some { xw := 0, prof := 0x11, make := fun h b _ => .mmul h (FmtM.ofBits b) }
  | 0x105 => some { xw := 0, prof := 0x11, make := fun h b _ => .madda h (FmtM.ofBits b) }
  | 0x106 => some { xw := 0, prof := 0x11, make := fun h b _ => .mscale h (FmtM.ofBits b) }
  | 0x107 => some { xw := 0, prof := 0x11, make := fun h b _ => .mtrans h (FmtM.ofBits b) }
  | 0x108 => some { xw := 0, prof := 0x11, make := fun h b _ => let f := FmtM.ofBits b; if Machine.bits f.flg.toNat 1 0 == 1 then .mnormMax h f else if Machine.bits f.flg.toNat 1 0 == 2 then .mnormUnit h f else .mnormFro h f }
  | 0x140 => some { xw := 0, prof := 0x31, make := fun h b _ => let f := FmtM.ofBits b; if Machine.bits f.flg.toNat 1 0 == 1 then .kmovK h f else if Machine.bits f.flg.toNat 1 0 == 2 then .kmovImm h f else .kmovS h f }
  | 0x141 => some { xw := 0, prof := 0x31, make := fun h b _ => .kld h (FmtM.ofBits b) }
  | 0x142 => some { xw := 0, prof := 0x31, make := fun h b _ => .mpoly h (FmtM.ofBits b) }
  | 0x143 => some { xw := 0, prof := 0x31, make := fun h b _ => .miter h (FmtM.ofBits b) }
  | _ => none

/-- The opcodes of tag 2 alone (R59). -/
def tag2Row (opc : Nat) : Option OpRow :=
  match opc with
  | 0x080 => some { xw := 0, prof := 0x21, make := fun h b _ => .vld h (FmtV.ofBits b) }
  | 0x081 => some { xw := 0, prof := 0x21, make := fun h b _ => .vst h (FmtV.ofBits b) }
  | 0x082 => some { xw := 0, prof := 0x21, make := fun h b _ => .vgath h (FmtV.ofBits b) }
  | 0x083 => some { xw := 0, prof := 0x21, make := fun h b _ => .vscat h (FmtV.ofBits b) }
  | 0x084 => some { xw := 0, prof := 0x21, make := fun h b _ => .vmov h (FmtV.ofBits b) }
  | 0x085 => some { xw := 0, prof := 0x21, make := fun h b _ => .vsplat h (FmtV.ofBits b) }
  | 0x086 => some { xw := 0, prof := 0x21, make := fun h b _ => .vextr h (FmtV.ofBits b) }
  | 0x087 => some { xw := 0, prof := 0x21, make := fun h b _ => .vadd h (FmtV.ofBits b) }
  | 0x088 => some { xw := 0, prof := 0x21, make := fun h b _ => .vsub h (FmtV.ofBits b) }
  | 0x089 => some { xw := 0, prof := 0x21, make := fun h b _ => .vmul h (FmtV.ofBits b) }
  | 0x08A => some { xw := 0, prof := 0x21, make := fun h b _ => .vfma h (FmtV.ofBits b) }
  | 0x08B => some { xw := 0, prof := 0x21, make := fun h b _ => .vfms h (FmtV.ofBits b) }
  | 0x08C => some { xw := 0, prof := 0x21, make := fun h b _ => .vmin h (FmtV.ofBits b) }
  | 0x08D => some { xw := 0, prof := 0x21, make := fun h b _ => .vmax h (FmtV.ofBits b) }
  | 0x08E => some { xw := 0, prof := 0x21, make := fun h b _ => .vabs h (FmtV.ofBits b) }
  | 0x08F => some { xw := 0, prof := 0x21, make := fun h b _ => .vneg h (FmtV.ofBits b) }
  | 0x090 => some { xw := 0, prof := 0x21, make := fun h b _ => .vrcp h (FmtV.ofBits b) }
  | 0x091 => some { xw := 0, prof := 0x21, make := fun h b _ => .vrsq h (FmtV.ofBits b) }
  | 0x092 => some { xw := 0, prof := 0x21, make := fun h b _ => .vsqrt h (FmtV.ofBits b) }
  | 0x093 => some { xw := 0, prof := 0x21, make := fun h b _ => .vexp2 h (FmtV.ofBits b) }
  | 0x094 => some { xw := 0, prof := 0x21, make := fun h b _ => .vlog2 h (FmtV.ofBits b) }
  | 0x095 => some { xw := 0, prof := 0x21, make := fun h b _ => .vtanh h (FmtV.ofBits b) }
  | 0x096 => some { xw := 0, prof := 0x21, make := fun h b _ => .vsigm h (FmtV.ofBits b) }
  | 0x097 => some { xw := 0, prof := 0x21, make := fun h b _ => .vcvt h (FmtV.ofBits b) }
  | 0x098 => some { xw := 0, prof := 0x21, make := fun h b _ => .vbscale h (FmtV.ofBits b) }
  | 0x099 => some { xw := 0, prof := 0x21, make := fun h b _ => .viadd h (FmtV.ofBits b) }
  | 0x09A => some { xw := 0, prof := 0x21, make := fun h b _ => .visub h (FmtV.ofBits b) }
  | 0x09B => some { xw := 0, prof := 0x21, make := fun h b _ => .vimul h (FmtV.ofBits b) }
  | 0x09C => some { xw := 0, prof := 0x21, make := fun h b _ => .vand h (FmtV.ofBits b) }
  | 0x09D => some { xw := 0, prof := 0x21, make := fun h b _ => .vor h (FmtV.ofBits b) }
  | 0x09E => some { xw := 0, prof := 0x21, make := fun h b _ => .vxor h (FmtV.ofBits b) }
  | 0x09F => some { xw := 0, prof := 0x21, make := fun h b _ => .vshl h (FmtV.ofBits b) }
  | 0x0A0 => some { xw := 0, prof := 0x21, make := fun h b _ => .vshr h (FmtV.ofBits b) }
  | 0x0A1 => some { xw := 0, prof := 0x21, make := fun h b _ => .vsar h (FmtV.ofBits b) }
  | 0x0A2 => some { xw := 0, prof := 0x21, make := fun h b _ => .vcmp h (FmtV.ofBits b) }
  | 0x0A3 => some { xw := 0, prof := 0x21, make := fun h b _ => .vsel h (FmtV.ofBits b) }
  | 0x0A4 => some { xw := 0, prof := 0x21, make := fun h b _ => .vperm h (FmtV.ofBits b) }
  | 0x0A5 => some { xw := 0, prof := 0x21, make := fun h b _ => .vbcast h (FmtV.ofBits b) }
  | 0x0A6 => some { xw := 0, prof := 0x21, make := fun h b _ => .vslide h (FmtV.ofBits b) }
  | 0x0A7 => some { xw := 0, prof := 0x21, make := fun h b _ => .vred h (FmtV.ofBits b) }
  | 0x0A8 => some { xw := 0, prof := 0x21, make := fun h b _ => .vtopk h (FmtV.ofBits b) }
  | 0x0A9 => some { xw := 0, prof := 0x21, make := fun h b _ => .vrand h (FmtV.ofBits b) }
  | 0x0C0 => some { xw := 0, prof := 0x21, make := fun h b _ => .pand h (FmtP.ofBits b) }
  | 0x0C1 => some { xw := 0, prof := 0x21, make := fun h b _ => .por h (FmtP.ofBits b) }
  | 0x0C2 => some { xw := 0, prof := 0x21, make := fun h b _ => .pxor h (FmtP.ofBits b) }
  | 0x0C3 => some { xw := 0, prof := 0x21, make := fun h b _ => .pnot h (FmtP.ofBits b) }
  | 0x0C4 => some { xw := 0, prof := 0x21, make := fun h b _ => .pcnt h (FmtP.ofBits b) }
  | 0x0C5 => some { xw := 1, prof := 0x21, make := fun h b x => .pset h (FmtP.ofBits b) (x.getD 0 0) }
  | 0x0E0 => some { xw := 0, prof := 0x31, make := fun h b _ => .scancfg h (FmtY.ofBits b) }
  | 0x0E1 => some { xw := 0, prof := 0x31, make := fun h b _ => .scanjoin h (FmtY.ofBits b) }
  | 0x0E2 => some { xw := 0, prof := 0x31, make := fun h b _ => .scanleave h (FmtY.ofBits b) }
  | 0x0E3 => some { xw := 0, prof := 0x31, make := fun h b _ => .scan h (FmtV.ofBits b) }
  | 0x0E4 => some { xw := 0, prof := 0x31, make := fun h b _ => .scantot h (FmtV.ofBits b) }
  | 0x0F0 => some { xw := 0, prof := 0x01, make := fun h b _ => .append h (FmtY.ofBits b) }
  | 0x0F1 => some { xw := 0, prof := 0x01, make := fun h b _ => .wlpop h (FmtY.ofBits b) }
  | _ => none

/-- The opcodes of tag 3 alone (R60). -/
def tag3Row (opc : Nat) : Option OpRow :=
  match opc with
  | 0x001 => some { xw := 0, prof := 0x01, make := fun h b _ => .nest h (FmtK.ofBits b) }
  | 0x002 => some { xw := 0, prof := 0x01, make := fun h b _ => .endn h (FmtK.ofBits b) }
  | 0x003 => some { xw := 0, prof := 0x01, make := fun h b _ => .br h (FmtK.ofBits b) }
  | 0x004 => some { xw := 0, prof := 0x01, make := fun h b _ => let f := FmtK.ofBits b; if Machine.bits f.ops.toNat 0 0 == 1 then .jmpReg h f else .jmp h f }
  | 0x005 => some { xw := 0, prof := 0x01, make := fun h b _ => let f := FmtK.ofBits b; if Machine.bits f.ops.toNat 0 0 == 1 then .callReg h f else .call h f }
  | 0x006 => some { xw := 0, prof := 0x01, make := fun h b _ => .ret h (FmtK.ofBits b) }
  | 0x007 => some { xw := 0, prof := 0x01, make := fun h b _ => .exit h (FmtK.ofBits b) }
  | 0x008 => some { xw := 0, prof := 0x01, make := fun h b _ => .arrive h (FmtY.ofBits b) }
  | 0x009 => some { xw := 0, prof := 0x01, make := fun h b _ => .waitb h (FmtY.ofBits b) }
  | 0x00A => some { xw := 0, prof := 0x01, make := fun h b _ => .sync h (FmtY.ofBits b) }
  | 0x00B => some { xw := 0, prof := 0x01, make := fun h b _ => .dmset h (FmtY.ofBits b) }
  | 0x00C => some { xw := 0, prof := 0x01, make := fun h b _ => .quiesce h (FmtY.ofBits b) }
  | 0x00D => some { xw := 0, prof := 0x01, make := fun h b _ => .yield h (FmtK.ofBits b) }
  | 0x00E => some { xw := 0, prof := 0x01, make := fun h b _ => .brk h (FmtK.ofBits b) }
  | 0x00F => some { xw := 0, prof := 0x01, make := fun h b _ => .trap h (FmtK.ofBits b) }
  | _ => none

/-- The assignment of an opcode in the map of a tag (R55-R61); none is unassigned. -/
def opRow (tag opc : Nat) : Option OpRow :=
  match tag with
  | 0 => ((((tag0Row opc).or (scalarRow opc)).or (sharedRow opc)).or (everyRow opc)).or (nopRow opc)
  | 1 => ((tag1Row opc).or (everyRow opc)).or (nopRow opc)
  | 2 => ((((tag2Row opc).or (scalarRow opc)).or (sharedRow opc)).or (everyRow opc)).or (nopRow opc)
  | 3 => (tag3Row opc).or (nopRow opc)
  | _ => none

/-- Whether the word carries any token bit (R39). -/
def Hdr.anyToken (h : Hdr) : Bool := h.pushN || h.pushP || h.popN || h.popP

/-- Reads one instruction from the words at the PC: the checks 1 to 4 of R54 in their order, then the fields. -/
def decode (ws : List Word) : Except DecodeError Instr :=
  match ws with
  | [] => .error .empty
  | w :: xs =>
    let h := Hdr.ofWord w
    if 4 ≤ h.eng.toNat then .error (.check 1)
    else if h.eng == 3 && h.anyToken then .error (.check 2)
    else match opRow h.eng.toNat (opcBits w).toNat with
      | none => .error (.check 3)
      | some r =>
        if (xwBits w).toNat != r.xw then .error (.check 4)
        else if xs.length < r.xw then .error .short
        else .ok (r.make h (bodyBits w) (xs.take r.xw))

/-- The words that 8-byte groups of memory hold, each little-endian (R7, R37); a group cut short is dropped. -/
def wordsOf : List (BitVec 8) → List Word
  | b0 :: b1 :: b2 :: b3 :: b4 :: b5 :: b6 :: b7 :: bs => (b7 ++ b6 ++ b5 ++ b4 ++ b3 ++ b2 ++ b1 ++ b0) :: wordsOf bs
  | _ => []

/-- Reads one instruction from bytes, total on any bytes. -/
def decodeBytes (bs : List (BitVec 8)) : Except DecodeError Instr := decode (wordsOf bs)

/-- Reads one strip instruction from its 32-bit word (R326); the codes 0xD to 0xF are reserved. -/
def decodeStrip (w : BitVec 32) : Option Instr :=
  let x := FmtX.ofWord w
  match (w.extractLsb' 28 4).toNat with
  | 0 => some (.xPass x)
  | 1 => some (.xIdle x)
  | 2 => some (.xAdd x)
  | 3 => some (.xMul x)
  | 4 => some (.xFma x)
  | 5 => some (.xMax x)
  | 6 => some (.xMin x)
  | 7 => some (.xAcc x)
  | 8 => some (.xCmp x)
  | 9 => some (.xSel x)
  | 10 => some (.xCvt x)
  | 11 => some (.xScale x)
  | 12 => some (.xLut x)
  | _ => none

/-- The instruction that a number of a strip word's or an instruction's bits reads as, the bits above nbits being
zero: bit 0 is the least significant bit of the first word. -/
def decodeTableWord (nbits w : Nat) : Option Instr :=
  if nbits ≤ 32 then decodeStrip (BitVec.ofNat 32 w)
  else match decode (Machine.tabulate 4 (fun i => BitVec.ofNat 64 (w / 2 ^ (64 * i)))) with
    | .ok i => some i
    | .error _ => none

/-- The opcode and XW of an instruction word's row (R55-R60); other rows have no instruction word. -/
def opcOf : Instr → Option (BitVec 9 × BitVec 2)
  | .add _ _ => some (0x001, 0)
  | .sub _ _ => some (0x002, 0)
  | .mul _ _ => some (0x003, 0)
  | .mulh _ _ => some (0x004, 0)
  | .mulhu _ _ => some (0x005, 0)
  | .div _ _ => some (0x006, 0)
  | .divu _ _ => some (0x007, 0)
  | .rem _ _ => some (0x008, 0)
  | .remu _ _ => some (0x009, 0)
  | .and _ _ => some (0x00A, 0)
  | .or _ _ => some (0x00B, 0)
  | .xor _ _ => some (0x00C, 0)
  | .shl _ _ => some (0x00D, 0)
  | .shr _ _ => some (0x00E, 0)
  | .sar _ _ => some (0x00F, 0)
  | .cmpeq _ _ => some (0x010, 0)
  | .cmplt _ _ => some (0x011, 0)
  | .cmpltu _ _ => some (0x012, 0)
  | .sel _ _ => some (0x013, 0)
  | .min _ _ => some (0x014, 0)
  | .max _ _ => some (0x015, 0)
  | .minu _ _ => some (0x016, 0)
  | .maxu _ _ => some (0x017, 0)
  | .mov _ _ => some (0x018, 0)
  | .clz _ _ => some (0x019, 0)
  | .popc _ _ => some (0x01A, 0)
  | .addi _ _ => some (0x020, 0)
  | .andi _ _ => some (0x021, 0)
  | .ori _ _ => some (0x022, 0)
  | .xori _ _ => some (0x023, 0)
  | .li _ _ => some (0x024, 0)
  | .lih _ _ => some (0x025, 0)
  | .wset _ _ _ => some (0x030, 1)
  | .fence _ _ => some (0x1C0, 0)
  | .waitt _ _ => some (0x1C1, 0)
  | .waittTake _ _ => some (0x1C1, 0)
  | .waittSig _ _ => some (0x1C1, 0)
  | .stgacqW _ _ => some (0x1C2, 0)
  | .stgacqR _ _ => some (0x1C2, 0)
  | .stgrelW _ _ => some (0x1C3, 0)
  | .stgrelR _ _ => some (0x1C3, 0)
  | .rep _ _ => some (0x1C4, 0)
  | .tlrd _ _ => some (0x1C8, 0)
  | .itrd _ _ => some (0x1C9, 0)
  | .csrr _ _ => some (0x1CA, 0)
  | .csrw _ _ => some (0x1CB, 0)
  | .setcf _ _ => some (0x1CC, 0)
  | .patch _ _ => some (0x1CD, 0)
  | .patchclr _ _ => some (0x1CE, 0)
  | .patchclrAll _ _ => some (0x1CE, 0)
  | .nop _ _ => some (0x1F0, 0)
  | .lds _ _ => some (0x080, 0)
  | .ldsW _ _ => some (0x080, 0)
  | .sts _ _ => some (0x081, 0)
  | .stsW _ _ => some (0x081, 0)
  | .ldtd _ _ => some (0x082, 0)
  | .copy _ _ _ => some (0x083, 1)
  | .tcopy _ _ _ _ _ => some (0x084, 3)
  | .scopy _ _ _ => some (0x085, 1)
  | .ccopyDec _ _ _ => some (0x086, 1)
  | .ccopyEnc _ _ _ => some (0x086, 1)
  | .pref _ _ => some (0x087, 0)
  | .coll _ _ _ _ => some (0x088, 2)
  | .drain _ _ => some (0x089, 0)
  | .atom _ _ => some (0x0A0, 0)
  | .red _ _ => some (0x0A1, 0)
  | .cas _ _ => some (0x0A2, 0)
  | .stgcfg _ _ _ => some (0x0C0, 1)
  | .estim _ _ => some (0x0C1, 0)
  | .ipref _ _ => some (0x0C2, 0)
  | .ipin _ _ => some (0x0C3, 0)
  | .iunpin _ _ => some (0x0C4, 0)
  | .wroute _ _ _ _ => some (0x0E0, 2)
  | .wrouteFree _ _ _ _ => some (0x0E0, 2)
  | .wload _ _ => some (0x0E1, 0)
  | .wstart _ _ => some (0x0E2, 0)
  | .wstop _ _ => some (0x0E3, 0)
  | .wstat _ _ => some (0x0E4, 0)
  | .mzero _ _ => some (0x100, 0)
  | .mident _ _ => some (0x101, 0)
  | .mldacc _ _ => some (0x102, 0)
  | .mstacc _ _ => some (0x103, 0)
  | .mmul _ _ => some (0x104, 0)
  | .madda _ _ => some (0x105, 0)
  | .mscale _ _ => some (0x106, 0)
  | .mtrans _ _ => some (0x107, 0)
  | .mnormFro _ _ => some (0x108, 0)
  | .mnormMax _ _ => some (0x108, 0)
  | .mnormUnit _ _ => some (0x108, 0)
  | .kmovS _ _ => some (0x140, 0)
  | .kmovK _ _ => some (0x140, 0)
  | .kmovImm _ _ => some (0x140, 0)
  | .kld _ _ => some (0x141, 0)
  | .mpoly _ _ => some (0x142, 0)
  | .miter _ _ => some (0x143, 0)
  | .vld _ _ => some (0x080, 0)
  | .vst _ _ => some (0x081, 0)
  | .vgath _ _ => some (0x082, 0)
  | .vscat _ _ => some (0x083, 0)
  | .vmov _ _ => some (0x084, 0)
  | .vsplat _ _ => some (0x085, 0)
  | .vextr _ _ => some (0x086, 0)
  | .vadd _ _ => some (0x087, 0)
  | .vsub _ _ => some (0x088, 0)
  | .vmul _ _ => some (0x089, 0)
  | .vfma _ _ => some (0x08A, 0)
  | .vfms _ _ => some (0x08B, 0)
  | .vmin _ _ => some (0x08C, 0)
  | .vmax _ _ => some (0x08D, 0)
  | .vabs _ _ => some (0x08E, 0)
  | .vneg _ _ => some (0x08F, 0)
  | .vrcp _ _ => some (0x090, 0)
  | .vrsq _ _ => some (0x091, 0)
  | .vsqrt _ _ => some (0x092, 0)
  | .vexp2 _ _ => some (0x093, 0)
  | .vlog2 _ _ => some (0x094, 0)
  | .vtanh _ _ => some (0x095, 0)
  | .vsigm _ _ => some (0x096, 0)
  | .vcvt _ _ => some (0x097, 0)
  | .vbscale _ _ => some (0x098, 0)
  | .viadd _ _ => some (0x099, 0)
  | .visub _ _ => some (0x09A, 0)
  | .vimul _ _ => some (0x09B, 0)
  | .vand _ _ => some (0x09C, 0)
  | .vor _ _ => some (0x09D, 0)
  | .vxor _ _ => some (0x09E, 0)
  | .vshl _ _ => some (0x09F, 0)
  | .vshr _ _ => some (0x0A0, 0)
  | .vsar _ _ => some (0x0A1, 0)
  | .vcmp _ _ => some (0x0A2, 0)
  | .vsel _ _ => some (0x0A3, 0)
  | .vperm _ _ => some (0x0A4, 0)
  | .vbcast _ _ => some (0x0A5, 0)
  | .vslide _ _ => some (0x0A6, 0)
  | .vred _ _ => some (0x0A7, 0)
  | .vtopk _ _ => some (0x0A8, 0)
  | .vrand _ _ => some (0x0A9, 0)
  | .pand _ _ => some (0x0C0, 0)
  | .por _ _ => some (0x0C1, 0)
  | .pxor _ _ => some (0x0C2, 0)
  | .pnot _ _ => some (0x0C3, 0)
  | .pcnt _ _ => some (0x0C4, 0)
  | .pset _ _ _ => some (0x0C5, 1)
  | .scancfg _ _ => some (0x0E0, 0)
  | .scanjoin _ _ => some (0x0E1, 0)
  | .scanleave _ _ => some (0x0E2, 0)
  | .scan _ _ => some (0x0E3, 0)
  | .scantot _ _ => some (0x0E4, 0)
  | .append _ _ => some (0x0F0, 0)
  | .wlpop _ _ => some (0x0F1, 0)
  | .nest _ _ => some (0x001, 0)
  | .endn _ _ => some (0x002, 0)
  | .br _ _ => some (0x003, 0)
  | .jmp _ _ => some (0x004, 0)
  | .jmpReg _ _ => some (0x004, 0)
  | .call _ _ => some (0x005, 0)
  | .callReg _ _ => some (0x005, 0)
  | .ret _ _ => some (0x006, 0)
  | .exit _ _ => some (0x007, 0)
  | .arrive _ _ => some (0x008, 0)
  | .waitb _ _ => some (0x009, 0)
  | .sync _ _ => some (0x00A, 0)
  | .dmset _ _ => some (0x00B, 0)
  | .quiesce _ _ => some (0x00C, 0)
  | .yield _ _ => some (0x00D, 0)
  | .brk _ _ => some (0x00E, 0)
  | .trap _ _ => some (0x00F, 0)
  | _ => none

/-- The tags whose maps hold a row (R55-R60). -/
def tagsOf : Instr → List (BitVec 3)
  | .add _ _ => [0, 2]
  | .sub _ _ => [0, 2]
  | .mul _ _ => [0, 2]
  | .mulh _ _ => [0, 2]
  | .mulhu _ _ => [0, 2]
  | .div _ _ => [0, 2]
  | .divu _ _ => [0, 2]
  | .rem _ _ => [0, 2]
  | .remu _ _ => [0, 2]
  | .and _ _ => [0, 2]
  | .or _ _ => [0, 2]
  | .xor _ _ => [0, 2]
  | .shl _ _ => [0, 2]
  | .shr _ _ => [0, 2]
  | .sar _ _ => [0, 2]
  | .cmpeq _ _ => [0, 2]
  | .cmplt _ _ => [0, 2]
  | .cmpltu _ _ => [0, 2]
  | .sel _ _ => [0, 2]
  | .min _ _ => [0, 2]
  | .max _ _ => [0, 2]
  | .minu _ _ => [0, 2]
  | .maxu _ _ => [0, 2]
  | .mov _ _ => [0, 2]
  | .clz _ _ => [0, 2]
  | .popc _ _ => [0, 2]
  | .addi _ _ => [0, 2]
  | .andi _ _ => [0, 2]
  | .ori _ _ => [0, 2]
  | .xori _ _ => [0, 2]
  | .li _ _ => [0, 2]
  | .lih _ _ => [0, 2]
  | .wset _ _ _ => [0, 2]
  | .fence _ _ => [0, 1, 2]
  | .waitt _ _ => [0, 1, 2]
  | .waittTake _ _ => [0, 1, 2]
  | .waittSig _ _ => [0, 1, 2]
  | .stgacqW _ _ => [0, 1, 2]
  | .stgacqR _ _ => [0, 1, 2]
  | .stgrelW _ _ => [0, 1, 2]
  | .stgrelR _ _ => [0, 1, 2]
  | .rep _ _ => [0, 1, 2]
  | .tlrd _ _ => [0, 2]
  | .itrd _ _ => [0, 2]
  | .csrr _ _ => [0, 2]
  | .csrw _ _ => [0, 2]
  | .setcf _ _ => [0, 2]
  | .patch _ _ => [0, 2]
  | .patchclr _ _ => [0, 2]
  | .patchclrAll _ _ => [0, 2]
  | .nop _ _ => [0, 1, 2, 3]
  | .lds _ _ => [0]
  | .ldsW _ _ => [0]
  | .sts _ _ => [0]
  | .stsW _ _ => [0]
  | .ldtd _ _ => [0]
  | .copy _ _ _ => [0]
  | .tcopy _ _ _ _ _ => [0]
  | .scopy _ _ _ => [0]
  | .ccopyDec _ _ _ => [0]
  | .ccopyEnc _ _ _ => [0]
  | .pref _ _ => [0]
  | .coll _ _ _ _ => [0]
  | .drain _ _ => [0]
  | .atom _ _ => [0]
  | .red _ _ => [0]
  | .cas _ _ => [0]
  | .stgcfg _ _ _ => [0]
  | .estim _ _ => [0]
  | .ipref _ _ => [0]
  | .ipin _ _ => [0]
  | .iunpin _ _ => [0]
  | .wroute _ _ _ _ => [0]
  | .wrouteFree _ _ _ _ => [0]
  | .wload _ _ => [0]
  | .wstart _ _ => [0]
  | .wstop _ _ => [0]
  | .wstat _ _ => [0]
  | .mzero _ _ => [1]
  | .mident _ _ => [1]
  | .mldacc _ _ => [1]
  | .mstacc _ _ => [1]
  | .mmul _ _ => [1]
  | .madda _ _ => [1]
  | .mscale _ _ => [1]
  | .mtrans _ _ => [1]
  | .mnormFro _ _ => [1]
  | .mnormMax _ _ => [1]
  | .mnormUnit _ _ => [1]
  | .kmovS _ _ => [1]
  | .kmovK _ _ => [1]
  | .kmovImm _ _ => [1]
  | .kld _ _ => [1]
  | .mpoly _ _ => [1]
  | .miter _ _ => [1]
  | .vld _ _ => [2]
  | .vst _ _ => [2]
  | .vgath _ _ => [2]
  | .vscat _ _ => [2]
  | .vmov _ _ => [2]
  | .vsplat _ _ => [2]
  | .vextr _ _ => [2]
  | .vadd _ _ => [2]
  | .vsub _ _ => [2]
  | .vmul _ _ => [2]
  | .vfma _ _ => [2]
  | .vfms _ _ => [2]
  | .vmin _ _ => [2]
  | .vmax _ _ => [2]
  | .vabs _ _ => [2]
  | .vneg _ _ => [2]
  | .vrcp _ _ => [2]
  | .vrsq _ _ => [2]
  | .vsqrt _ _ => [2]
  | .vexp2 _ _ => [2]
  | .vlog2 _ _ => [2]
  | .vtanh _ _ => [2]
  | .vsigm _ _ => [2]
  | .vcvt _ _ => [2]
  | .vbscale _ _ => [2]
  | .viadd _ _ => [2]
  | .visub _ _ => [2]
  | .vimul _ _ => [2]
  | .vand _ _ => [2]
  | .vor _ _ => [2]
  | .vxor _ _ => [2]
  | .vshl _ _ => [2]
  | .vshr _ _ => [2]
  | .vsar _ _ => [2]
  | .vcmp _ _ => [2]
  | .vsel _ _ => [2]
  | .vperm _ _ => [2]
  | .vbcast _ _ => [2]
  | .vslide _ _ => [2]
  | .vred _ _ => [2]
  | .vtopk _ _ => [2]
  | .vrand _ _ => [2]
  | .pand _ _ => [2]
  | .por _ _ => [2]
  | .pxor _ _ => [2]
  | .pnot _ _ => [2]
  | .pcnt _ _ => [2]
  | .pset _ _ _ => [2]
  | .scancfg _ _ => [2]
  | .scanjoin _ _ => [2]
  | .scanleave _ _ => [2]
  | .scan _ _ => [2]
  | .scantot _ _ => [2]
  | .append _ _ => [2]
  | .wlpop _ _ => [2]
  | .nest _ _ => [3]
  | .endn _ _ => [3]
  | .br _ _ => [3]
  | .jmp _ _ => [3]
  | .jmpReg _ _ => [3]
  | .call _ _ => [3]
  | .callReg _ _ => [3]
  | .ret _ _ => [3]
  | .exit _ _ => [3]
  | .arrive _ _ => [3]
  | .waitb _ _ => [3]
  | .sync _ _ => [3]
  | .dmset _ _ => [3]
  | .quiesce _ _ => [3]
  | .yield _ _ => [3]
  | .brk _ _ => [3]
  | .trap _ _ => [3]
  | _ => []

/-- The common bits of an instruction word. -/
def hdrOf : Instr → Option Hdr
  | .add h _ => some h
  | .sub h _ => some h
  | .mul h _ => some h
  | .mulh h _ => some h
  | .mulhu h _ => some h
  | .div h _ => some h
  | .divu h _ => some h
  | .rem h _ => some h
  | .remu h _ => some h
  | .and h _ => some h
  | .or h _ => some h
  | .xor h _ => some h
  | .shl h _ => some h
  | .shr h _ => some h
  | .sar h _ => some h
  | .cmpeq h _ => some h
  | .cmplt h _ => some h
  | .cmpltu h _ => some h
  | .sel h _ => some h
  | .min h _ => some h
  | .max h _ => some h
  | .minu h _ => some h
  | .maxu h _ => some h
  | .mov h _ => some h
  | .clz h _ => some h
  | .popc h _ => some h
  | .addi h _ => some h
  | .andi h _ => some h
  | .ori h _ => some h
  | .xori h _ => some h
  | .li h _ => some h
  | .lih h _ => some h
  | .wset h _ _ => some h
  | .fence h _ => some h
  | .waitt h _ => some h
  | .waittTake h _ => some h
  | .waittSig h _ => some h
  | .stgacqW h _ => some h
  | .stgacqR h _ => some h
  | .stgrelW h _ => some h
  | .stgrelR h _ => some h
  | .rep h _ => some h
  | .tlrd h _ => some h
  | .itrd h _ => some h
  | .csrr h _ => some h
  | .csrw h _ => some h
  | .setcf h _ => some h
  | .patch h _ => some h
  | .patchclr h _ => some h
  | .patchclrAll h _ => some h
  | .nop h _ => some h
  | .lds h _ => some h
  | .ldsW h _ => some h
  | .sts h _ => some h
  | .stsW h _ => some h
  | .ldtd h _ => some h
  | .copy h _ _ => some h
  | .tcopy h _ _ _ _ => some h
  | .scopy h _ _ => some h
  | .ccopyDec h _ _ => some h
  | .ccopyEnc h _ _ => some h
  | .pref h _ => some h
  | .coll h _ _ _ => some h
  | .drain h _ => some h
  | .atom h _ => some h
  | .red h _ => some h
  | .cas h _ => some h
  | .stgcfg h _ _ => some h
  | .estim h _ => some h
  | .ipref h _ => some h
  | .ipin h _ => some h
  | .iunpin h _ => some h
  | .wroute h _ _ _ => some h
  | .wrouteFree h _ _ _ => some h
  | .wload h _ => some h
  | .wstart h _ => some h
  | .wstop h _ => some h
  | .wstat h _ => some h
  | .mzero h _ => some h
  | .mident h _ => some h
  | .mldacc h _ => some h
  | .mstacc h _ => some h
  | .mmul h _ => some h
  | .madda h _ => some h
  | .mscale h _ => some h
  | .mtrans h _ => some h
  | .mnormFro h _ => some h
  | .mnormMax h _ => some h
  | .mnormUnit h _ => some h
  | .kmovS h _ => some h
  | .kmovK h _ => some h
  | .kmovImm h _ => some h
  | .kld h _ => some h
  | .mpoly h _ => some h
  | .miter h _ => some h
  | .vld h _ => some h
  | .vst h _ => some h
  | .vgath h _ => some h
  | .vscat h _ => some h
  | .vmov h _ => some h
  | .vsplat h _ => some h
  | .vextr h _ => some h
  | .vadd h _ => some h
  | .vsub h _ => some h
  | .vmul h _ => some h
  | .vfma h _ => some h
  | .vfms h _ => some h
  | .vmin h _ => some h
  | .vmax h _ => some h
  | .vabs h _ => some h
  | .vneg h _ => some h
  | .vrcp h _ => some h
  | .vrsq h _ => some h
  | .vsqrt h _ => some h
  | .vexp2 h _ => some h
  | .vlog2 h _ => some h
  | .vtanh h _ => some h
  | .vsigm h _ => some h
  | .vcvt h _ => some h
  | .vbscale h _ => some h
  | .viadd h _ => some h
  | .visub h _ => some h
  | .vimul h _ => some h
  | .vand h _ => some h
  | .vor h _ => some h
  | .vxor h _ => some h
  | .vshl h _ => some h
  | .vshr h _ => some h
  | .vsar h _ => some h
  | .vcmp h _ => some h
  | .vsel h _ => some h
  | .vperm h _ => some h
  | .vbcast h _ => some h
  | .vslide h _ => some h
  | .vred h _ => some h
  | .vtopk h _ => some h
  | .vrand h _ => some h
  | .pand h _ => some h
  | .por h _ => some h
  | .pxor h _ => some h
  | .pnot h _ => some h
  | .pcnt h _ => some h
  | .pset h _ _ => some h
  | .scancfg h _ => some h
  | .scanjoin h _ => some h
  | .scanleave h _ => some h
  | .scan h _ => some h
  | .scantot h _ => some h
  | .append h _ => some h
  | .wlpop h _ => some h
  | .nest h _ => some h
  | .endn h _ => some h
  | .br h _ => some h
  | .jmp h _ => some h
  | .jmpReg h _ => some h
  | .call h _ => some h
  | .callReg h _ => some h
  | .ret h _ => some h
  | .exit h _ => some h
  | .arrive h _ => some h
  | .waitb h _ => some h
  | .sync h _ => some h
  | .dmset h _ => some h
  | .quiesce h _ => some h
  | .yield h _ => some h
  | .brk h _ => some h
  | .trap h _ => some h
  | _ => none

/-- Whether the fields that choose a row among those of one opcode choose this one (R165, R168, R244, R260, R275,
R280, R305, R310, R334). -/
def formOk : Instr → Bool
  | .waittTake _ f => Machine.bits f.ops.toNat 18 17 == 1
  | .waittSig _ f => !(Machine.bits f.ops.toNat 18 17 == 1) && Machine.bits f.ops.toNat 18 17 == 2
  | .waitt _ f => !(Machine.bits f.ops.toNat 18 17 == 1) && !(Machine.bits f.ops.toNat 18 17 == 2)
  | .stgacqR _ f => Machine.bits f.ops.toNat 0 0 == 1
  | .stgacqW _ f => !(Machine.bits f.ops.toNat 0 0 == 1)
  | .stgrelR _ f => Machine.bits f.ops.toNat 0 0 == 1
  | .stgrelW _ f => !(Machine.bits f.ops.toNat 0 0 == 1)
  | .patchclrAll _ f => f.ops == 0
  | .patchclr _ f => !(f.ops == 0)
  | .ldsW _ f => Machine.bits f.ops.toNat 15 15 == 1
  | .lds _ f => !(Machine.bits f.ops.toNat 15 15 == 1)
  | .stsW _ f => Machine.bits f.ops.toNat 15 15 == 1
  | .sts _ f => !(Machine.bits f.ops.toNat 15 15 == 1)
  | .ccopyEnc _ f _ => Machine.bits f.ops.toNat 11 11 == 1
  | .ccopyDec _ f _ => !(Machine.bits f.ops.toNat 11 11 == 1)
  | .wrouteFree _ f _ _ => Machine.bits f.ops.toNat 18 18 == 1
  | .wroute _ f _ _ => !(Machine.bits f.ops.toNat 18 18 == 1)
  | .mnormMax _ f => Machine.bits f.flg.toNat 1 0 == 1
  | .mnormUnit _ f => !(Machine.bits f.flg.toNat 1 0 == 1) && Machine.bits f.flg.toNat 1 0 == 2
  | .mnormFro _ f => !(Machine.bits f.flg.toNat 1 0 == 1) && !(Machine.bits f.flg.toNat 1 0 == 2)
  | .kmovK _ f => Machine.bits f.flg.toNat 1 0 == 1
  | .kmovImm _ f => !(Machine.bits f.flg.toNat 1 0 == 1) && Machine.bits f.flg.toNat 1 0 == 2
  | .kmovS _ f => !(Machine.bits f.flg.toNat 1 0 == 1) && !(Machine.bits f.flg.toNat 1 0 == 2)
  | .jmpReg _ f => Machine.bits f.ops.toNat 0 0 == 1
  | .jmp _ f => !(Machine.bits f.ops.toNat 0 0 == 1)
  | .callReg _ f => Machine.bits f.ops.toNat 0 0 == 1
  | .call _ f => !(Machine.bits f.ops.toNat 0 0 == 1)
  | _ => true

/-- The words of an instruction (R37, R40, R45-R53); an event row has none, a strip row one 32-bit word elsewhere. -/
def encode : Instr → List Word
  | .add h f => [leadWord h 0x001 0 f.toBits]
  | .sub h f => [leadWord h 0x002 0 f.toBits]
  | .mul h f => [leadWord h 0x003 0 f.toBits]
  | .mulh h f => [leadWord h 0x004 0 f.toBits]
  | .mulhu h f => [leadWord h 0x005 0 f.toBits]
  | .div h f => [leadWord h 0x006 0 f.toBits]
  | .divu h f => [leadWord h 0x007 0 f.toBits]
  | .rem h f => [leadWord h 0x008 0 f.toBits]
  | .remu h f => [leadWord h 0x009 0 f.toBits]
  | .and h f => [leadWord h 0x00A 0 f.toBits]
  | .or h f => [leadWord h 0x00B 0 f.toBits]
  | .xor h f => [leadWord h 0x00C 0 f.toBits]
  | .shl h f => [leadWord h 0x00D 0 f.toBits]
  | .shr h f => [leadWord h 0x00E 0 f.toBits]
  | .sar h f => [leadWord h 0x00F 0 f.toBits]
  | .cmpeq h f => [leadWord h 0x010 0 f.toBits]
  | .cmplt h f => [leadWord h 0x011 0 f.toBits]
  | .cmpltu h f => [leadWord h 0x012 0 f.toBits]
  | .sel h f => [leadWord h 0x013 0 f.toBits]
  | .min h f => [leadWord h 0x014 0 f.toBits]
  | .max h f => [leadWord h 0x015 0 f.toBits]
  | .minu h f => [leadWord h 0x016 0 f.toBits]
  | .maxu h f => [leadWord h 0x017 0 f.toBits]
  | .mov h f => [leadWord h 0x018 0 f.toBits]
  | .clz h f => [leadWord h 0x019 0 f.toBits]
  | .popc h f => [leadWord h 0x01A 0 f.toBits]
  | .addi h f => [leadWord h 0x020 0 f.toBits]
  | .andi h f => [leadWord h 0x021 0 f.toBits]
  | .ori h f => [leadWord h 0x022 0 f.toBits]
  | .xori h f => [leadWord h 0x023 0 f.toBits]
  | .li h f => [leadWord h 0x024 0 f.toBits]
  | .lih h f => [leadWord h 0x025 0 f.toBits]
  | .wset h f e1 => [leadWord h 0x030 1 f.toBits, e1]
  | .fence h f => [leadWord h 0x1C0 0 f.toBits]
  | .waitt h f => [leadWord h 0x1C1 0 f.toBits]
  | .waittTake h f => [leadWord h 0x1C1 0 f.toBits]
  | .waittSig h f => [leadWord h 0x1C1 0 f.toBits]
  | .stgacqW h f => [leadWord h 0x1C2 0 f.toBits]
  | .stgacqR h f => [leadWord h 0x1C2 0 f.toBits]
  | .stgrelW h f => [leadWord h 0x1C3 0 f.toBits]
  | .stgrelR h f => [leadWord h 0x1C3 0 f.toBits]
  | .rep h f => [leadWord h 0x1C4 0 f.toBits]
  | .tlrd h f => [leadWord h 0x1C8 0 f.toBits]
  | .itrd h f => [leadWord h 0x1C9 0 f.toBits]
  | .csrr h f => [leadWord h 0x1CA 0 f.toBits]
  | .csrw h f => [leadWord h 0x1CB 0 f.toBits]
  | .setcf h f => [leadWord h 0x1CC 0 f.toBits]
  | .patch h f => [leadWord h 0x1CD 0 f.toBits]
  | .patchclr h f => [leadWord h 0x1CE 0 f.toBits]
  | .patchclrAll h f => [leadWord h 0x1CE 0 f.toBits]
  | .nop h f => [leadWord h 0x1F0 0 f.toBits]
  | .lds h f => [leadWord h 0x080 0 f.toBits]
  | .ldsW h f => [leadWord h 0x080 0 f.toBits]
  | .sts h f => [leadWord h 0x081 0 f.toBits]
  | .stsW h f => [leadWord h 0x081 0 f.toBits]
  | .ldtd h f => [leadWord h 0x082 0 f.toBits]
  | .copy h f e1 => [leadWord h 0x083 1 f.toBits, e1]
  | .tcopy h f e1 e2 e3 => [leadWord h 0x084 3 f.toBits, e1, e2, e3]
  | .scopy h f e1 => [leadWord h 0x085 1 f.toBits, e1]
  | .ccopyDec h f e1 => [leadWord h 0x086 1 f.toBits, e1]
  | .ccopyEnc h f e1 => [leadWord h 0x086 1 f.toBits, e1]
  | .pref h f => [leadWord h 0x087 0 f.toBits]
  | .coll h f e1 e2 => [leadWord h 0x088 2 f.toBits, e1, e2]
  | .drain h f => [leadWord h 0x089 0 f.toBits]
  | .atom h f => [leadWord h 0x0A0 0 f.toBits]
  | .red h f => [leadWord h 0x0A1 0 f.toBits]
  | .cas h f => [leadWord h 0x0A2 0 f.toBits]
  | .stgcfg h f e1 => [leadWord h 0x0C0 1 f.toBits, e1]
  | .estim h f => [leadWord h 0x0C1 0 f.toBits]
  | .ipref h f => [leadWord h 0x0C2 0 f.toBits]
  | .ipin h f => [leadWord h 0x0C3 0 f.toBits]
  | .iunpin h f => [leadWord h 0x0C4 0 f.toBits]
  | .wroute h f e1 e2 => [leadWord h 0x0E0 2 f.toBits, e1, e2]
  | .wrouteFree h f e1 e2 => [leadWord h 0x0E0 2 f.toBits, e1, e2]
  | .wload h f => [leadWord h 0x0E1 0 f.toBits]
  | .wstart h f => [leadWord h 0x0E2 0 f.toBits]
  | .wstop h f => [leadWord h 0x0E3 0 f.toBits]
  | .wstat h f => [leadWord h 0x0E4 0 f.toBits]
  | .mzero h f => [leadWord h 0x100 0 f.toBits]
  | .mident h f => [leadWord h 0x101 0 f.toBits]
  | .mldacc h f => [leadWord h 0x102 0 f.toBits]
  | .mstacc h f => [leadWord h 0x103 0 f.toBits]
  | .mmul h f => [leadWord h 0x104 0 f.toBits]
  | .madda h f => [leadWord h 0x105 0 f.toBits]
  | .mscale h f => [leadWord h 0x106 0 f.toBits]
  | .mtrans h f => [leadWord h 0x107 0 f.toBits]
  | .mnormFro h f => [leadWord h 0x108 0 f.toBits]
  | .mnormMax h f => [leadWord h 0x108 0 f.toBits]
  | .mnormUnit h f => [leadWord h 0x108 0 f.toBits]
  | .kmovS h f => [leadWord h 0x140 0 f.toBits]
  | .kmovK h f => [leadWord h 0x140 0 f.toBits]
  | .kmovImm h f => [leadWord h 0x140 0 f.toBits]
  | .kld h f => [leadWord h 0x141 0 f.toBits]
  | .mpoly h f => [leadWord h 0x142 0 f.toBits]
  | .miter h f => [leadWord h 0x143 0 f.toBits]
  | .vld h f => [leadWord h 0x080 0 f.toBits]
  | .vst h f => [leadWord h 0x081 0 f.toBits]
  | .vgath h f => [leadWord h 0x082 0 f.toBits]
  | .vscat h f => [leadWord h 0x083 0 f.toBits]
  | .vmov h f => [leadWord h 0x084 0 f.toBits]
  | .vsplat h f => [leadWord h 0x085 0 f.toBits]
  | .vextr h f => [leadWord h 0x086 0 f.toBits]
  | .vadd h f => [leadWord h 0x087 0 f.toBits]
  | .vsub h f => [leadWord h 0x088 0 f.toBits]
  | .vmul h f => [leadWord h 0x089 0 f.toBits]
  | .vfma h f => [leadWord h 0x08A 0 f.toBits]
  | .vfms h f => [leadWord h 0x08B 0 f.toBits]
  | .vmin h f => [leadWord h 0x08C 0 f.toBits]
  | .vmax h f => [leadWord h 0x08D 0 f.toBits]
  | .vabs h f => [leadWord h 0x08E 0 f.toBits]
  | .vneg h f => [leadWord h 0x08F 0 f.toBits]
  | .vrcp h f => [leadWord h 0x090 0 f.toBits]
  | .vrsq h f => [leadWord h 0x091 0 f.toBits]
  | .vsqrt h f => [leadWord h 0x092 0 f.toBits]
  | .vexp2 h f => [leadWord h 0x093 0 f.toBits]
  | .vlog2 h f => [leadWord h 0x094 0 f.toBits]
  | .vtanh h f => [leadWord h 0x095 0 f.toBits]
  | .vsigm h f => [leadWord h 0x096 0 f.toBits]
  | .vcvt h f => [leadWord h 0x097 0 f.toBits]
  | .vbscale h f => [leadWord h 0x098 0 f.toBits]
  | .viadd h f => [leadWord h 0x099 0 f.toBits]
  | .visub h f => [leadWord h 0x09A 0 f.toBits]
  | .vimul h f => [leadWord h 0x09B 0 f.toBits]
  | .vand h f => [leadWord h 0x09C 0 f.toBits]
  | .vor h f => [leadWord h 0x09D 0 f.toBits]
  | .vxor h f => [leadWord h 0x09E 0 f.toBits]
  | .vshl h f => [leadWord h 0x09F 0 f.toBits]
  | .vshr h f => [leadWord h 0x0A0 0 f.toBits]
  | .vsar h f => [leadWord h 0x0A1 0 f.toBits]
  | .vcmp h f => [leadWord h 0x0A2 0 f.toBits]
  | .vsel h f => [leadWord h 0x0A3 0 f.toBits]
  | .vperm h f => [leadWord h 0x0A4 0 f.toBits]
  | .vbcast h f => [leadWord h 0x0A5 0 f.toBits]
  | .vslide h f => [leadWord h 0x0A6 0 f.toBits]
  | .vred h f => [leadWord h 0x0A7 0 f.toBits]
  | .vtopk h f => [leadWord h 0x0A8 0 f.toBits]
  | .vrand h f => [leadWord h 0x0A9 0 f.toBits]
  | .pand h f => [leadWord h 0x0C0 0 f.toBits]
  | .por h f => [leadWord h 0x0C1 0 f.toBits]
  | .pxor h f => [leadWord h 0x0C2 0 f.toBits]
  | .pnot h f => [leadWord h 0x0C3 0 f.toBits]
  | .pcnt h f => [leadWord h 0x0C4 0 f.toBits]
  | .pset h f e1 => [leadWord h 0x0C5 1 f.toBits, e1]
  | .scancfg h f => [leadWord h 0x0E0 0 f.toBits]
  | .scanjoin h f => [leadWord h 0x0E1 0 f.toBits]
  | .scanleave h f => [leadWord h 0x0E2 0 f.toBits]
  | .scan h f => [leadWord h 0x0E3 0 f.toBits]
  | .scantot h f => [leadWord h 0x0E4 0 f.toBits]
  | .append h f => [leadWord h 0x0F0 0 f.toBits]
  | .wlpop h f => [leadWord h 0x0F1 0 f.toBits]
  | .nest h f => [leadWord h 0x001 0 f.toBits]
  | .endn h f => [leadWord h 0x002 0 f.toBits]
  | .br h f => [leadWord h 0x003 0 f.toBits]
  | .jmp h f => [leadWord h 0x004 0 f.toBits]
  | .jmpReg h f => [leadWord h 0x004 0 f.toBits]
  | .call h f => [leadWord h 0x005 0 f.toBits]
  | .callReg h f => [leadWord h 0x005 0 f.toBits]
  | .ret h f => [leadWord h 0x006 0 f.toBits]
  | .exit h f => [leadWord h 0x007 0 f.toBits]
  | .arrive h f => [leadWord h 0x008 0 f.toBits]
  | .waitb h f => [leadWord h 0x009 0 f.toBits]
  | .sync h f => [leadWord h 0x00A 0 f.toBits]
  | .dmset h f => [leadWord h 0x00B 0 f.toBits]
  | .quiesce h f => [leadWord h 0x00C 0 f.toBits]
  | .yield h f => [leadWord h 0x00D 0 f.toBits]
  | .brk h f => [leadWord h 0x00E 0 f.toBits]
  | .trap h f => [leadWord h 0x00F 0 f.toBits]
  | _ => []

/-- The word of a strip instruction (R326). -/
def encodeStrip : Instr → Option (BitVec 32)
  | .xPass x => some ((BitVec.ofNat 4 0) ++ x.toBits)
  | .xIdle x => some ((BitVec.ofNat 4 1) ++ x.toBits)
  | .xAdd x => some ((BitVec.ofNat 4 2) ++ x.toBits)
  | .xMul x => some ((BitVec.ofNat 4 3) ++ x.toBits)
  | .xFma x => some ((BitVec.ofNat 4 4) ++ x.toBits)
  | .xMax x => some ((BitVec.ofNat 4 5) ++ x.toBits)
  | .xMin x => some ((BitVec.ofNat 4 6) ++ x.toBits)
  | .xAcc x => some ((BitVec.ofNat 4 7) ++ x.toBits)
  | .xCmp x => some ((BitVec.ofNat 4 8) ++ x.toBits)
  | .xSel x => some ((BitVec.ofNat 4 9) ++ x.toBits)
  | .xCvt x => some ((BitVec.ofNat 4 10) ++ x.toBits)
  | .xScale x => some ((BitVec.ofNat 4 11) ++ x.toBits)
  | .xLut x => some ((BitVec.ofNat 4 12) ++ x.toBits)
  | _ => none

end Sys2Proof
end

