-- ==== Sys2Proof/Config.lean ====
section
/-! DEFINITION. What one implementation fixes: the free values the spec leaves open (no body, nothing can be proved about them) and the module's constants (spec/01, R11-R18). -/
namespace Sys2Proof.Config

/-- The n-th free value drawn in a run (R3, R4): unspecified values and outcomes that are not specified.
Log entry 5: nothing constrains it. -/
opaque freeNat : Nat → Nat

/-- The ML-DSA-65 signature of the module's identity key over a list of bytes (R33, R415): the key never leaves
bridge die 1, so its value is free. Log entry 5. -/
opaque signature : List (BitVec 8) → List (BitVec 8)

/-- The content of the free bytes of an unspecified memory (tiles and pools at a bind in the same context,
R368), by address and draw. Log entry 5. -/
opaque freeByte : Nat → Nat → BitVec 8

/-- A SHAKE256 digest, of 32 bytes, over a list whose serialisation the spec does not state: the retirement list and the
fused defect map of R415. Log entry 5. -/
opaque listDigest : List Nat → List (BitVec 8)

/-- The security version fused into the module (R414). Log entry 5. -/
opaque securityVersion : BitVec 32

/-- Whether an ML-DSA-65 signature over a digest verifies under the Renkoiz public key in ROM (R33, R414): the key is not
given, so the answer is free. Log entry 5. -/
opaque verifies : List (BitVec 8) → List (BitVec 8) → Bool

/-- The ranks that the peer tasks of a task bring to its n-th COLL of level 4, before and after its own in the order of R262:
free values (log entry 3). -/
opaque peerRanks : Nat → Nat → Nat × Nat

/-- Compute dies of the module (R11). -/
abbrev dies : Nat := 8
/-- Physical clusters of a die (R12). -/
abbrev clustersPerDie : Nat := 8
/-- Physical core slots of a cluster (R12). -/
abbrev slotsPerCluster : Nat := 66
/-- Bytes of one tile scratchpad (R13). -/
abbrev tileBytes : Nat := 0x80000
/-- Bytes of one cluster pool (R14). -/
abbrev poolBytes : Nat := 0x1000000
/-- The edges between dies (R11): row edges, column edges and bridge edges, each with its two ends; 0 to 7 are the compute
dies, 8 and 9 the bridge dies 0 and 1. -/
def edges : List (Nat × Nat) :=
  [(0, 1), (1, 2), (2, 3), (4, 5), (5, 6), (6, 7), (0, 4), (1, 5), (2, 6), (3, 7), (8, 0), (8, 4), (9, 3), (9, 7)]
/-- The clk of 24 hours at 1.25 GHz (R24, R407). -/
abbrev dayClk : Nat := 24 * 3600 * 1250000000
/-- The clk of one arbitration window (R383). -/
abbrev windowClk : Nat := 4096

end Sys2Proof.Config
end

