-- ==== Sys2Proof/Machine/State.lean ====
section
/-! DEFINITION. The state of the module as plain data: strands, cores, clusters, tasks, contexts, firmware and the host
link (the rules that name each piece stand at its field), the outcomes that stop the model, and the state after
reset. -/
namespace Sys2Proof.Machine

/-- The three strands of a core (R28, R37). -/
inductive Eng where
  | a | m | v
  deriving DecidableEq, Repr, Inhabited

/-- The engine tag of a strand (R37). -/
def Eng.tag : Eng → Nat
  | .a => 0
  | .m => 1
  | .v => 2

/-- A window register (R118). -/
structure Window where
  base : BitVec 26
  stride : BitVec 24
  rowsm1 : BitVec 12
  colsm1 : BitVec 12
  ty : BitVec 4
  deriving DecidableEq, Repr

/-- An accumulator: element (i, j) at 64 i + j, TAG and PSN (R146). -/
structure Acc where
  elems : RegFile 12 (BitVec 32)
  tag : Bool
  psn : Bool
  deriving DecidableEq, Repr

/-- What an MMUL works with once its fields are resolved at issue (R157-R160): type, scale mode, sources, passes, group
size, rows of A and of B, K, the operand and scale windows, the two tile scales, and acc[ACS] as it stood at the issue. -/
structure Mmul where
  ty : Nat
  sm : Nat
  asrc : Nat
  bsrc : Nat
  passes : Nat
  g : Nat
  m : Nat
  n : Nat
  k : Nat
  wa : Window
  wb : Window
  sa : Window
  sb : Window
  ka : Nat
  kb : Nat
  held : Acc
  deriving DecidableEq, Repr

/-- A timeline (R228): issue count, completion counter, and the numbers above the counter that are done. -/
structure Timeline where
  iss : BitVec 64
  comp : BitVec 64
  dones : List Nat
  deriving DecidableEq, Repr

/-- One slot of a stage (R278). -/
structure StageSlot where
  seq : BitVec 64
  pct : Nat
  cct : Nat
  deriving DecidableEq, Repr

/-- A stage (R278); the word is that of STGCFG, none while unconfigured. -/
structure Stage where
  word : Option (BitVec 64)
  slots : RegFile 4 StageSlot
  deriving DecidableEq, Repr

/-- One channel of a scan buffer (R187): a value or none, and its reset flag. -/
structure ScanCell where
  val : Option (BitVec 32 × BitVec 32)
  rst : Bool
  deriving DecidableEq, Repr

/-- One scan group index of a core: the register, its three buffers with their arrival marks (groupDue: the total is on
its way), the local pass kept while a SCAN waits for its carry (R203), the windows it named and the source elements it
read (R200), whether a SCAN has retired since the join (R201), the join arrival and its decision not yet taken (R192),
the members of this package fixed at the join in group order, how many of other packages stand before and after them
(R189), and whether the SCAN that waits for its carry completes although the group is broken (R206). -/
structure ScanIx where
  scg : BitVec 64
  carry : RegFile 6 ScanCell
  carryIn : Bool
  total : RegFile 6 ScanCell
  group : RegFile 6 ScanCell
  groupIn : Bool
  groupDue : Bool
  passed : Bool
  wins : List Window
  seen : List (Nat × Nat)
  retired : Bool
  join : Option Nat
  decided : Option Nat
  members : List (Nat × Nat)
  before : Nat
  after : Nat
  spared : Bool
  deriving DecidableEq, Repr

/-- A barrier level of a core (R284): each strand's arrivals, the core's arrivals made, the episodes completed, whether
the barrier is broken, whether the latest arrival is a SYNC and its budget, and the phase with the clk of its opening
release. -/
structure Barrier where
  byA : Nat
  byM : Nat
  byV : Nat
  made : Nat
  done : Nat
  broken : Bool
  sync : Bool
  budget : Nat
  phase : Nat
  openClk : Nat
  deriving DecidableEq, Repr

/-- A patch overlay entry (R310): target word, field code and value. -/
structure PatchEntry where
  x : BitVec 52
  field : BitVec 8
  value : BitVec 32
  deriving DecidableEq, Repr

/-- A token push that waits for its instruction's results or for its counter (R66, R299): the counter and the issue clk
from which it is due. -/
structure Push where
  ctr : BitVec 3
  due : Nat
  deriving DecidableEq, Repr

/-- What a V result in flight lands in (R64). -/
inductive Dest where
  | s (r : BitVec 5)
  | v (r : BitVec 5)
  | p (r : BitVec 3)
  | w (r : BitVec 4)
  | g (n : Nat)
  deriving DecidableEq, Repr

/-- The value a destination held before a result in flight, for readers on other strands (R114, R122). -/
inductive Old where
  | none
  | s (x : Word)
  | w (x : Window)
  deriving DecidableEq, Repr

/-- A V result in flight (R64): destination, lanes, the issue clk of its bound, that of its landing, from which other strands
see it (R66, R114), and the value before it. -/
structure Flight where
  dest : Dest
  lanes : BitVec 64
  landAt : Nat
  seenAt : Nat
  old : Old
  deriving DecidableEq, Repr

/-- What a strand waits for (R30, R340). -/
inductive Wait where
  | none
  | token (ctr : Nat)
  | push (ctr : Nat)
  | slip
  | flag (n : Nat)
  | stage (k seq : Nat) (side : Bool)
  | barrier (lvl : Nat)
  | timeline (k n : Nat)
  | list (n : Nat)
  | quiesce (lvl : Nat)
  | scan (g kind : Nat)
  | fill (va : Nat) (write : Bool)
  | jump
  | channel (ch : Nat)
  | drain (ch : Nat)
  | home
  | beats (port : Nat)
  | midway
  | mstrand
  | issue
  deriving DecidableEq, Repr

/-- Why a trap was raised (R388): cause, DETAIL, the address of a precise fault, and whether a write faulted (R393). -/
structure TrapInfo where
  cause : BitVec 8
  detail : BitVec 32
  addr : Nat
  write : Bool
  deriving DecidableEq, Repr

/-- The head of a trap record (R391): the first cause, its place in the order of R389 (0 to 2 the strands, 3 to 6 the
channels, 7 the progress monitor, from 8 on a source that is not specified), its clk, and whether it marks a fill error or
a state that cannot be resumed. -/
structure TrapHead where
  info : TrapInfo
  src : Nat
  clk : Nat
  fillErr : Bool
  noResume : Bool
  deriving DecidableEq, Repr

/-- A strand (R295, R390): its registers, the word it holds fetched while it waits (R311), its wait, the pushes not yet
made, its fetches for execution (R310) and the trap it raised (R391). -/
structure Strand where
  pc : BitVec 52
  dwc : BitVec 64
  rsn : BitVec 64
  lc : RegFile 2 (BitVec 21)
  lb : RegFile 2 (BitVec 20)
  lact : BitVec 4
  cfv : BitVec 8
  cfok : BitVec 8
  ret : List (BitVec 52)
  repn : BitVec 7
  exited : Bool
  held : Option (List Word)
  busy : Bool
  synced : Option Nat
  wait : Wait
  waitClk : Nat
  fillBad : Bool
  pushes : List Push
  history : List (Nat × BitVec 52)
  trap : Option TrapInfo
  deriving DecidableEq, Repr

/-- A TLB entry or a channel's kept translation (R376): ASID, first VA, size, and the table entry it holds. -/
structure Tlb where
  asid : Nat
  va : Nat
  size : Nat
  entry : BitVec 64
  deriving DecidableEq, Repr

/-- The kinds of accepted copies (R235). -/
inductive CopyKind where
  | copy | tcopy | scopy | dec | enc | coll
  deriving DecidableEq, Repr

/-- A copy fault (R240, R391): cause, DETAIL and faulting address, whether a write, and whether after a failed fill. -/
structure CopyFault where
  info : TrapInfo
  write : Bool
  fillErr : Bool
  deriving DecidableEq, Repr

/-- A byte that a copy has sent to be written (R228, R242): its address, the VA by which it was reached, the value and the
bits of it that are written, whether its page is UN and the data poisoned, and, where only some bits are written, the byte
that the store has read for the others (R213). -/
structure SentByte where
  addr : Nat
  va : Option Nat
  val : BitVec 8
  mask : BitVec 8
  un : Bool
  psn : Bool
  old : Option (BitVec 8)
  deriving DecidableEq, Repr

/-- An accepted copy with its captured operands (R237): its words, the three scalars, the windows, the descriptor, rseed,
the sequence number, the resolved type and scale mode, its timeline numbers (n1 on tl1 or tl2), which COLL of its level it
is and the vcores of its ranks with the ranks of other packages before and after them (R262); its progress in elements of
total, chunks done or beats emitted (unit), its phase state with whether its lateness is counted (R239), and the
translations kept for its reads and its writes (R376); what it holds between elements: bytes left of a beat or chunk (part)
and of the beat being formed (out) with their poison, tile codes going to a port (codes), chunk offsets (offs), whether
what an encoding still writes depends on poisoned data (taint, R241), bytes of an overlap by index, before the copy wrote
there or decided for later ones (olds, R248), UN bytes written, by which tl0 number and when what last number had been taken
(uns, R224), whether it has made an access that is no write to a UN page (mixed), clean bytes of poisoned granules (cover,
R402), the bytes sent but not yet performed, in order (sent), the bytes of its next element already read (got, R213), and the
destination bytes written, each once (wrote, R236); its fault (R240) and the pages whose fill failed (R266); and what is still to be done of tl0, of tl1 or tl2, and of its
stage release (R228, R252). -/
structure Copy where
  kind : CopyKind
  lead : Word
  ext : List Word
  dst : Word
  src : Word
  cnt : Word
  dw : Window
  sw : Window
  xw : Window
  desc : BitVec 1024
  rseed : Word
  q : Nat
  ty : Nat
  sm : Nat
  n0 : Nat
  n1 : Nat
  collNo : Nat
  ranks : List Nat
  before : Nat
  after : Nat
  prog : Nat
  total : Nat
  unit : Nat
  started : Bool
  phase : Option Nat
  openAt : Option Nat
  late : Bool
  keptR : Option Tlb
  keptW : Option Tlb
  part : List (BitVec 8 × Bool)
  out : List (BitVec 8 × Bool)
  codes : List (Nat × Bool)
  offs : List Nat
  taint : Bool
  olds : List (Nat × BitVec 8)
  uns : List (Nat × Nat × Nat)
  mixed : Bool
  cover : List (Nat × Nat)
  sent : List SentByte
  got : List (Nat × BitVec 8 × Bool)
  wrote : List Nat
  fault : Option CopyFault
  fillBad : List Nat
  did0 : Bool
  did1 : Bool
  owed : Bool
  deriving DecidableEq, Repr

/-- A copy channel (R235): accepted copies in order, copies whose accesses are all performed and that are not yet done,
the address on which a fill holds it (R266), and the byte count that its latest copy to be done has posted (R236). -/
structure Channel where
  queue : List Copy
  ending : List Copy
  fill : Option (Nat × Bool)
  count : Nat
  deriving DecidableEq, Repr, Inhabited

/-- A beat: 64 lanes and a poison mark (R320). -/
structure Beat where
  lanes : RegFile 6 (BitVec 32)
  psn : Bool
  deriving DecidableEq, Repr, Inhabited

/-- An access performed in parts (R213, R214, R246): its VA, whether its parts are done in their order, those still to do, each
the index, address and value of its bytes, and the bytes read so far by index. -/
structure Split where
  va : Nat
  ordered : Bool
  todo : List (List (Nat × Nat × BitVec 8))
  got : List (Nat × BitVec 8)
  deriving DecidableEq, Repr

/-- A link: capacity and contents, oldest first; none is an end mark (R333, R339). -/
structure Link where
  cap : Nat
  items : List (Option Beat)
  deriving DecidableEq, Repr, Inhabited

/-- The states of a route register (R333). -/
inductive RouteMode where
  | free | conf | run | drain
  deriving DecidableEq, Repr, Inhabited

/-- A route register (R333-R336): bindings, links from source to destinations, the ports' sequence numbers and their
place within the slot, the counters of WSTAT, the ports of which a stage check failed, 0 the source and d + 1 destination d
(R322), the clk at which a beat last moved on its links (R339), and what its MO port has seen its accumulator hold, newest
first (R321). -/
structure Route where
  mode : RouteMode
  src : BitVec 9
  strips : List Nat
  sstg : Nat
  sacc : Nat
  dkind : Nat
  dstg : Nat
  dests : List Nat
  links : List Link
  outs : List Link
  srcSeq : Nat
  srcPos : Nat
  dstSeq : List Nat
  dstPos : List Nat
  left : Option Nat
  ended : Bool
  spl : Bool
  psn : Bool
  beats : Nat
  num : Nat
  faults : List Nat
  movedAt : Nat
  seen : List Acc
  deriving DecidableEq, Repr, Inhabited

/-- A strip (R325): program, constants, table, accumulator beat, position, count remaining, the issue clk until which
X.IDLE waits and from which the next step may begin, beats gathered by pack or owed by unpack, and whether the end mark
has passed. -/
structure Strip where
  prog : List (BitVec 32)
  c0 : RegFile 6 (BitVec 32)
  c1 : RegFile 6 (BitVec 32)
  table : RegFile 9 (BitVec 32)
  acc : Option Beat
  pos : Nat
  left : Nat
  idle : Option Nat
  busyTo : Nat
  gather : List Beat
  owed : List Beat
  ended : Bool
  deriving DecidableEq, Repr, Inhabited

/-- A transpose unit (R323): beats of the block being collected, end marks that follow it, what is being emitted with none
for an end mark, and whether the end mark of the input route's present run came in. -/
structure TransUnit where
  coming : List Beat
  marks : Nat
  going : List (Option Beat)
  ended : Bool
  deriving DecidableEq, Repr, Inhabited

/-- A 128-byte line pinned in an instruction cache (R316), and the vcore that holds the pin. -/
structure Pin where
  line : Nat
  core : Nat
  deriving DecidableEq, Repr

/-- A physical cluster (R12, R14): enabled, its defect signature, retired slots, strips, transpose units, L2 TLB, cache
pins, the context of its last task (R368), whether it is closed to new packets (R362), and when its watchdog last
restarted (R339). -/
structure Cluster where
  enabled : Bool
  sig : BitVec 64
  badSlots : List Nat
  strips : RegFile 4 Strip
  units : RegFile 1 TransUnit
  tlb : List Tlb
  pins : List Pin
  lastCtx : Option Nat
  closed : Bool
  watch : Nat
  deriving DecidableEq, Repr

/-- A bound core: its task and vcore, its strands and every register it holds (R113, R118, R123, R125, R146, R162, R167,
R170, R187, R228, R245, R278, R282, R287, R295, R306, R308, R317, R333), what an MMUL in progress captured, its working copy
the beats it keeps and the window elements it has read (R152, R157, R161, R162), the accumulator A of the .inv MITER that its
records (R182), the access of the A strand that is performed in parts (R213, R214), the bytes
that a packed store of the M strand is about to rewrite (R213), results in flight (R64), and its freeze state (R389). -/
structure Core where
  task : Nat
  vcore : Nat
  strandA : Strand
  strandM : Strand
  strandV : Strand
  s : RegFile 5 Word
  v : RegFile 5 (RegFile 6 (BitVec 32))
  p : RegFile 3 (BitVec 64)
  w : RegFile 4 Window
  k : RegFile 4 (BitVec 32)
  ft : RegFile 4 (BitVec 16)
  d : RegFile 4 (BitVec 1024)
  acc : RegFile 2 Acc
  mmul : Option Mmul
  work : Option Acc
  mbeats : List Beat
  mread : List (Nat × Nat)
  split : Option Split
  taken : Option (List Host.Cell)
  sown : Word
  slipw : BitVec 13
  ftsel : Word
  rseed : Word
  mprog : Word
  its : Word
  invA : Option (BitVec 2)
  wlt : Word
  dm : RegFile 2 Word
  dmNext : RegFile 2 (Option Word)
  bars : RegFile 3 Barrier
  scans : RegFile 2 ScanIx
  stages : RegFile 3 Stage
  tls : RegFile 3 Timeline
  chans : RegFile 2 Channel
  routes : RegFile 4 Route
  tokens : RegFile 3 (BitVec 4)
  jump : Option (BitVec 52)
  jumpTaken : BitVec 3
  overlay : List PatchEntry
  estim : Word
  quiet : Option Nat
  colls : RegFile 2 Nat
  flights : List Flight
  vnext : Nat
  tlb : List Tlb
  pins : List Pin
  trapped : Option TrapHead
  waitRec : List (BitVec 8)
  record : Option Nat
  raised : Bool
  freeze : Bool
  stopped : Bool
  exited : Bool
  killed : Bool
  shared : Bool
  started : Bool
  deriving DecidableEq, Repr

/-- The welt state of a cluster in an image (R342, R397): strips with the issue clk that they count from that of the save,
transpose units, the route registers of the cores in slot order and the watchdog with the clk that have passed. -/
structure WeltImage where
  strips : RegFile 4 Strip
  units : RegFile 1 TransUnit
  routes : List (RegFile 4 Route)
  watch : Nat
  deriving DecidableEq, Repr, Inhabited

/-- Byte i of the welt state of an image, whose layout the spec does not give: a free value (log entry 23). -/
opaque weltByte : WeltImage → Nat → BitVec 8
/-- The welt state that bytes of an image give (log entry 23). -/
opaque weltOf : List (BitVec 8) → WeltImage
/-- Byte i of a core's copy queues in an image, whose layout the spec does not give: a free value (log entry 23). -/
opaque queueByte : RegFile 2 Channel → Nat → BitVec 8
/-- The copy queues that bytes of an image give (log entry 23). -/
opaque queuesOf : List (BitVec 8) → RegFile 2 Channel

/-- The stages of a task between binding and completion (R353-R364, R395-R401). A decision carries none for a checkpoint,
or the error code with which the task is to end; loading is a saved task that has its clusters back and waits for its
image. -/
inductive TaskStage where
  | peers
  | running
  | draining (since : Nat)
  | decided (code : Option Nat)
  | stopping
  | frozen (code : Option Nat)
  | aborted
  | saved (readyAt : Nat)
  | loading
  deriving DecidableEq, Repr

/-- A context descriptor (R366). -/
structure Context where
  valid : Bool
  asid : Nat
  quota : Nat
  root : Nat
  part : BitVec 64
  spva : Nat
  splen : Nat
  wdog : Nat
  splim : Nat
  drlim : Nat
  wlt : BitVec 64
  fpool : Nat
  deriving DecidableEq, Repr

/-- A task (R353-R358): its launch, clusters in index order, physical slots of each cluster, the last each cluster holds
(R82), the descriptor as its binding found it (R366), the policy values, the lateness counter (R29), the save area that
the supervisor assigned (R396), the latest clk at which its freeze was not yet complete or had just begun (R398), how many
saves were completed before its own (R364) and, when saved, the cores and welt state that its image records (R397). -/
structure Task where
  id : Nat
  ctx : Nat
  qid : Nat
  lseq : Nat
  obj : Nat
  kern : Nat
  launch : List (BitVec 8)
  nclus : Nat
  ppc : Nat
  clusters : List Nat
  slots : List (List Nat)
  lasts : List (BitVec 64)
  set : Context
  prio : Nat
  late : Nat
  boundAt : Nat
  stage : TaskStage
  area : Nat × Nat
  frozeAt : Nat
  saveNo : Nat
  savedCores : List Core
  savedWelt : List WeltImage
  deriving DecidableEq, Repr

/-- A registered queue (R344, R346, R409): QCB fields; beyond: the launches that have completed 64 or more places above
COMPLETED + 1, for which DONE has no bit (R356, log entry 66); the number of its last status write and its mirror; the page whose
fill that write waits for and whether an interrupt follows it; the page whose fill the read of the next record waits for,
and whether that fill failed. -/
structure Queue where
  qid : Nat
  ctx : Nat
  ring : Nat
  stva : Nat
  rlog : Nat
  msix : Nat
  qcb : Nat
  pend : Bool
  slot : Option Nat
  mappedAt : Nat
  errstop : Bool
  resync : Bool
  pbias : Int
  subseen : Nat
  consumed : Nat
  completed : Nat
  errseq : Nat
  errcode : Nat
  hready : Nat
  nrun : Nat
  done : BitVec 64
  head : List (BitVec 8)
  beyond : List Nat
  wseq : Nat
  mirror : List (BitVec 8)
  stWait : Option Nat
  owedIrq : Bool
  ringWait : Option Nat
  ringFail : Bool
  deriving DecidableEq, Repr

/-- A selection waiting to be bound (R351): the queue and the record read, or a saved task (R364). -/
inductive Selected where
  | launch (qid seq prio : Nat) (head : List (BitVec 8))
  | saved (task : Nat)
  deriving DecidableEq, Repr

/-- A registered object (R386): its bytes and the frames its pages took, each with its VA and section. -/
structure Obj where
  id : Nat
  ctx : Nat
  bytes : List (BitVec 8)
  frames : List (Nat × Nat × Nat)
  deriving DecidableEq, Repr

/-- The operations a home slice performs (R271, R273). -/
inductive HomeKind where
  | atom | cas | red
  deriving DecidableEq, Repr

/-- A request in flight to a home slice (R231, R273): the cores that issued it (several for a merged RED), the ASID and VA
that each of them used (R379), the issuing die and cluster, the home that the page's entry names and its lock, whether it
carries .rel and whether its page is SO (R218, R223), the address, the operation, its type and operands, whether it has
left the merge buffers, and since when it waits. -/
structure HomeReq where
  kind : HomeKind
  cores : List (Nat × Nat)
  via : List (Nat × Nat)
  die : Nat
  port : Nat
  rel : Bool
  so : Bool
  home : Nat
  lock : Bool
  big : Bool
  va : Nat
  addr : Nat
  aop : Nat
  ty : Nat
  val : Nat
  cmp : Nat
  sent : Bool
  since : Nat
  deriving DecidableEq, Repr

/-- An APPEND or WLPOP in flight (R289, R290): its core, list and record, and the descriptor it found at its issue: VA,
address and words 0 and 1 (R287). -/
structure ListReq where
  core : Nat × Nat
  pop : Bool
  ctx : Nat
  list : Nat
  va : Nat
  table : Nat
  words : Nat
  dedup : Bool
  key : Nat
  reg : Nat
  item : List (BitVec 8)
  deriving DecidableEq, Repr

/-- A key entered for an unpopped record (R289). -/
structure ListKey where
  ctx : Nat
  list : Nat
  key : Nat
  slot : Nat
  index : Nat
  deriving DecidableEq, Repr

/-- The home of a 2 MiB region and the atomics each die sent to it in this window (R269). -/
structure Home where
  region : Nat
  die : Nat
  lock : Bool
  big : Bool
  counts : List (Nat × Nat)
  deriving DecidableEq, Repr

/-- A paging fill (R266): context, page, its size and where its entry stands; started once the firmware took it. -/
structure Fill where
  ctx : Nat
  va : Nat
  level : Nat
  entryPA : Nat
  entry : BitVec 64
  started : Bool
  deriving DecidableEq, Repr

/-- A message that leaves for another package (R238, log entry 3). -/
structure Msg where
  pkg : Nat
  kind : Nat
  cl : Nat
  addr : Nat
  data : List (BitVec 8)
  deriving DecidableEq, Repr

/-- A compute die: issue clk counted (R63), issue duty and the duty of the next window (R385), and the table entries that its
walker holds, each with the VAs it stands for (R376, R377). -/
structure Die where
  iclk : Nat
  duty : Nat
  duty2 : Nat
  walks : List Tlb
  deriving DecidableEq, Repr

/-- Who moves at a step (log entry 1): a strand with a budget of groups or phases, a strip, or an event row. -/
inductive Agent where
  | strand (ci : Nat) (e : Eng) (budget : Nat)
  | strip (cl ws : Nat)
  | event (i : Instr)
  deriving DecidableEq, Repr, Inhabited

/-- One entry of the agenda: clk that pass first, and who moves (log entries 1 and 4). -/
structure Turn where
  dt : Nat
  who : Agent
  deriving DecidableEq, Repr, Inhabited

/-- Who moves once the agenda is empty: a free value (log entry 1); nothing constrains it. -/
opaque agentAt : Nat → Turn

/-- Who executes the instruction that exec is given: a strand with its budget, or a strip. -/
inductive Actor where
  | none
  | strand (ci : Nat) (e : Eng) (budget : Nat)
  | strip (cl ws : Nat)
  deriving DecidableEq, Repr

/-- Firmware and scheduler state (R347-R364, R378-R382); roused: the kick bitmap has gained a bit since the latest wake;
woke and ticked: one more than the clk of the latest wake and of the latest periodic one, 0 before any (R348); winner: the
last winner's place in the round, saves: saves completed, which order the saved tasks (R349, R364); drains: the ASID and the
VAs of each translation that the invalidation in progress has removed (R379). -/
structure Firmware where
  contexts : RegFile 4 Context
  queues : List Queue
  objects : List Obj
  nextObj : Nat
  kickmap : List Nat
  roused : Bool
  woke : Nat
  ticked : Nat
  winner : Nat
  saves : Nat
  selected : List Selected
  tasks : List Task
  nextTask : Nat
  table : RegFile 7 (BitVec 8)
  table2 : RegFile 7 (BitVec 8)
  invals : List (List (BitVec 8))
  removed : Bool
  drains : List (Nat × Nat × Nat)
  fills : List Fill
  deriving DecidableEq, Repr

/-- The host link and management state (R393, R405-R429); up: bring-up has ended with firmware running and the package
identifier taken (R428); errors: the corrected errors counted towards a threshold, each the kind of its unit, the unit and
its clk; due: the units that have reached their threshold and are not yet retired (R407); killing: the tasks that the QRESET
in progress has ended and waits for (R412); telno: telemetry periods whose record is written (R429). -/
structure Mgmt where
  ready : Bool
  powered : Bool
  pkg : BitVec 20
  bell : Option Nat
  belldone : Nat
  evcons : Nat
  evring : Option (Nat × Nat)
  evcount : Nat
  events : List (List (BitVec 8))
  msix : List Nat
  urs : Nat
  fnmode : BitVec 64
  fnreq : List (Nat × Bool)
  telpa : Nat
  tellen : Nat
  telno : Nat
  telclk : Nat
  corrected : Nat
  hot : Nat
  overClk : Nat
  fuses : List Nat
  msm : RegFile 3 (BitVec 256)
  badCores : List Nat
  badClusters : List Nat
  badFrames : List Nat
  ports : BitVec 8
  edges : List Nat
  up : Bool
  errors : List (Nat × Nat × Nat)
  due : List (Nat × Nat)
  killing : Option (List Nat)
  deriving DecidableEq, Repr

/-- A source byte of a SCAN that waits for its carry, and whether it has been written since (R200). -/
structure Watch where
  core : Nat × Nat
  g : Nat
  addr : Nat
  hit : Bool
  deriving DecidableEq, Repr

/-- The module (R11-R18): time, memory in canonical form, poison marks of 64-byte granules (R402), the source bytes of
waiting SCANs (R200), the networks' requests, dies, clusters, bound cores, firmware and management; and the model's own agenda, actor and counter of free
values (log entries 1 and 5). -/
structure State where
  clk : Nat
  mem : List Host.Cell
  poison : List Nat
  watched : List Watch
  homes : List Home
  reqs : List HomeReq
  lists : List ListReq
  keys : List ListKey
  outbox : List Msg
  dies : RegFile 3 Die
  clusters : RegFile 6 Cluster
  cores : List Core
  fw : Firmware
  mgmt : Mgmt
  agenda : List Turn
  actor : Actor
  freeIx : Nat
  deriving DecidableEq, Repr

/-- Why a step stops with a fault. -/
inductive Fault where
  /-- The module has no supply: R427 and R406 power it off, and only a cold reset (R428) starts it again. Raised by
  step. Safe: the spec gives a module without supply no behaviour. -/
  | poweredOff
  deriving DecidableEq, Repr

/-- Why a step is refused. -/
inductive Refusal where
  /-- An instruction without a meaning. Raised by exec for an arm not yet written. Safe: nothing is claimed. -/
  | notModelled (mnemonic : String)
  deriving DecidableEq, Repr

/-- The free value of this step with a key of its own (log entry 5): step counts freeIx on, so no two steps share a
value. -/
def State.free (s : State) (key : Nat) : Nat := Config.freeNat (s.freeIx * 2 ^ 64 + key)

/-- A window register at core start (R118). -/
def Window.zero : Window := { base := 0, stride := 0, rowsm1 := 0, colsm1 := 0, ty := 0 }

/-- An accumulator at core start (R146). -/
def Acc.zero : Acc := { elems := RegFile.fill 12 0, tag := false, psn := false }

/-- A timeline at core start (R228). -/
def Timeline.zero : Timeline := { iss := 0, comp := 0, dones := [] }

/-- An unconfigured stage (R278). -/
def Stage.zero : Stage := { word := none, slots := RegFile.fill 4 { seq := 0, pct := 0, cct := 0 } }

/-- An empty scan buffer (R187). -/
def scanBuf : RegFile 6 ScanCell := RegFile.fill 6 { val := none, rst := false }

/-- A scan group index at core start (R187). -/
def ScanIx.zero : ScanIx :=
  { scg := 0, carry := scanBuf, carryIn := false, total := scanBuf, group := scanBuf, groupIn := false,
    groupDue := false, passed := false, wins := [], seen := [], retired := false, join := none, decided := none, members := [],
    before := 0, after := 0, spared := false }

/-- A barrier before its episode 0, in its compute phase (R284, R286). -/
def Barrier.zero : Barrier :=
  { byA := 0, byM := 0, byV := 0, made := 0, done := 0, broken := false, sync := false, budget := 0, phase := 0,
    openClk := 0 }

/-- A free route register (R333). -/
def Route.zero : Route :=
  { mode := .free, src := 0, strips := [], sstg := 0, sacc := 0, dkind := 0, dstg := 0, dests := [], links := [],
    outs := [], srcSeq := 0, srcPos := 0, dstSeq := [], dstPos := [], left := none, ended := false, spl := false,
    psn := false, beats := 0, num := 0, faults := [], movedAt := 0, seen := [] }

/-- A strand at core start, at the kernel's ENTRY (R295). -/
def Strand.start (entry : BitVec 52) : Strand :=
  { pc := entry, dwc := 0, rsn := 0, lc := RegFile.fill 2 0, lb := RegFile.fill 2 0, lact := 0, cfv := 0, cfok := 0,
    ret := [], repn := 0, exited := false, held := none, busy := false, synced := none, wait := .none, waitClk := 0,
    fillBad := false, pushes := [], history := [], trap := none }

/-- A core at its start (R354): vcore of a task, ENTRY, the core count, ARGVA, its slot, wlt, SHR and ESTR. Vector and
predicate registers start at 0 (log entry 9). -/
def Core.start (task vcore : Nat) (entry : BitVec 52) (n : Nat) (argva : Word) (j : Nat) (wlt : Word) (shr : BitVec 4)
    (estr : Word) : Core :=
  { task := task, vcore := vcore, strandA := Strand.start entry, strandM := Strand.start entry,
    strandV := Strand.start entry,
    s := ((((RegFile.fill 5 0).put 1 (BitVec.ofNat 64 vcore)).put 2 (BitVec.ofNat 64 n)).put 3 argva).put 4
      (BitVec.ofNat 64 (j * Config.tileBytes)),
    v := RegFile.fill 5 (RegFile.fill 6 0), p := RegFile.fill 3 0, w := RegFile.fill 4 Window.zero,
    k := RegFile.fill 4 0, ft := RegFile.fill 4 0, d := RegFile.fill 4 0, acc := RegFile.fill 2 Acc.zero, mmul := none, work := none, mbeats := [], mread := [], split := none, taken := none,
    sown := 0, slipw := 256, ftsel := 0, rseed := 0, mprog := 0, its := 0, invA := none, wlt := wlt,
    dm := RegFile.tab 2 (fun i => if shr.getLsbD i then 0x10000 else 0), dmNext := RegFile.fill 2 none,
    bars := RegFile.fill 3 Barrier.zero, scans := RegFile.fill 2 ScanIx.zero, stages := RegFile.fill 3 Stage.zero,
    tls := RegFile.fill 3 Timeline.zero, chans := RegFile.fill 2 { queue := [], ending := [], fill := none, count := 0 },
    routes := RegFile.fill 4 Route.zero, tokens := RegFile.fill 3 0, jump := none, jumpTaken := 0, overlay := [],
    estim := estr, quiet := none, colls := RegFile.fill 2 0, flights := [], vnext := 0, tlb := [], pins := [],
    trapped := none, waitRec := [], record := none, raised := false, freeze := false, stopped := false, exited := false, killed := false,
    shared := false, started := true }

/-- A strip before any WLOAD (R325, log entry 9). -/
def Strip.zero : Strip :=
  { prog := [], c0 := RegFile.fill 6 0, c1 := RegFile.fill 6 0, table := RegFile.fill 9 0, acc := none, pos := 0, left := 0, idle := none, busyTo := 0, gather := [], owed := [], ended := false }

/-- A transpose unit with no block (R323). -/
def TransUnit.zero : TransUnit := { coming := [], marks := 0, going := [], ended := false }

/-- A physical cluster before any task; the defect map disables cluster 7 of each die here, and the
signature is 0 until COLD_RESET brings the fused map (log entry 9). -/
def Cluster.zero (i : Nat) : Cluster :=
  { enabled := i % 8 != 7, sig := 0, badSlots := [64, 65], strips := RegFile.fill 4 Strip.zero,
    units := RegFile.fill 1 TransUnit.zero, tlb := [], pins := [], lastCtx := none, closed := false, watch := 0 }

/-- An invalid context with the defaults of R338 and R360. -/
def Context.zero : Context :=
  { valid := false, asid := 0, quota := 1, root := 0, part := 0, spva := 0, splen := 0, wdog := 4096, splim := 1024,
    drlim := 2 ^ 26, wlt := 0, fpool := 0 }

/-- The time-share table at reset (R382): row D holds FW = 4 and HS = 4. -/
def tableReset : RegFile 7 (BitVec 8) := ((RegFile.fill 7 0).put 69 4).put 68 4

/-- Firmware state before bring-up: nothing registered. -/
def Firmware.zero : Firmware :=
  { contexts := RegFile.fill 4 Context.zero, queues := [], objects := [], nextObj := 0, kickmap := [], roused := false, woke := 0,
    ticked := 0, winner := 63, saves := 0,
    selected := [], tasks := [], nextTask := 0, table := tableReset, table2 := tableReset, invals := [],
    removed := false, drains := [], fills := [] }

/-- Management state after power-on, before bring-up sets READY (R413, R414, R428). -/
def Mgmt.zero : Mgmt :=
  { ready := false, powered := true, pkg := 0, bell := none, belldone := 0, evcons := 0, evring := none, evcount := 0,
    events := [], msix := [], urs := 0, fnmode := 0, fnreq := [], telpa := 0, tellen := 0, telno := 0, telclk := 0,
    corrected := 0, hot := 0, overClk := 0, fuses := [], msm := RegFile.fill 3 0, badCores := [],
    badClusters := [], badFrames := [], ports := 0xFF, edges := [], up := false, errors := [], due := [],
    killing := none }

/-- The module right after power-on and before COLD_RESET has run: no task, no context, memory with nothing listed
(log entries 8 and 9). -/
def State.reset : State :=
  { clk := 0, mem := [], poison := [], watched := [], homes := [], reqs := [], lists := [], keys := [], outbox := [],
    dies := RegFile.fill 3 { iclk := 0, duty := 64, duty2 := 64, walks := [] },
    clusters := RegFile.tab 6 Cluster.zero, cores := [], fw := Firmware.zero, mgmt := Mgmt.zero, agenda := [],
    actor := .none, freeIx := 0 }

end Sys2Proof.Machine
end

