-- ==== Sys2Proof/Machine/View.lean ====
section
/-! DEFINITION. Named reads and updates of the parts of the state: cores, strands, tasks, contexts, clusters, dies,
queues; and the names of the trap causes (spec/16, R388). -/
namespace Sys2Proof.Machine

/-- A trap with its cause code, DETAIL and address (R388). -/
def trapOf (cause detail addr : Nat) : TrapInfo :=
  { cause := BitVec.ofNat 8 cause, detail := BitVec.ofNat 32 detail, addr := addr, write := false }

/-- ILLEGAL_OP with the number of the failing check of R54, or 0 for a check made during execution (R388). -/
def illegalOp (chk : Nat) : TrapInfo := trapOf 1 chk 0
/-- ALIGN_FAULT (R388). -/
def alignFault (addr : Nat) : TrapInfo := trapOf 3 0 addr
/-- PAGE_FAULT with its reason (R375, R388). -/
def pageFault (reason addr : Nat) : TrapInfo := trapOf 4 reason addr
/-- PERM_FAULT with its reason (R375, R388). -/
def permFault (reason addr : Nat) : TrapInfo := trapOf 5 reason addr
/-- WINDOW_FAULT; ADDR holds the window address (R388). -/
def windowFault (addr : Nat) : TrapInfo := trapOf 6 0 addr
/-- POISON with its source: 0 memory or window row, 1 accumulator, 2 welt beat, 3 core state (R388). -/
def poisonTrap (src addr : Nat) : TrapInfo := trapOf 7 src addr
/-- STAGE_FAULT (R388). -/
def stageFault (k : Nat) : TrapInfo := trapOf 0xE k 0
/-- DOMAIN_FAULT (R388). -/
def domainFault (lvl : Nat) : TrapInfo := trapOf 0xF lvl 0
/-- BARRIER_BROKEN (R388). -/
def barrierBroken (lvl : Nat) : TrapInfo := trapOf 0xC lvl 0
/-- SCAN_BROKEN (R388). -/
def scanBroken (g : Nat) : TrapInfo := trapOf 0xB g 0
/-- WELT_FAULT: route and strip (R388). -/
def weltFault (rt ws : Nat) : TrapInfo := trapOf 0x10 (rt + 16 * ws) 0

/-- The strand of a core. -/
def Core.strand (c : Core) : Eng → Strand
  | .a => c.strandA
  | .m => c.strandM
  | .v => c.strandV

/-- Replaces a strand of a core. -/
def Core.setStrand (c : Core) (e : Eng) (x : Strand) : Core :=
  match e with
  | .a => { c with strandA := x }
  | .m => { c with strandM := x }
  | .v => { c with strandV := x }

/-- The three strands of a core. -/
def Core.strands (c : Core) : List Strand := [c.strandA, c.strandM, c.strandV]

/-- Changes every strand of a core. -/
def Core.mapStrands (c : Core) (f : Strand → Strand) : Core :=
  { c with strandA := f c.strandA, strandM := f c.strandM, strandV := f c.strandV }

/-- The core at a place in the list of bound cores. -/
def State.core? (s : State) (ci : Nat) : Option Core := s.cores[ci]?

/-- Replaces the core at a place; a place without a core changes nothing. -/
def State.setCore (s : State) (ci : Nat) (c : Core) : State := { s with cores := s.cores.set ci c }

/-- Changes the core at a place. -/
def State.updCore (s : State) (ci : Nat) (f : Core → Core) : State := { s with cores := modifyAt s.cores ci f }

/-- Changes a strand of the core at a place. -/
def State.updStrand (s : State) (ci : Nat) (e : Eng) (f : Strand → Strand) : State :=
  s.updCore ci (fun c => c.setStrand e (f (c.strand e)))

/-- The place of a core named by task and vcore. -/
def State.place (s : State) (key : Nat × Nat) : Option Nat :=
  s.cores.findIdx? (fun c => c.task == key.1 && c.vcore == key.2)

/-- The name of a core: task and vcore. -/
def Core.key (c : Core) : Nat × Nat := (c.task, c.vcore)

/-- Changes every core of which a property holds. -/
def State.mapCores (s : State) (p : Core → Bool) (f : Core → Core) : State :=
  { s with cores := s.cores.map (fun c => if p c then f c else c) }

/-- The task with an identifier. -/
def State.task? (s : State) (id : Nat) : Option Task := s.fw.tasks.find? (fun t => t.id == id)

/-- Changes the firmware state. -/
def State.updFw (s : State) (f : Firmware → Firmware) : State := { s with fw := f s.fw }

/-- Changes the management state. -/
def State.updMgmt (s : State) (f : Mgmt → Mgmt) : State := { s with mgmt := f s.mgmt }

/-- Changes the task with an identifier. -/
def State.updTask (s : State) (id : Nat) (f : Task → Task) : State :=
  s.updFw (fun w => { w with tasks := w.tasks.map (fun t => if t.id == id then f t else t) })

/-- Changes a context. -/
def State.updCtx (s : State) (n : Nat) (f : Context → Context) : State :=
  s.updFw (fun w => { w with contexts := w.contexts.put n (f (w.contexts.at' n)) })

/-- The queue with an identifier. -/
def State.queue? (s : State) (q : Nat) : Option Queue := s.fw.queues.find? (fun x => x.qid == q)

/-- Changes the queue with an identifier. -/
def State.updQueue (s : State) (q : Nat) (f : Queue → Queue) : State :=
  s.updFw (fun w => { w with queues := w.queues.map (fun x => if x.qid == q then f x else x) })

/-- Changes a physical cluster. -/
def State.updCluster (s : State) (cl : Nat) (f : Cluster → Cluster) : State :=
  { s with clusters := s.clusters.put cl (f (s.clusters.at' cl)) }

/-- Cores per cluster of the core's task (R26). -/
def State.ppc (s : State) (c : Core) : Nat :=
  match s.task? c.task with
  | some t => t.ppc
  | none => 1

/-- The core's task cluster index: vcore = c * P + j (R26). -/
def State.cidx (s : State) (c : Core) : Nat := c.vcore / s.ppc c

/-- The core's slot in its cluster (R26). -/
def State.slot (s : State) (c : Core) : Nat := c.vcore % s.ppc c

/-- Clusters of the core's task (R26). -/
def State.nclus (s : State) (c : Core) : Nat :=
  match s.task? c.task with
  | some t => t.nclus
  | none => 1

/-- The physical cluster of a task's cluster index, through the remap table (R26). -/
def Task.phys (t : Task) (i : Nat) : Nat := t.clusters.getD i 0

/-- The physical cluster of a core (R26). -/
def State.phys (s : State) (c : Core) : Nat :=
  match s.task? c.task with
  | some t => t.phys (c.vcore / t.ppc)
  | none => 0

/-- The compute die of a core (R12). -/
def State.die (s : State) (c : Core) : Nat := s.phys c / Config.clustersPerDie

/-- The unit number of a core slot (R424). -/
def slotUnit (cl j : Nat) : Nat := cl / 8 * 2 ^ 16 + cl % 8 * 2 ^ 8 + j

/-- The number of the physical slot of a bound core. -/
def State.slotUnitOf (s : State) (c : Core) : Nat :=
  let t := s.task? c.task
  let l := (t.map (fun t => t.slots.getD (s.cidx c) [])).getD []
  slotUnit (s.phys c) (l.getD (s.slot c) 0)

/-- The issue clk of the core's die (R63). -/
def State.iclk (s : State) (c : Core) : Nat := (s.dies.at' (s.die c)).iclk

/-- The context number of the core's task. -/
def State.ctxNo (s : State) (c : Core) : Nat :=
  match s.task? c.task with
  | some t => t.ctx
  | none => 0

/-- The context of the core's task. -/
def State.ctx (s : State) (c : Core) : Context := s.fw.contexts.at' (s.ctxNo c)

/-- The core of a task that owns a vcore. -/
def State.peerCore (s : State) (task vcore : Nat) : Option Core :=
  s.cores.find? (fun c => c.task == task && c.vcore == vcore)

/-- Adds 1 to a task's lateness counter (R29, R239, R284). -/
def State.addLate (s : State) (task n : Nat) : State := s.updTask task (fun t => { t with late := t.late + n })

/-- Whether the core is frozen or stopped, so that none of its strands issues (R361, R389). -/
def Core.halted (c : Core) : Bool := c.freeze || c.trapped.isSome || c.killed || !c.started

/-- A timeline takes its next number (R228): the number, and the timeline after it. -/
def Timeline.take (t : Timeline) : Nat × Timeline := (t.iss.toNat + 1, { t with iss := t.iss + 1 })

/-- Advances the completion counter over every number that is done (R228). -/
def Timeline.settle (t : Timeline) : Nat → Timeline
  | 0 => t
  | k + 1 =>
    if t.dones.contains (t.comp.toNat + 1) then
      Timeline.settle { t with comp := t.comp + 1, dones := t.dones.filter (fun n => n != t.comp.toNat + 1) } k
    else t

/-- The operation numbered n is done (R228). -/
def Timeline.finish (t : Timeline) (n : Nat) : Timeline :=
  Timeline.settle { t with dones := n :: t.dones } (t.dones.length + 1)

/-- A core's timeline k takes its next number. -/
def Core.takeNum (c : Core) (k : Nat) : Nat × Core :=
  let r := (c.tls.at' k).take
  (r.1, { c with tls := c.tls.put k r.2 })

/-- The operation numbered n of a core's timeline k is done. -/
def Core.doneNum (c : Core) (k n : Nat) : Core := { c with tls := c.tls.put k ((c.tls.at' k).finish n) }

end Sys2Proof.Machine
end

