-- ==== Sys2Proof/Machine/Flags.lean ====
section
/-! DEFINITION. Condition flags and their copies (spec/12, R301), token counters and pushes (R298-R300). -/
namespace Sys2Proof.Machine

/-- Sets or clears bit n of a byte of flag bits. -/
def putBit (x : BitVec 8) (n : Nat) (b : Bool) : BitVec 8 :=
  if b then x ||| (1#8 <<< n) else x &&& ~~~(1#8 <<< n)

/-- Whether every copy of a flag is invalid, as a flag write waits for (R301). -/
def Core.flagFree (c : Core) (n : Nat) : Bool := c.strands.all (fun st => !st.cfok.getLsbD n)

/-- Writes a flag's value into the copies of the three strands in one step (R301). -/
def Core.writeFlag (c : Core) (n : Nat) (f : Bool) : Core :=
  c.mapStrands (fun st => { st with cfv := putBit st.cfv n f, cfok := putBit st.cfok n true })

/-- The counter that PUSHN adds to (R298). -/
def pushNext : Eng → BitVec 3
  | .a => 0
  | .m => 3
  | .v => 4

/-- The counter that PUSHP adds to (R298). -/
def pushPrev : Eng → BitVec 3
  | .a => 1
  | .m => 2
  | .v => 5

/-- The counter that POPN takes from (R298). -/
def popNext : Eng → BitVec 3
  | .a => 2
  | .m => 5
  | .v => 1

/-- The counter that POPP takes from (R298). -/
def popPrev : Eng → BitVec 3
  | .a => 4
  | .m => 0
  | .v => 3

/-- The counters a word pops (R39). -/
def popsOf (h : Hdr) (e : Eng) : List (BitVec 3) :=
  (if h.popN then [popNext e] else []) ++ (if h.popP then [popPrev e] else [])

/-- The counters a word pushes (R39). -/
def pushesOf (h : Hdr) (e : Eng) : List (BitVec 3) :=
  (if h.pushN then [pushNext e] else []) ++ (if h.pushP then [pushPrev e] else [])

/-- The first counter a word pops that is zero (R298). -/
def Core.lacking (c : Core) (ctrs : List (BitVec 3)) : Option (BitVec 3) :=
  ctrs.find? (fun k => c.tokens.read k == 0)

/-- Decrements each counter popped, all in one step (R298). -/
def Core.pop (c : Core) (ctrs : List (BitVec 3)) : Core :=
  { c with tokens := ctrs.foldl (fun t k => t.write k (t.read k - 1)) c.tokens }

/-- Gives back the tokens of an instruction that traps after its issue (R5); a counter at 15 stays. -/
def Core.unpop (c : Core) (ctrs : List (BitVec 3)) : Core :=
  { c with tokens := ctrs.foldl (fun t k => t.write k (if t.read k == 15 then 15 else t.read k + 1)) c.tokens }

/-- Makes the pushes that are due, in order; a push to a counter at 15 waits (R299). A waiting push holds those of later
instructions behind it; where all are due from the start (due 0: an instruction of A or M, or a freeze that let every
result land) it holds only those to its own counter (R300). -/
def settle : List Push → RegFile 3 (BitVec 4) → Nat → List Push × RegFile 3 (BitVec 4)
  | [], t, _ => ([], t)
  | p :: ps, t, now =>
    if p.due ≤ now && t.read p.ctr != 15 then settle ps (t.write p.ctr (t.read p.ctr + 1)) now
    else if p.due == 0 then (p :: (settle ps t now).1, (settle ps t now).2)
    else (p :: ps, t)

/-- Makes one strand's due pushes. -/
def Core.settleStrand (c : Core) (e : Eng) (now : Nat) : Core :=
  let r := settle (c.strand e).pushes c.tokens now
  { c.setStrand e { c.strand e with pushes := r.1 } with tokens := r.2 }

/-- Makes every due push of the core, those of A, then M, then V (R300). -/
def Core.settleAll (c : Core) (now : Nat) : Core :=
  ((c.settleStrand .a now).settleStrand .m now).settleStrand .v now

/-- Every result of the core lands, and its pushes are made as far as their counters allow (R67, R300). -/
def Core.landAll (c : Core) : Core :=
  let c : Core := { c with flights := [] }
  (c.mapStrands (fun st => { st with pushes := st.pushes.map (fun p => { p with due := 0 }) })).settleAll 0

/-- The counter on which a strand's oldest push waits although it is due (R299). -/
def Core.pushBlocked (c : Core) (e : Eng) (now : Nat) : Option (BitVec 3) :=
  match (c.strand e).pushes with
  | [] => none
  | p :: _ => if p.due ≤ now && c.tokens.read p.ctr == 15 then some p.ctr else none

/-- A strand queues the pushes of a retired instruction; they are due at an issue clk (R66, R299). -/
def Core.addPushes (c : Core) (e : Eng) (ctrs : List (BitVec 3)) (due : Nat) : Core :=
  c.setStrand e { c.strand e with pushes := (c.strand e).pushes ++ ctrs.map (fun k => { ctr := k, due := due }) }

end Sys2Proof.Machine
end

