-- ==== Sys2Proof/Machine/Numfmt.lean ====
section
/-! DEFINITION. Number formats, rounding, conversions, block scales and stochastic rounding (spec/04, R85-R107). -/
namespace Sys2Proof.Machine

/-- The formats that the type codes 0 to 12 name (R43). -/
inductive Fmt where
  | fp32 | bf16 | fp16 | e4m3 | e5m2 | mxfp4 | t8 | t6 | int8 | uint8 | int16 | int32 | int64
  deriving DecidableEq, Repr

/-- The format of a type code; 13 to 15 name none (R43). -/
def Fmt.ofCode : Nat → Option Fmt
  | 0 => some .fp32 | 1 => some .bf16 | 2 => some .fp16 | 3 => some .e4m3 | 4 => some .e5m2
  | 5 => some .mxfp4 | 6 => some .t8 | 7 => some .t6 | 8 => some .int8 | 9 => some .uint8
  | 10 => some .int16 | 11 => some .int32 | 12 => some .int64 | _ => none

/-- The type code of a format (R43). -/
def Fmt.code : Fmt → Nat
  | .fp32 => 0 | .bf16 => 1 | .fp16 => 2 | .e4m3 => 3 | .e5m2 => 4 | .mxfp4 => 5 | .t8 => 6 | .t6 => 7
  | .int8 => 8 | .uint8 => 9 | .int16 => 10 | .int32 => 11 | .int64 => 12

/-- Width of one element in bits (R86, R89, R94, R96). -/
def Fmt.bits : Fmt → Nat
  | .fp32 => 32 | .bf16 => 16 | .fp16 => 16 | .e4m3 => 8 | .e5m2 => 8 | .mxfp4 => 4 | .t8 => 8 | .t6 => 6
  | .int8 => 8 | .uint8 => 8 | .int16 => 16 | .int32 => 32 | .int64 => 64

/-- The integer formats (R89). -/
def Fmt.isInt : Fmt → Bool
  | .int8 | .uint8 | .int16 | .int32 | .int64 => true
  | _ => false

/-- The two formats that always carry a block scale (R91). -/
def Fmt.isBlock : Fmt → Bool
  | .mxfp4 | .t6 => true
  | _ => false

/-- The rounding modes of the RM field (R42). -/
inductive Rm where
  | rne | rtz | rdn | rup
  deriving DecidableEq, Repr

/-- The mode an RM field holds (R42). -/
def Rm.ofField (x : BitVec 2) : Rm :=
  if x == 0 then .rne else if x == 1 then .rtz else if x == 2 then .rdn else .rup

/-- A real number given exactly, or up to a remainder: its magnitude is m * 2^e when st is false, and lies strictly
between m * 2^e and (m + 1) * 2^e when st is true. -/
structure Exact where
  neg : Bool
  m : Nat
  e : Int
  st : Bool
  deriving DecidableEq, Repr

/-- What a code of a format stands for: a NaN or NaR, an infinity, or a real with its sign of zero (R87, R98). -/
inductive FNum where
  | nan
  | inf (neg : Bool)
  | fin (x : Exact)
  deriving DecidableEq, Repr

/-- The exact number m * 2^e with a sign. -/
def FNum.dy (neg : Bool) (m : Nat) (e : Int) : FNum := .fin { neg := neg, m := m, e := e, st := false }

/-- A zero with a sign. -/
def FNum.zero (neg : Bool) : FNum := .dy neg 0 0

/-- The exact integer. -/
def FNum.ofInt (x : Int) : FNum := .dy (decide (x < 0)) x.natAbs 0

/-- 1.0. -/
def FNum.one : FNum := .dy false 1 0

/-- Exponent bits, bias and significand bits of a format with an exponent field (R86). -/
def ieeeParams : Fmt → Nat × Nat
  | .fp32 => (127, 23) | .bf16 => (127, 7) | .fp16 => (15, 10) | .e4m3 => (7, 3) | .e5m2 => (15, 2) | _ => (1, 1)

/-- Length of the run of bits equal to the top one, in the low w bits of x (R94, step 1). -/
def runLength : Nat → Nat → Bool → Nat
  | 0, _, _ => 0
  | w + 1, x, b => if bitAt x w == b then 1 + runLength w x b else 0

/-- Magnitude of a nonzero tapered code of w bits whose exponent field has eb bits (R94: 7 and 1; R96: 5 and 0). -/
def taperedMag (w eb x : Nat) : Nat × Int :=
  let top := bitAt x (w - 1)
  let l := runLength w x top
  let k : Int := if top then (l : Int) - 1 else -(l : Int)
  let left := w - l - 1
  let eb := Nat.min eb left
  let n := left - eb
  let ex : Int := if eb == 0 then 0 else if bitAt x n then 1 else 0
  (2 ^ n + x % 2 ^ n, (if w == 7 then 2 * k else k) + ex - n)

/-- The magnitude of a finite magnitude code, as m and e of m * 2^e (R87, R94, R96). -/
def magValue (t : Fmt) (c : Nat) : Nat × Int :=
  match t with
  | .t8 => if c == 0 then (0, 0) else taperedMag 7 1 c
  | .t6 => if c == 0 then (0, 0) else taperedMag 5 0 c
  | t =>
    let p := ieeeParams t
    let ex := c / 2 ^ p.2
    let sg := c % 2 ^ p.2
    if ex == 0 then (sg, 1 - (p.1 : Int) - p.2) else (2 ^ p.2 + sg, (ex : Int) - p.1 - p.2)

/-- The code of the largest finite magnitude (R86, R95, R97). -/
def maxFinite : Fmt → Nat
  | .fp32 => 0x7F7FFFFF | .bf16 => 0x7F7F | .fp16 => 0x7BFF | .e4m3 => 0x7E | .e5m2 => 0x7B | .mxfp4 => 7
  | .t8 => 0x7F | .t6 => 0x1F | _ => 0

/-- The magnitude code of infinity, where the format has one (R86). -/
def infCode : Fmt → Option Nat
  | .fp32 => some 0x7F800000 | .bf16 => some 0x7F80 | .fp16 => some 0x7C00 | .e5m2 => some 0x7C | _ => none

/-- The canonical NaN or NaR of a format; formats without one give 0 (R86, R88, R102). -/
def nanCode : Fmt → Nat
  | .fp32 => 0x7FC00000 | .bf16 => 0x7FC0 | .fp16 => 0x7E00 | .e4m3 => 0x7F | .e5m2 => 0x7E
  | .t8 => 0x80 | .t6 => 0x20 | _ => 0

/-- What a code stands for, before any scale (R87, R89, R94-R98). -/
def decodeNum (t : Fmt) (c : Nat) : FNum :=
  match t with
  | .uint8 => .ofInt (c % 256 : Nat)
  | .int8 => .ofInt (toSigned 8 c)
  | .int16 => .ofInt (toSigned 16 c)
  | .int32 => .ofInt (toSigned 32 c)
  | .int64 => .ofInt (toSigned 64 c)
  | t =>
    let c := c % 2 ^ t.bits
    let s := bitAt c (t.bits - 1)
    let mag := c % 2 ^ (t.bits - 1)
    if (t == .t8 || t == .t6) && s && mag == 0 then .nan
    else if mag ≤ maxFinite t then .dy s (magValue t mag).1 (magValue t mag).2
    else if infCode t == some mag then .inf s
    else .nan

/-- Compares m1 * 2^e1 with m2 * 2^e2. -/
def cmpDyadic (m1 : Nat) (e1 : Int) (m2 : Nat) (e2 : Int) : Ordering :=
  let b := min e1 e2
  compare (m1 * 2 ^ (e1 - b).toNat) (m2 * 2 ^ (e2 - b).toNat)

/-- Compares a magnitude with m * 2^e; a remainder makes an equal truncation greater. -/
def Exact.cmpMag (x : Exact) (m : Nat) (e : Int) : Ordering :=
  match cmpDyadic x.m x.e m e with
  | .eq => if x.st then .gt else .eq
  | o => o

/-- Whether the number is zero. -/
def Exact.isZero (x : Exact) : Bool := x.m == 0 && !x.st

/-- The code of the largest finite magnitude that is at most x, found bit by bit: magnitudes rise with their codes
(R87, R95, R97). -/
def floorCode (t : Fmt) (x : Exact) : Nat → Nat → Nat
  | 0, c => c
  | k + 1, c =>
    let d := c + 2 ^ k
    let v := magValue t d
    floorCode t x k (if d ≤ maxFinite t && x.cmpMag v.1 v.2 != .lt then d else c)

/-- Half the sum of two magnitudes, as a dyadic. -/
def midpoint (a b : Nat × Int) : Nat × Int :=
  let e := min a.2 b.2
  (a.1 * 2 ^ (a.2 - e).toNat + b.1 * 2 ^ (b.2 - e).toNat, e - 1)

/-- The magnitude one gap beyond the largest finite one (R99, R106). -/
def missingMag (t : Fmt) : Nat × Int :=
  let a := magValue t (maxFinite t)
  let b := magValue t (maxFinite t - 1)
  let e := min a.2 b.2
  (2 * (a.1 * 2 ^ (a.2 - e).toNat) - b.1 * 2 ^ (b.2 - e).toNat, e)

/-- Puts the sign on a magnitude code: the tapered formats have one zero (R100). -/
def signCode (t : Fmt) (neg : Bool) (mag : Nat) : Nat :=
  if (t == .t8 || t == .t6) && mag == 0 then 0 else (if neg then 2 ^ (t.bits - 1) else 0) + mag

/-- The overflow results of R101 for formats that are not integers. -/
def overflowCode (t : Fmt) (sat neg : Bool) : Nat :=
  match infCode t with
  | some i => signCode t neg (if sat then maxFinite t else i)
  | none => if t == .e4m3 && !sat then 0x7F else signCode t neg (maxFinite t)

/-- Whether a mode rounds a magnitude of this sign away from zero when it is not representable, and it is not RNE. -/
def Rm.away (rm : Rm) (neg : Bool) : Bool :=
  match rm with
  | .rdn => neg
  | .rup => !neg
  | _ => false

/-- R99 to R101: rounds an exact real into a format that is not an integer. -/
def roundFloat (t : Fmt) (rm : Rm) (sat : Bool) (x : Exact) : Nat :=
  let top := magValue t (maxFinite t)
  if x.cmpMag top.1 top.2 == .gt then
    let half := midpoint top (missingMag t)
    match rm with
    | .rne => if x.cmpMag half.1 half.2 == .lt then signCode t x.neg (maxFinite t) else overflowCode t sat x.neg
    | rm => if rm.away x.neg then overflowCode t sat x.neg else signCode t x.neg (maxFinite t)
  else
    let lo := floorCode t x (t.bits - 1) 0
    let v := magValue t lo
    if x.cmpMag v.1 v.2 == .eq then signCode t x.neg lo
    else
      let mid := midpoint v (magValue t (lo + 1))
      let up := match rm with
        | .rne => match x.cmpMag mid.1 mid.2 with
          | .lt => false
          | .gt => true
          | .eq => lo % 2 == 1
        | rm => rm.away x.neg
      signCode t x.neg (if up then lo + 1 else lo)

/-- Rounds an exact real to an integer under a mode (R99, R103). -/
def roundInt (rm : Rm) (x : Exact) : Int :=
  let q := if 0 ≤ x.e then x.m * 2 ^ x.e.toNat else x.m / 2 ^ (-x.e).toNat
  let r := if 0 ≤ x.e then 0 else x.m % 2 ^ (-x.e).toNat
  let d := if 0 ≤ x.e then 1 else 2 ^ (-x.e).toNat
  let exact := r == 0 && !x.st
  let up := match rm with
    | .rne => 2 * r > d || (2 * r == d && (x.st || q % 2 == 1))
    | rm => rm.away x.neg && !exact
  let n : Int := if up && !exact then (q + 1 : Nat) else (q : Nat)
  if x.neg then -n else n

/-- The smallest value of an integer format (R89). -/
def intMin : Fmt → Int
  | .uint8 => 0
  | t => -((2 ^ (t.bits - 1) : Nat) : Int)

/-- The largest value of an integer format (R89). -/
def intMax : Fmt → Int
  | .uint8 => 255
  | t => ((2 ^ (t.bits - 1) : Nat) : Int) - 1

/-- sat(x, T) for an integer format (R9, R101). -/
def satInt (t : Fmt) (x : Int) : Int := max (intMin t) (min (intMax t) x)

/-- cvt(x, T, rm) of R9, with the SAT setting: rounding, overflow and non-finite inputs (R99-R103). The code has the
width of the format. -/
def cvt (t : Fmt) (rm : Rm) (sat : Bool) (x : FNum) : Nat :=
  match x with
  | .nan => nanCode t
  | .inf neg =>
    if t.isInt then wrapInt t.bits (if neg then intMin t else intMax t) else overflowCode t sat neg
  | .fin x => if t.isInt then wrapInt t.bits (satInt t (roundInt rm x)) else roundFloat t rm sat x

/-- rne(x, FP32) (R9). -/
def rneF (x : FNum) : Nat := cvt .fp32 .rne false x

/-- The value of an FP32 code. -/
def f32 (c : Nat) : FNum := decodeNum .fp32 c

/-- Multiplies by 2^k exactly. -/
def FNum.shift (x : FNum) (k : Int) : FNum :=
  match x with
  | .fin x => .fin { x with e := x.e + k }
  | x => x

/-- Changes the sign, of a zero and an infinity too. -/
def FNum.negate : FNum → FNum
  | .nan => .nan
  | .inf n => .inf (!n)
  | .fin x => .fin { x with neg := !x.neg }

/-- The magnitude. -/
def FNum.abs : FNum → FNum
  | .nan => .nan
  | .inf _ => .inf false
  | .fin x => .fin { x with neg := false }

/-- The sign bit; a NaN has none. -/
def FNum.neg : FNum → Bool
  | .nan => false
  | .inf n => n
  | .fin x => x.neg

/-- Whether the value is an infinity or a NaN. -/
def FNum.notFinite : FNum → Bool
  | .fin _ => false
  | _ => true

/-- Whether the value is a zero. -/
def FNum.isZero : FNum → Bool
  | .fin x => x.isZero
  | _ => false

/-- The value of an E8M0 scale byte (R90). -/
def e8m0 (b : Nat) : FNum := if b % 256 == 255 then .nan else .dy false 1 ((b % 256 : Nat) - 127)

/-- The exact product; a NaN factor, and zero times infinity, give a NaN (R126, R160). -/
def FNum.mul (a b : FNum) : FNum :=
  match a, b with
  | .nan, _ => .nan
  | _, .nan => .nan
  | .inf n, b => if b.isZero then .nan else .inf (n != b.neg)
  | a, .inf n => if a.isZero then .nan else .inf (a.neg != n)
  | .fin x, .fin y => .fin { neg := x.neg != y.neg, m := x.m * y.m, e := x.e + y.e, st := x.st || y.st }

/-- The signed numerator of an exact number over 2^b, for b at most its exponent. -/
def Exact.atExp (x : Exact) (b : Int) : Int :=
  let n : Int := (x.m * 2 ^ (x.e - b).toNat : Nat)
  if x.neg then -n else n

/-- The exact sum of two exact reals, an exact zero taking the sign IEEE 754-2019 gives under the mode (R126). -/
def Exact.add (rm : Rm) (x y : Exact) : Exact :=
  let b := min x.e y.e
  let s := x.atExp b + y.atExp b
  if s == 0 then
    { neg := if x.neg == y.neg && x.m == 0 && y.m == 0 then x.neg else rm == .rdn, m := 0, e := 0, st := false }
  else { neg := decide (s < 0), m := s.natAbs, e := b, st := false }

/-- The exact sum (R126). -/
def FNum.add (rm : Rm) (a b : FNum) : FNum :=
  match a, b with
  | .nan, _ => .nan
  | _, .nan => .nan
  | .inf n, .inf m => if n == m then .inf n else .nan
  | .inf n, .fin _ => .inf n
  | .fin _, .inf n => .inf n
  | .fin x, .fin y => .fin (Exact.add rm x y)

/-- Fractional bits a quotient or a root carries before its remainder flag. -/
abbrev extraBits : Nat := 160

/-- The quotient, with IEEE 754-2019's special cases (R126, R133). -/
def FNum.div (a b : FNum) : FNum :=
  match a, b with
  | .nan, _ => .nan
  | _, .nan => .nan
  | .inf _, .inf _ => .nan
  | .inf n, .fin y => .inf (n != y.neg)
  | .fin x, .inf n => .zero (x.neg != n)
  | .fin x, .fin y =>
    if y.isZero then (if x.isZero then .nan else .inf (x.neg != y.neg))
    else
      let n := x.m * 2 ^ (extraBits + y.m.log2)
      .fin { neg := x.neg != y.neg, m := n / y.m, e := x.e - y.e - ((extraBits + y.m.log2 : Nat) : Int),
             st := n % y.m != 0 || x.st }

/-- Newton's iteration for the integer square root, from above. -/
def isqrtGo : Nat → Nat → Nat → Nat
  | 0, _, r => r
  | k + 1, n, r =>
    let r' := (r + n / r) / 2
    if r' < r then isqrtGo k n r' else r

/-- floor of the square root. -/
def isqrt (n : Nat) : Nat := if n == 0 then 0 else isqrtGo (n.log2 + 4) n (2 ^ (n.log2 / 2 + 1))

/-- The square root (R133, R165); a negative nonzero input gives a NaN and a zero keeps its sign. -/
def FNum.sqrt (a : FNum) : FNum :=
  match a with
  | .nan => .nan
  | .inf n => if n then .nan else .inf false
  | .fin x =>
    if x.isZero then .fin x else if x.neg then .nan
    else
      let odd := x.e % 2 != 0
      let m := (if odd then 2 * x.m else x.m) * 2 ^ (2 * extraBits)
      let e := if odd then x.e - 1 else x.e
      let r := isqrt m
      .fin { neg := false, m := r, e := e / 2 - (extraBits : Int), st := r * r != m }

/-- The reciprocal square root (R133). -/
def FNum.rsqrt (a : FNum) : FNum :=
  match a with
  | .nan => .nan
  | .inf n => if n then .nan else .zero false
  | .fin x =>
    if x.isZero then .inf x.neg else if x.neg then .nan
    else
      let odd := x.e % 2 != 0
      let m := if odd then 2 * x.m else x.m
      let e := if odd then x.e - 1 else x.e
      let k := extraBits + m.log2
      let r := isqrt (2 ^ (2 * k) / m)
      .fin { neg := false, m := r, e := -(e / 2) - (k : Int), st := r * r * m != 2 ^ (2 * k) }

/-- Order of two numbers that are not NaN; zeros of both signs are equal. -/
def FNum.cmp (a b : FNum) : Ordering :=
  match a, b with
  | .inf n, .inf m => compare m n
  | .inf n, _ => if n then .lt else .gt
  | _, .inf n => if n then .gt else .lt
  | .fin x, .fin y =>
    let e := min x.e y.e
    compare (x.atExp e) (y.atExp e)
  | _, _ => .eq

/-- The larger, with -0 below +0 and a NaN from any NaN (R132, R140). -/
def FNum.max (a b : FNum) : FNum :=
  match a, b with
  | .nan, _ => .nan
  | _, .nan => .nan
  | a, b => match a.cmp b with
    | .lt => b
    | .gt => a
    | .eq => if a.neg then b else a

/-- The smaller, with -0 below +0 and a NaN from any NaN (R132, R140). -/
def FNum.min (a b : FNum) : FNum :=
  match a, b with
  | .nan, _ => .nan
  | _, .nan => .nan
  | a, b => match a.cmp b with
    | .lt => a
    | .gt => b
    | .eq => if a.neg then a else b

/-- floor(log2 x) of a nonzero exact magnitude (R105, R208). -/
def Exact.log2 (x : Exact) : Int := (x.m.log2 : Int) + x.e

/-- The largest magnitude among the finite values of a block, as floor(log2 A); none when A = 0 or there is none
(R105, R208). -/
def blockLog2 (xs : List FNum) : Option Int :=
  xs.foldl (fun b x => match x with
    | .fin x => if x.isZero then b else match b with
      | none => some x.log2
      | some y => some (Max.max x.log2 y)
    | _ => b) none

/-- The scale byte that R105 chooses for a block of values going into MXFP4 or T6. -/
def chooseScale (t : Fmt) (xs : List FNum) : Nat :=
  if t == .mxfp4 && xs.any FNum.notFinite then 0xFF
  else match blockLog2 xs with
    | none => 127
    | some l => (Max.max (-127) (Min.min 127 (l - (if t == .mxfp4 then 2 else 4))) + 127).toNat

/-- One element under a block scale (R102, R105 step 4): under a scale the conversion chose as 0xFF every code is 0x0. -/
def cvtScaled (t : Fmt) (rm : Rm) (sat : Bool) (scale : Nat) (x : FNum) : Nat :=
  if scale == 0xFF then 0 else cvt t rm sat (x.shift (127 - (scale : Int)))

/-- An element converted under a scale byte that an instruction supplies: E8M0 NaN makes the quotient a NaN (R102,
R105). -/
def cvtSupplied (t : Fmt) (rm : Rm) (sat : Bool) (scale : Nat) (x : FNum) : Nat :=
  if scale == 0xFF then cvt t rm sat .nan else cvt t rm sat (x.shift (127 - (scale : Int)))

/-- An element decoded under an E8M0 scale (R90, R91). -/
def decodeScaled (t : Fmt) (scale c : Nat) : FNum :=
  if scale == 0xFF then .nan else (decodeNum t c).shift ((scale : Int) - 127)

/-- low32 of R107. -/
def low32 (x : Nat) : Nat := x % 2 ^ 32

/-- The random bits of R107. -/
def srbits (seed q e g : Nat) : Nat :=
  let h := low32 seed ^^^ low32 (seed / 2 ^ 32 * 0x85EBCA6B)
  let h := h ^^^ low32 q
  let h := low32 (h * 0xCC9E2D51)
  let h := h ^^^ (h / 2 ^ 15)
  let h := (h ^^^ low32 ((e + g * 2 ^ 20) * 0x1B873593)) ^^^ low32 (q / 2 ^ 32)
  let h := low32 (h * 0x2C1B3C6D)
  let h := h ^^^ (h / 2 ^ 12)
  let h := low32 (h * 0x297A2D39)
  h ^^^ (h / 2 ^ 15)

/-- Stochastic rounding of R106, with the random bits of R107 already drawn. -/
def cvtSr (t : Fmt) (sat : Bool) (rnd : Nat) (x : FNum) : Nat :=
  match x with
  | .fin x =>
    let top := magValue t (maxFinite t)
    let beyond := x.cmpMag top.1 top.2 == .gt
    let lo := if beyond then maxFinite t else floorCode t x (t.bits - 1) 0
    let near := magValue t lo
    let far := if beyond then missingMag t else magValue t (lo + 1)
    if x.cmpMag near.1 near.2 == .eq then signCode t x.neg lo
    else
      let e := Min.min x.e (Min.min near.2 far.2)
      let nx := x.m * 2 ^ (x.e - e).toNat
      let nn := near.1 * 2 ^ (near.2 - e).toNat
      let nf := far.1 * 2 ^ (far.2 - e).toNat
      let thr := (nx - nn) * 2 ^ 32 / (nf - nn)
      let farther := (beyond && x.cmpMag far.1 far.2 != .lt) || rnd < thr
      if farther then (if beyond then overflowCode t sat x.neg else signCode t x.neg (lo + 1))
      else signCode t x.neg lo
  | x => cvt t .rne sat x

/-- cvt, or its stochastic form when random bits are given (R106). -/
def cvtRnd (t : Fmt) (rm : Rm) (sat : Bool) (rnd : Option Nat) (x : FNum) : Nat :=
  match rnd with
  | none => cvt t rm sat x
  | some r => cvtSr t sat r x

end Sys2Proof.Machine
end

