-- ==== Sys2Proof/Machine/Sha.lean ====
section
/-! DEFINITION. SHAKE256 with an output of 256 bits, as the digests of R75, R398, R414 and R415 name it (log entry 41: the
function is that of FIPS 202). -/
namespace Sys2Proof.Machine

/-- The sponge's 25 words, word x + 5 y in row y. -/
abbrev Sponge := List (BitVec 64)

/-- The word in column x of row y. -/
def Sponge.at (a : Sponge) (x y : Nat) : BitVec 64 := a.getD (x % 5 + 5 * (y % 5)) 0

/-- The parity of one column. -/
def Sponge.parity (a : Sponge) (x : Nat) : BitVec 64 := (List.range 5).foldl (fun p y => p ^^^ a.at x y) 0

/-- Mixes into each word the parities of the columns on both sides of its own. -/
def Sponge.mixed (a : Sponge) : Sponge :=
  let par := tabulate 5 a.parity
  tabulate 25 (fun i => a.getD i 0 ^^^ par.getD ((i + 4) % 5) 0 ^^^ (par.getD ((i + 1) % 5) 0).rotateLeft 1)

/-- Carries a word along the walk (x, y) -> (y, 2 x + 3 y), which meets every place but (0, 0) once: at step t it is laid
down rotated by (t + 1) (t + 2) / 2 and the word found there is carried on. -/
def Sponge.walk : Nat → Nat → Nat → Nat → BitVec 64 → Sponge → Sponge
  | 0, _, _, _, _, a => a
  | k + 1, t, x, y, w, a =>
    let y' := (2 * x + 3 * y) % 5
    Sponge.walk k (t + 1) y y' (a.at y y') (a.set (y + 5 * y') (w.rotateLeft ((t + 1) * (t + 2) / 2)))

/-- Each word with the next word's complement ANDed to the one after, along its row. -/
def Sponge.bent (a : Sponge) : Sponge :=
  tabulate 25 (fun i => a.getD i 0 ^^^ (~~~(a.at (i + 1) (i / 5)) &&& a.at (i + 2) (i / 5)))

/-- One step of the 8-bit shift register whose low bits make the round constants. -/
def rcStep (r : Nat) : Nat := if r < 128 then 2 * r else Nat.xor (2 * r) 0x171

/-- Seven steps of that register, each giving bit 2 ^ j - 1 of a round's constant; with the register left. -/
def rcBits : Nat → Nat → Nat → Nat × Nat
  | 0, _, r => (0, r)
  | k + 1, j, r =>
    let (w, r') := rcBits k (j + 1) (rcStep r)
    (w + r % 2 * 2 ^ (2 ^ j - 1), r')

/-- n rounds, each with its constant from the register r. -/
def Sponge.rounds : Nat → Nat → Sponge → Sponge
  | 0, _, a => a
  | n + 1, r, a =>
    let m := a.mixed
    let b := (Sponge.walk 24 0 1 0 (m.at 1 0) m).bent
    let (w, r') := rcBits 7 0 r
    Sponge.rounds n r' (b.set 0 (b.at 0 0 ^^^ BitVec.ofNat 64 w))

/-- Bytes absorbed at once by SHAKE256. -/
abbrev shakeRate : Nat := 136

/-- Mixes one block of bytes into a state. -/
def Sponge.take (a : Sponge) (bs : List (BitVec 8)) : Sponge :=
  Sponge.rounds 24 1 (tabulate 25 (fun i => a.getD i 0 ^^^ BitVec.ofNat 64 (fieldAt bs (8 * i) 8)))

/-- The last block with its padding. -/
def shakePad (bs : List (BitVec 8)) : List (BitVec 8) :=
  modifyAt (bs ++ [0x1F] ++ List.replicate (shakeRate - 1 - bs.length) 0) (shakeRate - 1) (fun b => b ^^^ 0x80)

/-- Takes in a message block by block; fuel counts its blocks. -/
def Sponge.drink : Nat → List (BitVec 8) → Sponge → Sponge
  | 0, bs, a => a.take (shakePad bs)
  | k + 1, bs, a =>
    if bs.length < shakeRate then a.take (shakePad bs)
    else Sponge.drink k (bs.drop shakeRate) (a.take (bs.take shakeRate))

/-- The SHAKE256 output of 256 bits over a list of bytes. -/
def shake256 (bs : List (BitVec 8)) : List (BitVec 8) :=
  (List.range 4).flatMap (fun i => leBytes 8 (Sponge.at (Sponge.drink (bs.length / shakeRate) bs (List.replicate 25 0)) i 0).toNat)

end Sys2Proof.Machine
end

