-- ==== Sys2Proof/Machine/Objects.lean ====
section
/-! DEFINITION. Turip objects: their tables and the checks made at registration (spec/03, R75-R84; spec/15, R386). -/
namespace Sys2Proof.Machine

/-- Number of kernels (R75). -/
def objKernels (b : List (BitVec 8)) : Nat := fieldAt b 6 2
/-- Number of sections (R75). -/
def objSections (b : List (BitVec 8)) : Nat := fieldAt b 24 4
/-- Kernel-table entry i (R76). -/
def kernAt (b : List (BitVec 8)) (i : Nat) : List (BitVec 8) := (b.drop (fieldAt b 8 8 + 64 * i)).take 64
/-- Section entry i (R75). -/
def sectAt (b : List (BitVec 8)) (i : Nat) : List (BitVec 8) := (b.drop (fieldAt b 16 8 + 32 * i)).take 32
/-- KIND of a section (R75). -/
def sectKind (e : List (BitVec 8)) : Nat := fieldAt e 0 1
/-- File offset of a section's bytes (R75). -/
def sectOff (e : List (BitVec 8)) : Nat := fieldAt e 8 8
/-- Size of a section (R75). -/
def sectSize (e : List (BitVec 8)) : Nat := fieldAt e 16 8
/-- VA of a section (R75). -/
def sectVa (e : List (BitVec 8)) : Nat := fieldAt e 24 8
/-- The sections of an object, with their numbers. -/
def objSects (b : List (BitVec 8)) : List (Nat × List (BitVec 8)) := tabulate (objSections b) (fun i => (i, sectAt b i))
/-- Number of lasts of a kernel (R76). -/
def kernLasts (k : List (BitVec 8)) : Nat := fieldAt k 40 2
/-- Last-table entry i of a kernel (R81). -/
def lastAt (b k : List (BitVec 8)) (i : Nat) : List (BitVec 8) := (b.drop (fieldAt k 32 8 + 32 * i)).take 32
/-- The last-table entries of a kernel. -/
def kernLastTable (b k : List (BitVec 8)) : List (List (BitVec 8)) := tabulate (kernLasts k) (lastAt b k)
/-- The section of the last that a signature selects for a kernel (R81, R82). -/
def lastSect (b : List (BitVec 8)) (kern sig : Nat) : Option Nat :=
  ((kernLastTable b (kernAt b kern)).find? (fun e => fieldAt e 0 8 == sig)).map (fun e => fieldAt e 8 2)
/-- The signatures of a kernel's lasts (R81). -/
def kernSigs (b k : List (BitVec 8)) : List (BitVec 64) := (kernLastTable b k).map (fun e => BitVec.ofNat 64 (fieldAt e 0 8))
/-- The VA of a kernel's first word (R76). An ENTRY that is no multiple of 8 or lies outside the text section is taken as it
stands (log entry 61). -/
def kernEntry (b k : List (BitVec 8)) : Nat := (sectVa (sectAt b (fieldAt k 4 2)) + fieldAt k 8 8) % 2 ^ 52

/-- Whether [o, o + n) lies in a file. -/
def inFile (b : List (BitVec 8)) (o n : Nat) : Bool := decide (o + n ≤ b.length)

/-- Whether a section is mapped (R386). -/
def mapped (e : List (BitVec 8)) : Bool := 1 ≤ sectKind e && sectKind e ≤ 3 && sectSize e != 0

/-- Whether the pages of two VA ranges meet. -/
def pagesMeet (a n b m : Nat) : Bool :=
  decide (a / 65536 ≤ (b + m - 1) / 65536) && decide (b / 65536 ≤ (a + n - 1) / 65536)

/-- Whether two sections are lasts of one kernel (R81). -/
def lastsTogether (b : List (BitVec 8)) (x y : Nat) : Bool :=
  (tabulate (objKernels b) (kernAt b)).any (fun k =>
    let l := (kernLastTable b k).map (fun e => fieldAt e 8 2)
    l.contains x && l.contains y)

/-- Whether two sections of one object overlap where they must not: only the lasts of one kernel share their VA (R81,
R386). -/
def sectsClash (b : List (BitVec 8)) (x y : Nat × List (BitVec 8)) : Bool :=
  x.1 < y.1 && mapped x.2 && mapped y.2 && pagesMeet (sectVa x.2) (sectSize x.2) (sectVa y.2) (sectSize y.2)
    && !lastsTogether b x.1 y.1

/-- Whether a section entry is malformed (R75, R83, R372, R386). A section of kind 4 or 5 is accepted with any VA that is a
multiple of 65,536, and a mapped one that passes 2^52 is refused (log entry 61). -/
def sectBad (b e : List (BitVec 8)) : Bool :=
  !(1 ≤ sectKind e && sectKind e ≤ 5) || fieldAt e 1 7 != 0 || !inFile b (sectOff e) (sectSize e)
    || decide (2 ^ 52 ≤ sectVa e) || sectVa e % 65536 != 0
    || (sectKind e ≤ 3 && (decide (2 ^ 52 < sectVa e + sectSize e) || (sectSize e != 0 && sectVa e < 65536)))

/-- Whether a list holds a value twice. -/
def hasDup (l : List Nat) : Bool := l.eraseDups.length != l.length

/-- Whether a kernel's last table is malformed (R81). The reserved bits of a SIG (R79) are not looked at (log entry
61). -/
def lastsBad (b k : List (BitVec 8)) : Bool :=
  let es := kernLastTable b k
  let sects := es.map (fun e => sectAt b (fieldAt e 8 2))
  let n := kernLasts k
  64 < n || (n == 0 && fieldAt k 32 8 != 0) || (n != 0 && fieldAt k 20 1 != 0x41)
    || !inFile b (fieldAt k 32 8) (32 * n)
    || es.any (fun e => fieldAt e 10 6 != 0 || fieldAt e 24 8 != 0 || objSections b ≤ fieldAt e 8 2
      || sectKind (sectAt b (fieldAt e 8 2)) != 3 || fieldAt e 16 8 != sectSize (sectAt b (fieldAt e 8 2)))
    || sects.any (fun e => sectSize e != sectSize (sects.headD []) || sectVa e != sectVa (sects.headD []))
    || hasDup (es.map (fun e => fieldAt e 8 2)) || hasDup (es.map (fun e => fieldAt e 0 8))

/-- Whether a kernel-table entry is malformed (R76, R83). -/
def kernBad (b k : List (BitVec 8)) : Bool :=
  objSections b ≤ fieldAt k 4 2 || sectKind (sectAt b (fieldAt k 4 2)) != 1
    || (fieldAt k 6 2 != 0xFFFF && (objSections b ≤ fieldAt k 6 2 || sectKind (sectAt b (fieldAt k 6 2)) != 4))
    || fieldAt k 21 3 != 0 || fieldAt k 42 8 != 0 || fieldAt k 50 8 != 0 || fieldAt k 58 6 != 0 || lastsBad b k

/-- The kernel-table entries of an object. -/
def objKerns (b : List (BitVec 8)) : List (List (BitVec 8)) := tabulate (objKernels b) (kernAt b)

/-- The profile-use entries of a kernel (R77). Bytes after the last whole entry are not looked at (log entry 61). -/
def kernUses (b k : List (BitVec 8)) : List (List (BitVec 8)) :=
  if fieldAt k 6 2 == 0xFFFF then []
  else
    let e := sectAt b (fieldAt k 6 2)
    tabulate (sectSize e / 8) (fun i => (b.drop (sectOff e + 8 * i)).take 8)

/-- The section numbers that the last tables of an object name. -/
def objLastSects (b : List (BitVec 8)) : List Nat :=
  (objKerns b).flatMap (fun k => (kernLastTable b k).map (fun e => fieldAt e 8 2))

/-- MALFORMED of R83 outside the kernel table, but for overlaps with other objects: the header, the tables' places and the
sections. What R83 does not list (NK, a table outside the file) is refused so too (log entry 61). -/
def objBad (b : List (BitVec 8)) : Bool :=
  b.length < 64 || fieldAt b 0 4 != 0x31505254 || fieldAt b 4 2 != 1 || !(1 ≤ objKernels b && objKernels b ≤ 1024)
    || fieldAt b 28 4 != 0 || (b.drop 32).take 32 != shake256 (b.drop 64)
    || !inFile b (fieldAt b 8 8) (64 * objKernels b) || !inFile b (fieldAt b 16 8) (32 * objSections b)
    || (objSects b).any (fun e => sectBad b e.2)
    || (objSects b).any (fun x => (objSects b).any (sectsClash b x))

/-- The first kernel of which a property holds. -/
def firstKernel (b : List (BitVec 8)) (p : List (BitVec 8) → Bool) : Option Nat := (objKerns b).findIdx? p

/-- Whether a kernel's last table names a section that a last table names elsewhere too (R81). -/
def lastsShared (b k : List (BitVec 8)) : Bool :=
  (kernLastTable b k).any (fun e => decide (1 < (objLastSects b).count (fieldAt e 8 2)))

/-- The kernel whose entry, last table or profile-use table is malformed, the first if there are several (R81, R83, R84). -/
def kernMalformed (b : List (BitVec 8)) : Option Nat :=
  firstKernel b (fun k => kernBad b k || (kernUses b k).any (fun u => fieldAt u 7 1 != 0) || lastsShared b k)

/-- Whether a profile byte names a version this device has (R77, R78). -/
def profileKnown (p : Nat) : Bool := p / 16 ≤ 4 && p % 16 == 1

/-- The offending profile-use entries of a kernel (R84). -/
def badUses (b k : List (BitVec 8)) : List (List (BitVec 8)) :=
  (kernUses b k).filter (fun u => !profileKnown (fieldAt u 4 1))

/-- Whether a kernel names a profile version this device lacks (R83). A PROF byte with the index of another profile counts
as one (log entry 61). -/
def profileBad (b k : List (BitVec 8)) : Bool :=
  (List.range 5).any (fun i => fieldAt k (16 + i) 1 != 0 && fieldAt k (16 + i) 1 != 16 * i + 1) || !(badUses b k).isEmpty

/-- Whether a kernel's .launch values are outside the limits of R74 (R83). -/
def shapeBad (k : List (BitVec 8)) : Bool :=
  let cmin := fieldAt k 24 1
  let cmax := fieldAt k 25 1
  let pmin := fieldAt k 26 1
  let pmax := fieldAt k 27 1
  cmax < cmin || pmax < pmin || cmin < 1 || 56 < cmax || pmin < 1 || 64 < pmax || 65536 < fieldAt k 28 4

/-- A 16-byte entry of a refusal record (R84). -/
def refusalEntry (u : List (BitVec 8)) : List (BitVec 8) :=
  let p := fieldAt u 4 1
  leBytes 4 (fieldAt u 0 4) ++ leBytes 2 (fieldAt u 5 2) ++ leBytes 1 p
    ++ leBytes 1 (if p / 16 ≤ 4 then p / 16 * 16 + 1 else 0xFF) ++ leBytes 8 0

/-- A refusal record (R84): its count is that of the offending entries, and the 4,096 bytes of its buffer (R424) hold the
first 255 of them (log entry 61). -/
def refusalRecord (code kern : Nat) (uses : List (List (BitVec 8))) : List (BitVec 8) :=
  leBytes 1 code ++ leBytes 2 kern ++ leBytes 4 uses.length ++ leBytes 9 0 ++ (uses.take 255).flatMap refusalEntry

/-- The refusal of an object at registration: the first code of R83 that applies, as its record; clash: a section meets
another object of the context. Where several kernels offend, the record names the first, and a MALFORMED record whose fault
lies in no kernel names kernel 0 (log entry 61). -/
def objRefusal (b : List (BitVec 8)) (clash : Bool) : Option (List (BitVec 8)) :=
  if objBad b || clash then some (refusalRecord 1 0 [])
  else match kernMalformed b with
    | some i => some (refusalRecord 1 i [])
    | none =>
      match firstKernel b (profileBad b) with
      | some i => some (refusalRecord 2 i (badUses b (kernAt b i)))
      | none =>
        match firstKernel b (fun k => fieldAt k 20 1 != 0 && kernLasts k == 0) with
        | some i => some (refusalRecord 3 i [])
        | none => (firstKernel b shapeBad).map (fun i => refusalRecord 4 i [])

end Sys2Proof.Machine
end

