-- ==== Sys2Proof/Machine/Mem.lean ====
section
/-! DEFINITION. Memory: cells in canonical form, poison marks, the unified addresses of the memory levels, window space
(spec/09, R210; spec/05, R121) and translation of virtual addresses (spec/15, R369-R377). -/
namespace Sys2Proof.Machine

/-- What a byte that no cell lists reads as (log entry 8). -/
def emptyByte : BitVec 8 := 0

/-- The byte at an address. -/
def readByte : List Host.Cell → Nat → BitVec 8
  | [], _ => emptyByte
  | (k, b) :: m, a => if a < k then emptyByte else if a == k then b else readByte m a

/-- Writes a byte, keeping the cells in canonical form. -/
def writeByte : List Host.Cell → Nat → BitVec 8 → List Host.Cell
  | [], a, b => if b == emptyByte then [] else [(a, b)]
  | (k, c) :: m, a, b =>
    if a < k then (if b == emptyByte then (k, c) :: m else (a, b) :: (k, c) :: m)
    else if a == k then (if b == emptyByte then m else (a, b) :: m)
    else (k, c) :: writeByte m a b

/-- Addresses strictly rising from a bound, and no entry equal to what an unlisted address reads as. -/
def cellsFrom : Nat → List Host.Cell → Bool
  | _, [] => true
  | lo, (k, b) :: m => decide (lo ≤ k) && b != emptyByte && cellsFrom (k + 1) m

/-- The canonical form of memory. -/
def Memory.wf (m : List Host.Cell) : Bool := cellsFrom 0 m

/-- Removes the cells of [lo, hi): those bytes then read as unlisted ones. -/
def eraseRange (m : List Host.Cell) (lo hi : Nat) : List Host.Cell :=
  m.filter (fun c => c.1 < lo || hi ≤ c.1)

/-- Writes the cells in order. -/
def writeCells (m : List Host.Cell) (cs : List Host.Cell) : List Host.Cell :=
  cs.foldl (fun m c => writeByte m c.1 c.2) m

/-- Copies [src, src + n) to dst, from the cells that are listed. -/
def copyRange (m : List Host.Cell) (src dst n : Nat) : List Host.Cell :=
  writeCells (eraseRange m dst (dst + n))
    ((m.filter (fun c => decide (src ≤ c.1) && decide (c.1 < src + n))).map (fun c => (c.1 - src + dst, c.2)))

/-- n bytes from an address. -/
def readBytes (m : List Host.Cell) (a n : Nat) : List (BitVec 8) := tabulate n (fun i => readByte m (a + i))

/-- n little-endian bytes from an address, as a number (R7). -/
def readNat (m : List Host.Cell) (a n : Nat) : Nat := leNat (readBytes m a n)

/-- Pairs consecutive addresses with bytes. -/
def cellsAt (a : Nat) : List (BitVec 8) → List Host.Cell
  | [] => []
  | b :: bs => (a, b) :: cellsAt (a + 1) bs

/-- The poison granule of an address (R402). -/
def granule (a : Nat) : Nat := a / 64

/-- Whether the byte lies in a poisoned granule (R402). -/
def State.poisoned (s : State) (a : Nat) : Bool := s.poison.contains (granule a)

/-- Marks the granule of an address. -/
def State.mark (s : State) (a : Nat) : State :=
  if s.poisoned a then s else { s with poison := granule a :: s.poison }

/-- Clears a granule's mark. -/
def State.unmark (s : State) (g : Nat) : State := { s with poison := s.poison.filter (fun x => x != g) }

/-- The source bytes of waiting SCANs once addresses have been written (R200). -/
def touch (ws : List Watch) (as : List Nat) : List Watch :=
  ws.map (fun w => if as.contains w.addr then { w with hit := true } else w)

/-- Memory with bytes written. -/
def State.setMem (s : State) (cs : List Host.Cell) : State :=
  { s with mem := writeCells s.mem cs, watched := touch s.watched (cs.map (fun c => c.1)) }

/-- Stores bytes as one write: a granule all of whose bytes it covers loses its mark, any other keeps it (R402). -/
def State.store (s : State) (cs : List Host.Cell) : State :=
  { s.setMem cs with
    poison := s.poison.filter (fun g => !(List.range 64).all (fun i => cs.any (fun c => c.1 == 64 * g + i))) }

/-- Stores bytes at consecutive addresses as one write. -/
def State.storeBytes (s : State) (a : Nat) (bs : List (BitVec 8)) : State := s.store (cellsAt a bs)

/-- Stores the n little-endian bytes of a number (R7). -/
def State.storeNat (s : State) (a n x : Nat) : State := s.storeBytes a (leBytes n x)

/-- Unified address of die scratch (R370, TGT 1). -/
abbrev scratchBase : Nat := 2 ^ 39
/-- Unified address of the PCIe bus of the host (R370, TGT 2). -/
abbrev hostBase : Nat := 2 ^ 48
/-- Unified address of the window space of physical cluster 0 (R210). -/
abbrev windowBase : Nat := 2 ^ 50
/-- Unified address of the mailbox buffers (R423). -/
abbrev mailboxBase : Nat := 2 ^ 52
/-- Unified address of the MSI-X table (R421). -/
abbrev msixBase : Nat := 2 ^ 52 + 2 ^ 20

/-- The regions of window space (R210). -/
inductive Region where
  | tiles | pool | own
  deriving DecidableEq, Repr

/-- The region of a window address (R210). -/
def regionOf (a : Nat) : Option Region :=
  if a < 0x2000000 then some .tiles
  else if a < 0x3000000 then some .pool
  else if a < 0x3080000 then some .own
  else none

/-- The unified address of a window address in a physical cluster, for a core of slot j of a task with P cores per
cluster (R26, R210); none traps WINDOW_FAULT. -/
def windowAddr (phys ppc j a : Nat) : Option Nat :=
  match regionOf a with
  | none => none
  | some .pool => some (windowBase + phys * 2 ^ 26 + a)
  | some .own => some (windowBase + phys * 2 ^ 26 + j * Config.tileBytes + (a - 0x3000000))
  | some .tiles => if a / Config.tileBytes < ppc then some (windowBase + phys * 2 ^ 26 + a) else none

/-- The unified address of a window address for a core (R210). -/
def State.winAddr (s : State) (c : Core) (a : Nat) : Option Nat :=
  windowAddr (s.phys c) (s.ppc c) (s.slot c) a

/-- Whether a window address reads or writes the core's own tile (R145). -/
def State.ownTile (s : State) (c : Core) (a : Nat) : Bool :=
  match regionOf a with
  | some .own => true
  | some .tiles => a / Config.tileBytes == s.slot c
  | _ => false

/-- Rows of a window (R118). -/
def Window.rows (w : Window) : Nat := w.rowsm1.toNat + 1
/-- Columns of a window (R118). -/
def Window.cols (w : Window) : Nat := w.colsm1.toNat + 1

/-- First bit of element (r, c) counted from bit 0 of window address 0 (R92, R121): packed types place element c of a
row at bit c times the element width. -/
def Window.bitPos (w : Window) (t : Fmt) (r c : Nat) : Nat :=
  8 * (w.base.toNat + r * w.stride.toNat) + c * t.bits

/-- The window addresses of the bytes that hold an element (R121). -/
def Window.bytesOf (w : Window) (t : Fmt) (r c : Nat) : List Nat :=
  let b := w.bitPos t r c
  tabulate ((b + t.bits - 1) / 8 - b / 8 + 1) (fun i => b / 8 + i)

/-- The unified addresses of the bytes of an element, all in one region (R121). -/
def State.elemAddrs (s : State) (c : Core) (w : Window) (t : Fmt) (r col : Nat) : Except TrapInfo (List Nat) :=
  let bs := w.bytesOf t r col
  let as := bs.filterMap (s.winAddr c)
  if as.length == bs.length && bs.all (fun b => regionOf b == regionOf (bs.headD 0)) then .ok as
  else .error (windowFault (bs.headD 0))

/-- The element that the bytes at these addresses hold (R121). -/
def State.elemAt (s : State) (w : Window) (t : Fmt) (r c : Nat) (as : List Nat) : Nat :=
  leNat (as.map (readByte s.mem)) / 2 ^ (w.bitPos t r c % 8) % 2 ^ t.bits

/-- The highest bit that a store of an element writes, over n bytes from bit p: the last element of a T6 row takes the unused
bits after it along, which are written zero (R6, R92). -/
def Window.topBit (w : Window) (t : Fmt) (c p n : Nat) : Nat :=
  if t.bits == 6 && c + 1 == w.cols then 8 * n - 1 else p + t.bits - 1

/-- The cells that store an element over these addresses: the whole bytes that hold it are rewritten (R213). -/
def State.elemCells (s : State) (w : Window) (t : Fmt) (r c x : Nat) (as : List Nat) : List Host.Cell :=
  let old := leNat (as.map (readByte s.mem))
  let p := w.bitPos t r c % 8
  List.zip as (leBytes as.length (setBits old (w.topBit t c p as.length) p (x % 2 ^ t.bits)))

/-- Checks one element for reading: its address and its poison (R121). -/
def State.checkRead (s : State) (c : Core) (w : Window) (t : Fmt) (r col : Nat) : Option TrapInfo :=
  match s.elemAddrs c w t r col with
  | .error e => some e
  | .ok as => if as.any s.poisoned then some (poisonTrap 0 (w.bitPos t r col / 8)) else none

/-- Checks one element for writing (R121). -/
def State.checkWrite (s : State) (c : Core) (w : Window) (t : Fmt) (r col : Nat) : Option TrapInfo :=
  match s.elemAddrs c w t r col with
  | .error e => some e
  | .ok _ => none

/-- Reads an element whose checks have passed. -/
def State.readElem (s : State) (c : Core) (w : Window) (t : Fmt) (r col : Nat) : Nat :=
  match s.elemAddrs c w t r col with
  | .error _ => 0
  | .ok as => s.elemAt w t r col as

/-- Writes an element whose checks have passed. -/
def State.writeElem (s : State) (c : Core) (w : Window) (t : Fmt) (r col x : Nat) : State :=
  match s.elemAddrs c w t r col with
  | .error _ => s
  | .ok as => s.setMem (s.elemCells w t r col x as)

/-- Clears the marks of granules that one instruction's stores cover whole (R402). -/
def State.coverClear (s : State) (as : List Nat) : State :=
  { s with poison := s.poison.filter (fun g => !(List.range 64).all (fun i => as.contains (64 * g + i))) }

/-- The first trap of a list of checks. -/
def firstTrap {α : Type} (l : List α) (f : α → Option TrapInfo) : Option TrapInfo :=
  l.findSome? f

/-- The first of n consecutive window addresses that names nothing for a task with P cores per cluster (R121, R210,
R237). -/
def winBad (ppc a n : Nat) : Option Nat :=
  let low := ppc * Config.tileBytes
  let top := 0x3080000
  if n == 0 then none
  else if a < low then
    if a + n ≤ low then none else if low < 0x2000000 then some low else if a + n ≤ top then none else some top
  else if a < 0x2000000 || top ≤ a then some a
  else if a + n ≤ top then none else some top

/-- The fields of a table entry (R370). -/
structure Pte where
  raw : Nat
  deriving DecidableEq, Repr

/-- Present (R370). -/
def Pte.p (e : Pte) : Bool := bitAt e.raw 63
/-- Leaf (R370). -/
def Pte.leaf (e : Pte) : Bool := bitAt e.raw 62
/-- Read permitted (R370). -/
def Pte.r (e : Pte) : Bool := bitAt e.raw 61
/-- Write permitted (R370). -/
def Pte.w (e : Pte) : Bool := bitAt e.raw 60
/-- Fetch permitted (R370). -/
def Pte.x (e : Pte) : Bool := bitAt e.raw 59
/-- Copy-on-write (R370). -/
def Pte.cow (e : Pte) : Bool := bitAt e.raw 58
/-- Ordering kind (R215, R370). -/
def Pte.ord (e : Pte) : Nat := bits e.raw 57 56
/-- The home never migrates (R370). -/
def Pte.hlock (e : Pte) : Bool := bitAt e.raw 55
/-- Initial home die (R370). -/
def Pte.home (e : Pte) : Nat := bits e.raw 54 52
/-- Target memory (R370). -/
def Pte.tgt (e : Pte) : Nat := bits e.raw 51 50
/-- A backing descriptor exists (R370). -/
def Pte.bk (e : Pte) : Bool := bitAt e.raw 49
/-- Address (R370). -/
def Pte.addr (e : Pte) : Nat := bits e.raw 47 0

/-- Bytes that an entry of a level maps (R369). -/
def levelBytes (lvl : Nat) : Nat :=
  if lvl == 0 then 2 ^ 39 else if lvl == 1 then 2 ^ 30 else if lvl == 2 then 2 ^ 21 else 2 ^ 16

/-- Size of the table that a pointer of a level names (R369). -/
def tableBytes (lvl : Nat) : Nat := if lvl == 2 then 256 else 4096

/-- Whether an entry breaks a rule of R371; an entry with P = 0 and BK = 0 is ignored. -/
def Pte.malformed (e : Pte) (lvl : Nat) : Bool :=
  if !e.p && !e.bk then false
  else
    bitAt e.raw 48 || (lvl == 0 && e.leaf) || (lvl == 3 && !e.leaf) || e.tgt == 3 || (e.w && !e.r) || (e.cow && e.w)
      || (if !e.p then decide (2 ^ 39 ≤ e.addr) || e.addr % 32 != 0
          else if !e.leaf then !rsv e.raw 61 49 || decide (2 ^ 39 ≤ e.addr) || e.addr % tableBytes lvl != 0
          else e.bk || e.addr % levelBytes lvl != 0
            || (e.tgt == 0 && decide (2 ^ 39 ≤ e.addr))
            || (e.tgt == 1 && (decide (2 ^ 28 ≤ e.addr) || lvl == 1)))

/-- Where a walk ends (R371): a leaf with its level, a fault with its reason (R375), or a not-present page with a
backing descriptor, its level and the place of its entry (R265). -/
inductive Walk where
  | leaf (e : Pte) (lvl : Nat)
  | fault (reason : Nat)
  | backed (e : Pte) (lvl pa : Nat)
  deriving DecidableEq, Repr

/-- Index of a level's table for a VA (R369). -/
def levelIndex (lvl va : Nat) : Nat :=
  if lvl == 0 then bits va 51 39 else if lvl == 1 then bits va 38 30 else if lvl == 2 then bits va 29 21 else bits va 20 16

/-- Entries of a TLB or a walk cache that stand for a VA of an ASID (R376). -/
def tlbHits (l : List Tlb) (asid va : Nat) : List Tlb :=
  l.filter (fun t => t.asid == asid && decide (t.va ≤ va) && decide (va < t.va + t.size))

/-- The entry of a level for a VA, as it is held (R376). -/
def tlbOf (asid : Nat) (e : Pte) (lvl va : Nat) : Tlb :=
  { asid := asid, va := va / levelBytes lvl * levelBytes lvl, size := levelBytes lvl, entry := BitVec.ofNat 64 e.raw }

/-- The entry of a level that a walk uses: that of the table, or one that the walk cache holds, which a free value chooses
(R377, log entry 11). -/
def State.entryAt (s : State) (asid : Nat) (held : List Tlb) (va lvl pa : Nat) : Pte :=
  let hits := (tlbHits held asid va).filter (fun t => t.size == levelBytes lvl)
  match hits[s.free ((32 + lvl) * 2 ^ 56 + va) % (hits.length + 1)]? with
  | some t => { raw := t.entry.toNat }
  | none => { raw := readNat s.mem pa 8 }

/-- The walk from a table of a level (R369, R371, R377), and the present entries it has used; fuel counts the levels left. -/
def State.walkFrom (s : State) (asid : Nat) (held : List Tlb) (va : Nat) : Nat → Nat → Nat → Walk × List Tlb
  | 0, _, _ => (.fault 1, [])
  | k + 1, lvl, tab =>
    let pa := tab + 8 * levelIndex lvl va
    let e := s.entryAt asid held va lvl pa
    if e.malformed lvl then (.fault 1, [])
    else if !e.p then (if e.bk then .backed e lvl pa else .fault 0, [])
    else if e.leaf then (if e.ord == 3 then .fault 2 else .leaf e lvl, [tlbOf asid e lvl va])
    else
      let r := s.walkFrom asid held va k (lvl + 1) e.addr
      (r.1, tlbOf asid e lvl va :: r.2)

/-- The walk of a context's tables, given what the walk cache holds (R369, R372), and the entries it has used. -/
def State.walk (s : State) (x : Context) (held : List Tlb) (va : Nat) : Walk × List Tlb :=
  if va < 0x10000 then (.fault 0, []) else s.walkFrom x.asid held va 4 0 x.root

/-- The kinds of access that translation tells apart (R373). -/
inductive AccessKind where
  | load | store | atomic | fetch
  deriving DecidableEq, Repr

/-- The trap of an access through a leaf that lacks a permission, in the order of R373. -/
def permCheck (e : Pte) (k : AccessKind) (va : Nat) : Option TrapInfo :=
  let wr := k == .store || k == .atomic
  if k == .atomic && e.tgt == 2 then some (permFault 5 va)
  else if (k == .load || k == .atomic) && !e.r then some (permFault 3 va)
  else if wr && e.cow then some (permFault 4 va)
  else if (wr && !e.w) || (k == .fetch && !e.x) then some (permFault 3 va)
  else none

/-- The unified address that a leaf of a level gives a VA (R370). -/
def leafAddr (e : Pte) (lvl va : Nat) : Nat :=
  (if e.tgt == 0 then 0 else if e.tgt == 1 then scratchBase else hostBase) + e.addr + va % levelBytes lvl

/-- Level of a held translation, from its size. -/
def Tlb.level (t : Tlb) : Nat := if t.size == 2 ^ 30 then 1 else if t.size == 2 ^ 21 then 2 else 3

/-- The frame of the last selected for a cluster, where the page belongs to last data (R80, R386). -/
def State.lastFrame (s : State) (t : Task) (cidx va : Nat) : Option Nat :=
  match s.fw.objects.find? (fun o => o.id == t.obj) with
  | none => none
  | some o =>
    match lastSect o.bytes t.kern (t.lasts.getD cidx 0).toNat with
    | none => none
    | some i => (o.frames.find? (fun f => f.1 == va / 2 ^ 16 * 2 ^ 16 && f.2.1 == i)).map (fun f => f.2.2 + va % 2 ^ 16)

/-- Whether a VA of a context belongs to last data (R80). -/
def State.lastData (s : State) (cno va : Nat) : Bool :=
  s.fw.objects.any (fun o => o.ctx == cno && o.frames.any (fun f =>
    f.1 == va / 2 ^ 16 * 2 ^ 16 && (objLastSects o.bytes).contains f.2.1))

/-- What a translation gives an access: the leaf it uses and its level, a precise trap, or a hold for a fill. -/
inductive Xlate where
  | ok (e : Pte) (lvl addr : Nat)
  | trap (t : TrapInfo)
  | hold (f : Fill)
  deriving DecidableEq, Repr

/-- The walk chosen for an access (R376, R377): the walker's, or one of the held translations; where they differ, which one
is not specified, so a free value chooses (log entry 11). -/
def State.chooseWalk (s : State) (x : Context) (held walks : List Tlb) (va : Nat) : Walk :=
  let hits := tlbHits held x.asid va
  let n := s.free (2 ^ 48 + va) % (hits.length + 1)
  match (if va < 0x10000 then none else hits[n]?) with
  | some t => .leaf { raw := t.entry.toNat } t.level
  | none => (s.walk x walks va).1

/-- Translates an access of a context, given the held translations and table entries that it may use (R369-R377). In hardware paging mode a
not-present page with a backing descriptor holds the access (R266); in host-assisted mode it faults (R267), but for a
page on which accesses are held already (R413). -/
def State.xlate (s : State) (cno : Nat) (held walks : List Tlb) (k : AccessKind) (va : Nat) : Xlate :=
  let x := s.fw.contexts.at' cno
  let note := fun (t : TrapInfo) => Xlate.trap { t with write := k == .store || k == .atomic }
  match s.chooseWalk x held walks va with
  | .fault r => note (pageFault r va)
  | .backed e lvl pa =>
    let page := va / levelBytes lvl * levelBytes lvl
    if s.mgmt.fnmode.getLsbD 0 && !s.fw.fills.any (fun f => f.ctx == cno && f.va == page) then note (pageFault 0 va)
    else .hold { ctx := cno, va := page, level := lvl, entryPA := pa,
                 entry := BitVec.ofNat 64 e.raw, started := false }
  | .leaf e lvl =>
    match permCheck e k va with
    | some t => note t
    | none => .ok e lvl (leafAddr e lvl va)

/-- The translations a core may hold: its L1 TLB and its cluster's L2 TLB (R376). -/
def State.heldBy (s : State) (c : Core) : List Tlb := c.tlb ++ (s.clusters.at' (s.phys c)).tlb

/-- Translates an access of the firmware by VA, which never reaches last data (R80): there it meets a fault with reason 0
(log entry 62). -/
def State.xlateFirm (s : State) (cno : Nat) (k : AccessKind) (va : Nat) : Xlate :=
  if s.lastData cno va then .trap (pageFault 0 va) else s.xlate cno [] [] k va

/-- The table entries that the walker of a core's die holds (R377). -/
def State.walksOf (s : State) (c : Core) : List Tlb := (s.dies.at' (s.die c)).walks

/-- Where a core's access to a VA goes that its leaf takes to a: to the last data of its cluster, where the VA has them
(R386). Where the core's kernel has no last at that VA, the page's own entry serves (log entry 62). -/
def State.coreAddr (s : State) (c : Core) (va a : Nat) : Nat :=
  match s.task? c.task with
  | some t => (s.lastFrame t (s.cidx c) va).getD a
  | none => a

/-- Translates an access of a core (R376, R386). -/
def State.xlateCore (s : State) (c : Core) (k : AccessKind) (va : Nat) : Xlate :=
  match s.xlate (s.ctxNo c) (s.heldBy c) (s.walksOf c) k va with
  | .ok e lvl a => .ok e lvl (s.coreAddr c va a)
  | r => r

/-- Translates an access of a core through a translation that it keeps (R376); none stands for the null page (R372). -/
def State.xlateKept (s : State) (c : Core) (t : Tlb) (k : AccessKind) (va : Nat) : Xlate :=
  let e : Pte := { raw := t.entry.toNat }
  match (if va < 0x10000 then some (pageFault 0 va) else permCheck e k va) with
  | some x => .trap { x with write := k == .store || k == .atomic }
  | none => .ok e t.level (s.coreAddr c va (leafAddr e t.level va))

/-- Puts an entry into a TLB of n entries, dropping what it replaces and the oldest beyond n; the null page is never
held (R372, R376). -/
def tlbAdd (n : Nat) (l : List Tlb) (t : Tlb) : List Tlb :=
  (t :: l.filter (fun u => !(u.asid == t.asid && u.va == t.va && u.size == t.size))).take n

/-- Changes a compute die. -/
def State.updDie (s : State) (i : Nat) (f : Die → Die) : State := { s with dies := s.dies.put i (f (s.dies.at' i)) }

/-- The walker of a core's die holds the present entries that a walk of its has used (R377). -/
def State.holdWalk (s : State) (ci va : Nat) : State :=
  match s.core? ci with
  | none => s
  | some c => s.updDie (s.die c) (fun d => { d with
      walks := (s.walk (s.ctx c) d.walks va).2.foldl (fun l t => if l.contains t then l else t :: l) d.walks })

/-- The walker holds the present entries that led to a translation fault (R377). -/
def State.holdFault (s : State) (ci : Nat) (t : TrapInfo) : State :=
  if t.cause == 4 || t.cause == 5 then s.holdWalk ci t.addr else s

/-- The core and its cluster hold the translation that an access used, and the walker the entries (R376). -/
def State.holdTlb (s : State) (ci : Nat) (e : Pte) (lvl va : Nat) : State :=
  match s.core? ci with
  | none => s
  | some c =>
    let t := tlbOf (s.ctx c).asid e lvl va
    ((s.holdWalk ci va).updCore ci (fun c => { c with tlb := tlbAdd 64 c.tlb t })).updCluster (s.phys c)
      (fun k => { k with tlb := tlbAdd 4096 k.tlb t })

/-- A fill is wanted for a page (R266); concurrent accesses to one page share one fill. -/
def State.wantFill (s : State) (f : Fill) : State :=
  if s.fw.fills.any (fun g => g.ctx == f.ctx && g.va == f.va) then s
  else s.updFw (fun w => { w with fills := w.fills ++ [f] })

/-- An access of a core is held for a fill (R266): the walker holds the present entries that led to the page's (R377). -/
def State.holdFill (s : State) (ci : Nat) (f : Fill) : State := (s.holdWalk ci f.va).wantFill f

/-- Splits n bytes from a VA at page boundaries of 64 KiB, the smallest page (R214): (VA, bytes) of each part. -/
def splitPages (va n : Nat) : List (Nat × Nat) :=
  let room := 2 ^ 16 - va % 2 ^ 16
  if n ≤ room then [(va, n)] else [(va, room), ((va + room) % 2 ^ 52, n - room)]

/-- What a firmware access by VA reaches: addresses, a fault with its reason (R375), or a fill that must come first. -/
inductive FirmReach where
  | ok (as : List Nat)
  | fault (reason : Nat)
  | hold (f : Fill)

/-- Reaches parts of a VA range under a context, by walking its tables. -/
def State.firmParts (s : State) (cno : Nat) (k : AccessKind) : List (Nat × Nat) → FirmReach
  | [] => .ok []
  | (va, n) :: rest =>
    match s.xlateFirm cno k va with
    | .trap t => .fault t.detail.toNat
    | .hold f => .hold f
    | .ok _ _ a =>
      match s.firmParts cno k rest with
      | .ok as => .ok (tabulate n (fun i => a + i) ++ as)
      | r => r

/-- Reaches n bytes at a VA under a context. -/
def State.firmReach (s : State) (cno : Nat) (k : AccessKind) (va n : Nat) : FirmReach :=
  s.firmParts cno k (splitPages va n)

end Sys2Proof.Machine
end

