-- ==== Sys2Proof/Machine/Operands.lean ====
section
/-! DEFINITION. Operands: scalar, vector, predicate and window registers with the results in flight of the V strand
(spec/02, R63-R67; spec/05, R113-R126), and the resolution of type codes (spec/02, R44; spec/04, R109-R111). -/
namespace Sys2Proof.Machine

/-- The strand that executes: its core's place, the strand, and what it may spend in this step (log entry 1). -/
structure At where
  ci : Nat
  e : Eng
  c : Core
  st : Strand
  budget : Nat
  deriving DecidableEq, Repr

/-- The strand that the step's actor names. -/
def State.at? (s : State) : Option At :=
  match s.actor with
  | .strand ci e b => (s.core? ci).map (fun c => { ci := ci, e := e, c := c, st := c.strand e, budget := b })
  | _ => none

/-- The sequence number that the instruction takes at its issue (R107, R390); one that resumes keeps its own. -/
def At.q (v : At) : Nat := if v.st.busy then v.st.rsn.toNat else v.st.rsn.toNat + 1

/-- The latest result in flight to a destination. -/
def Core.flight? (c : Core) (now : Nat) (d : Dest) : Option Flight :=
  c.flights.find? (fun f => f.dest == d && decide (now < f.landAt))

/-- Numbers that keep the free values of one step apart. -/
def freeKey (kind reg lane : Nat) : Nat := kind * 2 ^ 40 + reg * 2 ^ 20 + lane

/-- The results in flight to a destination, latest first. -/
def Core.flightsTo (c : Core) (now : Nat) (d : Dest) : List Flight :=
  c.flights.filter (fun f => f.dest == d && decide (now < f.landAt))

/-- The results in flight to a destination as a strand sees them: the V strand until their bound (R64), another strand until
they have landed (R66). -/
def Core.flightsFor (c : Core) (e : Eng) (now : Nat) (d : Dest) : List Flight :=
  (c.flightsTo now d).filter (fun f => e == .v || decide (now < f.seenAt))

/-- Reads a scalar register. s0 is zero (R113). A V instruction before a result's bound sees an unspecified value
(R64, log entry 6); another strand sees the value before one of the results in flight or the latest (R114, log entry 7). -/
def State.readS (s : State) (v : At) (r : BitVec 5) : Word :=
  if r == 0 then 0
  else
    let fs := v.c.flightsFor v.e (s.iclk v.c) (.s r)
    if fs.isEmpty then v.c.s.read r
    else if v.e == .v then BitVec.ofNat 64 (s.free (freeKey 1 r.toNat 0))
    else match fs[s.free (freeKey 2 r.toNat 0) % (fs.length + 1)]? with
      | some { old := .s x, .. } => x
      | _ => v.c.s.read r

/-- A legal TY of a window register (R118): 0 to 12, or the escape. -/
def windowTyOf (n : Nat) : BitVec 4 := if n % 14 == 13 then 15 else BitVec.ofNat 4 (n % 14)

/-- Reads a window register, with the same two cases (R122). -/
def State.readW (s : State) (v : At) (r : BitVec 4) : Window :=
  let fs := v.c.flightsFor v.e (s.iclk v.c) (.w r)
  if fs.isEmpty then v.c.w.read r
  else if v.e == .v then
    { base := BitVec.ofNat 26 (s.free (freeKey 3 r.toNat 0)) &&& 0x3FFFFF0,
      stride := BitVec.ofNat 24 (s.free (freeKey 3 r.toNat 1)) &&& 0xFFFFF0,
      rowsm1 := BitVec.ofNat 12 (s.free (freeKey 3 r.toNat 2)), colsm1 := BitVec.ofNat 12 (s.free (freeKey 3 r.toNat 3)),
      ty := windowTyOf (s.free (freeKey 3 r.toNat 4)) }
  else match fs[s.free (freeKey 4 r.toNat 0) % (fs.length + 1)]? with
    | some { old := .w x, .. } => x
    | _ => v.c.w.read r

/-- Reads a vector register: before the bound of a result every lane holds an unspecified value, for a lane that the
instruction leaves unchanged lands with its old value (R64). -/
def State.readV (s : State) (v : At) (r : BitVec 5) : RegFile 6 (BitVec 32) :=
  if (v.c.flightsTo (s.iclk v.c) (.v r)).isEmpty then v.c.v.read r
  else RegFile.tab 6 (fun i => BitVec.ofNat 32 (s.free (freeKey 5 r.toNat i)))

/-- Reads a predicate register; p0 is all ones (R125), and every bit before a result's bound is unspecified (R64). -/
def State.readP (s : State) (v : At) (r : BitVec 3) : BitVec 64 :=
  if r == 0 then BitVec.allOnes 64
  else if (v.c.flightsTo (s.iclk v.c) (.p r)).isEmpty then v.c.p.read r
  else BitVec.ofNat 64 (s.free (freeKey 6 r.toNat 0))

/-- Where a V result overlaps an earlier one in flight, the lane ends with either, and which is not specified (R65):
true keeps the new one. -/
def State.laterWins (s : State) (v : At) (d : Dest) (lane : Nat) : Bool :=
  match v.c.flights.find? (fun f => f.dest == d && decide (s.iclk v.c < f.landAt) && f.lanes.getLsbD lane) with
  | none => true
  | some _ => s.free (freeKey 7 (match d with
      | .s r => r.toNat
      | .v r => 32 + r.toNat
      | .p r => 64 + r.toNat
      | .w r => 96 + r.toNat
      | .g n => 112 + n) lane) % 2 == 0

/-- Adds a result in flight of the V strand, due after the bound; other strands interlock (R64). -/
def At.fly (v : At) (s : State) (c : Core) (d : Dest) (lanes : BitVec 64) (lat : Nat) (old : Old) : Core :=
  if v.e == .v then
    { c with flights := { dest := d, lanes := lanes, landAt := s.iclk v.c + lat, seenAt := s.iclk v.c + lat, old := old } :: c.flights }
  else c

/-- Writes a scalar register with a result bound; a write to s0 is discarded (R41). -/
def At.putS (v : At) (s : State) (r : BitVec 5) (x : Word) (lat : Nat) : State :=
  if r == 0 then s
  else s.updCore v.ci (fun c =>
    v.fly s { c with s := if s.laterWins v (.s r) 0 then c.s.write r x else c.s } (.s r) 1 lat (.s (c.s.read r)))

/-- Writes a window register whole (R120). -/
def At.putW (v : At) (s : State) (r : BitVec 4) (x : Window) (lat : Nat) : State :=
  s.updCore v.ci (fun c =>
    v.fly s { c with w := if s.laterWins v (.w r) 0 then c.w.write r x else c.w } (.w r) 1 lat (.w (c.w.read r)))

/-- Writes the lanes of a mask of a vector register (R125). -/
def At.putV (v : At) (s : State) (r : BitVec 5) (lanes : BitVec 64) (f : Nat → BitVec 32) (lat : Nat) : State :=
  s.updCore v.ci (fun c =>
    v.fly s { c with v := c.v.write r (RegFile.tab 6 (fun i =>
      if lanes.getLsbD i && s.laterWins v (.v r) i then f i else (c.v.read r).at' i)) } (.v r) lanes lat .none)

/-- Writes the bits of a mask of a predicate register (R139, R143). -/
def At.putP (v : At) (s : State) (r : BitVec 3) (lanes x : BitVec 64) (lat : Nat) : State :=
  s.updCore v.ci (fun c =>
    let keep := lanes &&& BitVec.ofNat 64 (leNat (tabulate 8 (fun k =>
      BitVec.ofNat 8 ((List.range 8).foldl (fun a i => a + if s.laterWins v (.p r) (8 * k + i) then 2 ^ i else 0) 0))))
    v.fly s { c with p := c.p.write r ((c.p.read r &&& ~~~keep) ||| (x &&& keep)) } (.p r) lanes lat .none)

/-- Whether the strand may not write a scalar register under sown (R113). -/
def At.foreign (v : At) (r : BitVec 5) : Bool :=
  r != 0 && (v.c.sown.getLsbD r.toNat != (v.e == .v))

/-- The ownership check of R113, made with the checks of R54 (log entry 12). -/
def At.ownCheck (v : At) (r : BitVec 5) : Option TrapInfo := if v.foreign r then some (illegalOp 6) else none

/-- The format table entry that TY = 15 names now: ft[lc_L mod 16], L from FTSEL, lc of the executing strand (R44). -/
def At.ftEntry (v : At) : BitVec 16 :=
  v.c.ft.at' ((v.st.lc.at' (v.c.ftsel.toNat % 4)).toNat % 16)

/-- Resolves a type code: the code and the scale mode, none for a code that is not the escape; false where R111 traps. -/
def At.resolve (v : At) (code : Nat) (hasSm : Bool) : Option (Nat × Option Nat) :=
  if code != 15 then some (code, none)
  else
    let e := v.ftEntry.toNat
    let t := bits e 3 0
    let sm := bits e 7 6
    if 13 ≤ t || sm == 3 || ((t == 5 || t == 7) && sm != 2) || (sm == 2 && !(3 ≤ t && t ≤ 7)) || (sm != 0 && !hasSm)
    then none else some (t, some sm)

/-- What a resolved code and scale mode do beside the entry's own codes: check 7 for a scale mode that the entry does not
accept with the type (R156, R159), check 6 for fields that then hold a value their entry forbids (R131-R140, R156, R159,
R249). -/
def escBad (t sm : Nat) (i : Instr) : Option TrapInfo :=
  let mode := match i with
    | .mmul _ f => sm == 0 || !(t == 8 || t == 9 || mmulAcc f)
    | .mstacc _ _ => sm == 0 || (sm == 2 && (t == 5 || t == 7))
    | _ => true
  let value := match i with
    | .mmul _ f => if sm == 0 then rsv f.ops.toNat 15 12 else bits f.ops.toNat 15 12 ≤ 14
    | .tcopy _ f _ e2 e3 => (sm == 1 || rsv e3.toNat 31 0) && (sm == 2 || rsv e2.toNat 15 12)
      && (!f.ops.getLsbD 13 || e2.getLsbD 33 || srTarget t)
    | _ => tyValueOk t i
  if !mode then some (illegalOp 7) else if !value then some (illegalOp 6) else none

/-- Checks 6 and 7 of R54 that need the format table: a resolved code that the entry does not accept, or that makes a
value of the word one its entry forbids. The table is read as it stands whenever the checks are made, also while the word
still waits for a token (log entry 74). -/
def At.tyCheck (v : At) (i : Instr) : Option TrapInfo :=
  match tyUse i with
  | none => none
  | some u =>
    if u.code != 15 then none
    else match v.resolve u.code u.sm with
      | none => some (illegalOp 7)
      | some (t, sm) => if !u.set.contains t then some (illegalOp 7) else escBad t (sm.getD 0) i

/-- The resolved type of an instruction that has passed its checks. -/
def At.ty (v : At) (code : Nat) : Nat :=
  match v.resolve code true with
  | some (t, _) => t
  | none => 0

/-- The format of a type code that an entry accepted. -/
def fmtOf (ty : Nat) : Fmt := (Fmt.ofCode ty).getD .fp32

/-- A window's type, resolved by the strand that uses the window, at that use (R111, R121, R122); sm says whether the
instruction has a scale mode of its own. -/
def At.winTy (v : At) (w : Window) (sm : Bool) : Except TrapInfo Nat :=
  match v.resolve w.ty.toNat sm with
  | none => .error (illegalOp 7)
  | some (t, _) => .ok t

/-- The active lanes of a governed instruction (R125). -/
def State.active (s : State) (v : At) (f : FmtV) : BitVec 64 :=
  if f.pneg == 1 then ~~~(s.readP v f.pred) else s.readP v f.pred

/-- Element j of a vector register for elements of w bits (R123). -/
def elemOf (w : Nat) (x : RegFile 6 (BitVec 32)) (j : Nat) : Nat :=
  bits (x.at' (j * w / 32)).toNat (j * w % 32 + w - 1) (j * w % 32)

/-- A lane built from its elements of w bits (R123). -/
def laneOf (w : Nat) (f : Nat → Nat) (i : Nat) : BitVec 32 :=
  BitVec.ofNat 32 ((List.range (32 / w)).foldl (fun a k => a + f (i * (32 / w) + k) % 2 ^ w * 2 ^ (w * k)) 0)

/-- Sign-extends w bits to a 64-bit value. -/
def sext64 (w x : Nat) : Word := BitVec.ofInt 64 (toSigned w x)

end Sys2Proof.Machine
end

