-- ==== Sys2Proof/Machine/Ops.lean ====
section
/-! DEFINITION. The shared operations of a step: freezing a core and taking a trap (spec/16, R389; spec/02, R67;
spec/12, R300), returning from one (R392), and issuing and retiring an instruction word (spec/02, R40, R54, R63;
spec/12, R298, R314; spec/16, R390). -/
namespace Sys2Proof.Machine

/-- What an instruction's body answers: it retires with a result bound, it jumps, it waits without having issued, it has
issued and an event will complete it, or it traps, at its issue or (fail) once it has issued. The state is the one its
effect, full or partial, leaves. -/
inductive Res where
  | done (s : State) (lat : Nat)
  | jump (pc : BitVec 52) (s : State)
  | wait (w : Wait) (s : State)
  | hold (w : Wait) (s : State)
  | trap (t : TrapInfo) (s : State)
  | fail (t : TrapInfo) (s : State)

/-- mprog with PASS and KDONE at 0, as an MMUL over a working copy is recorded (R162). -/
def mprogRestart (x : Word) : Word := x &&& ~~~0x0000000300001FFF

/-- A scan index whose SCAN waits for its carry is recorded with WC; one whose carry is there goes on to its end (R203). -/
def ScanIx.suspend (x : ScanIx) : ScanIx :=
  if x.passed && !x.carryIn then { x with scg := x.scg ||| 0x2000000000000000 } else x

/-- Whether a strand is in an instruction that goes on to its end through a freeze: an access in parts, MPOLY, or a
SCAN that has its carry (R173, R203, R213). -/
def Strand.midway (st : Strand) : Bool := st.busy && st.wait == .midway

/-- A strand at a freeze: an access already at its home stays in progress until it is performed (R271, R291), as does
what runs to its end, anything else stands at an instruction boundary (R300). -/
def Strand.stop (st : Strand) : Strand :=
  match st.wait with
  | .home => if st.busy then st else { st with held := none, busy := false }
  | .list _ => if st.busy then st else { st with held := none, busy := false }
  | .midway => if st.busy then st else { st with held := none, busy := false }
  | _ => { st with held := none, busy := false }

/-- A channel at a freeze drops the translations it keeps (R376), and reads an element it has begun to read anew (R242). -/
def Channel.freeze (x : Channel) : Channel := { x with queue := x.queue.map (fun y => { y with keptR := none, keptW := none, got := [] }) }

/-- A channel that goes on: its copies continue from their elements, and a copy that was done once its fault was recorded
leaves (R240, R280). -/
def Channel.resume (x : Channel) : Channel :=
  { x with
    queue := x.queue.map (fun y => { y with fault := none })
    ending := (x.ending.map (fun y => { y with fault := none })).filter (fun y => !(y.did0 && y.did1 && !y.owed)) }

/-- A core at a freeze (R67, R149, R181, R203, R300): results land, due pushes are made, an MMUL over a working copy
starts again, suspended scans are marked and every strand stops at a boundary. -/
def Core.stop (c : Core) : Core :=
  let c := { c with
    mprog := if c.work.isSome then mprogRestart c.mprog else c.mprog
    mmul := none
    work := none
    mread := []
    taken := none
    scans := RegFile.tab 2 (fun g => (c.scans.at' g).suspend)
    chans := RegFile.tab 2 (fun k => (c.chans.at' k).freeze) }
  (c.mapStrands Strand.stop).landAll

/-- SRC of a record (R391). -/
def TrapHead.srcByte (h : TrapHead) : Nat := if h.src < 3 then h.src else if h.src < 7 then 3 else if h.src == 7 then 4 else h.src - 8

/-- The head of the trap record of a first cause (R391). -/
def headOf (t : TrapInfo) (src clk : Nat) : TrapHead :=
  { info := t, src := src, clk := clk, fillErr := (t.cause == 4 && t.detail == 6),
    noResume := (t.cause == 7 && t.detail == 3) }

/-- The head of a freeze in which a further trap is raised (R389): it names the first trap, and of those of one clk the
one whose place in the order A, M, V, channels 0 to 3, progress monitor comes first. -/
def TrapHead.join (h n : TrapHead) : TrapHead :=
  if h.clk == n.clk && n.src < h.src then { n with fillErr := h.fillErr || n.fillErr, noResume := h.noResume || n.noResume }
  else h

/-- TAKING A TRAP (R389): the core freezes as Core.stop gives, the cause stands in the trapping strand's block and its instruction is over, and the
head of the record names the first cause of the freeze; src is the cause's place in the order of R389: 0 to 2 the
strands, 3 to 6 the channels, 7 the progress monitor, and from 8 on a source that is not specified (log entry 32). PCs are
those of R38 and R389: the trapping strand at the instruction, the others at their boundaries. -/
def State.takeTrap (s : State) (ci : Nat) (src : Nat) (who : Option Eng) (t : TrapInfo) : State :=
  s.updCore ci (fun c =>
    let c := match who with
      | some e => c.setStrand e { c.strand e with trap := some t, busy := false }
      | none => c
    let c := c.stop
    { c with trapped := some (match c.trapped with
      | some h => h.join (headOf t src s.clk)
      | none => headOf t src s.clk) })

/-- RETURNING FROM A TRAP (R392, R401): the core resumes from its recorded state. -/
def Core.resume (c : Core) : Core :=
  { c.mapStrands (fun st => { st with trap := none, wait := .none, fillBad := false }) with
    chans := RegFile.tab 2 (fun k => (c.chans.at' k).resume)
    vnext := 0, trapped := none, waitRec := [], record := none, raised := false, freeze := false, stopped := false }

/-- Notes what a strand waits for, and since when (R340). -/
def Strand.waits (st : Strand) (w : Wait) (clk : Nat) : Strand :=
  { st with waitClk := if st.wait == w then st.waitClk else clk, wait := w }

/-- A strand waits; nothing else changes. -/
def State.waitOn (s : State) (ci : Nat) (e : Eng) (w : Wait) : State :=
  s.updStrand ci e (fun st => st.waits w s.clk)

/-- The repetition of a REP that a strand runs: its index, the count, and the pushes of the REP (R314). The strand then
holds the REP's word before the words of the repeated instruction. -/
def Strand.rep (st : Strand) (e : Eng) : Option (Nat × Nat × List (BitVec 3)) :=
  match st.held with
  | some (w :: _) =>
    if st.repn == 0 then none
    else some (bits w.toNat 25 20 + 1 - st.repn.toNat, bits w.toNat 25 20 + 1, pushesOf (Hdr.ofWord w) e)
  | _ => none

/-- The PC advances over words (R40). -/
def Strand.advance (st : Strand) (words : Nat) : Strand :=
  { st with pc := st.pc + BitVec.ofNat 52 (8 * words), dwc := st.dwc + BitVec.ofNat 64 words, held := none }

/-- Token pops and the sequence number of an issue (R298, R390). -/
def At.issue (v : At) (h : Hdr) (s : State) : State :=
  s.updCore v.ci (fun c =>
    let c := c.pop (popsOf h v.e)
    c.setStrand v.e { c.strand v.e with rsn := (c.strand v.e).rsn + 1 })

/-- The strand leaves its waits, and a V strand may issue again from the clk after its DLY (R63). -/
def At.free (v : At) (dly : Nat) (now : Nat) (c : Core) : Core :=
  let c := c.setStrand v.e { c.strand v.e with wait := .none, busy := false, fillBad := false, synced := none }
  { c with vnext := if v.e == .v then now + 1 + dly else c.vnext }

/-- The results that this instruction has put in flight land at an issue clk within their bounds (R64). -/
def At.landFrom (v : At) (due : Nat) (c : Core) : Core :=
  { c with flights := c.flights.zipIdx.map (fun p =>
    if p.2 < c.flights.length - v.c.flights.length then { p.1 with seenAt := Nat.min due p.1.landAt } else p.1) }

/-- The issue clk at which the results of an instruction land: for a V instruction some clk from t + 1 to t + L, which a free
value chooses (R64; log entry 72). -/
def At.dueAt (v : At) (lat : Nat) (s : State) : Nat :=
  if v.e != .v then 0 else if lat == 0 then s.iclk v.c else s.iclk v.c + 1 + s.free (freeKey 32 0 0) % lat

/-- RETIREMENT (R40, R298, R314): pushes are queued until the results have landed, and the PC and dwc advance over the
instruction; under REP the count goes down instead, and the last repetition advances over both and makes the REP's
pushes. The pushes of a V instruction fall due when its results land (R66). -/
def At.retire (v : At) (h : Hdr) (len lat : Nat) (s : State) : State :=
  let now := s.iclk v.c
  let due := v.dueAt lat s
  s.updCore v.ci (fun c =>
    let c := v.landFrom due ((v.free h.dly.toNat now c).addPushes v.e (pushesOf h v.e) due)
    let st := c.strand v.e
    match st.rep v.e with
    | none => c.setStrand v.e (st.advance len)
    | some (t, n, outer) =>
      if t + 1 < n then c.setStrand v.e { st with repn := BitVec.ofNat 7 (n - 1 - t) }
      else (c.setStrand v.e { st.advance (1 + len) with repn := 0 }).addPushes v.e outer due)

/-- A control transfer retires at issue: the PC is the target and dwc counts the word (R296, R305). -/
def At.retireTo (v : At) (pc : BitVec 52) (len : Nat) (s : State) : State :=
  let now := s.iclk v.c
  s.updCore v.ci (fun c =>
    let c := v.free 0 now c
    c.setStrand v.e { (c.strand v.e).advance len with pc := pc })

/-- A word that a strand meets on the very clk at which its core has trapped (R389): where it traps as well, that trap is
recorded with the first; otherwise it has not issued. -/
def State.joinTrap (s : State) (v : At) (h : Hdr) (body : At → State → Res) : State :=
  let still := s.updStrand v.ci v.e (fun st => { st with held := none })
  if (v.c.lacking (popsOf h v.e)).isSome then still
  else match body v s with
    | .trap x t => t.takeTrap v.ci v.e.tag (some v.e) x
    | .fail x t => (v.issue h t).takeTrap v.ci v.e.tag (some v.e) x
    | _ => still

/-- ISSUING AN INSTRUCTION WORD: the checks made before the token pops, the pops, the body, and what its answer does to
the strand. again says that the instruction has popped its tokens and taken its number before (R162, R179, R203); a
strand held in an issued instruction has too. A word that lacks a token is checked anew at each attempt, with the format table
and FTSEL as they stand then (R44, R54, R112; log entry 74). -/
def State.issueWord (s : State) (h : Hdr) (len : Nat) (early : At → State → Option TrapInfo) (again : At → Bool)
    (body : At → State → Res) : Host.Outcome State Fault Refusal :=
  match s.at? with
  | none => .next s
  | some v =>
    match early v s with
    | some t => .next (s.takeTrap v.ci v.e.tag (some v.e) t)
    | none =>
      let old := v.st.busy || again v
      if v.c.trapped.isSome && !v.st.busy then .next (s.joinTrap v h body)
      else match (if old then none else v.c.lacking (popsOf h v.e)) with
      | some k => .next (s.waitOn v.ci v.e (.token k.toNat))
      | none =>
        let popped := fun (x : State) => if old then x else v.issue h x
        match body v s with
        | .done t lat => .next (v.retire h len lat (popped t))
        | .jump pc t => .next (v.retireTo pc len (popped t))
        | .wait w t => .next (t.waitOn v.ci v.e w)
        | .hold w t => .next ((popped t).updStrand v.ci v.e (fun st => { st.waits w s.clk with busy := true }))
        | .trap x t => .next (t.takeTrap v.ci v.e.tag (some v.e) x)
        | .fail x t => .next ((popped t).takeTrap v.ci v.e.tag (some v.e) x)

/-- No check before the pops. -/
def noEarly (_ : At) (_ : State) : Option TrapInfo := none

/-- The instruction always issues anew. -/
def noAgain (_ : At) : Bool := false

/-- An instruction that writes one scalar register, checked for ownership (R113): a function of the state gives the
value, the bound of R144 counts on the V strand. -/
def State.scalarOp (s : State) (h : Hdr) (sd : BitVec 5) (lat : Nat) (f : At → State → Word) :
    Host.Outcome State Fault Refusal :=
  s.issueWord h 1 (fun v _ => v.ownCheck sd) noAgain (fun v s => .done (v.putS s sd (f v s) lat) lat)

/-- The result of an instruction that must look at the core again after the state changed. -/
def State.coreOr (s : State) (ci : Nat) (c : Core) : Core := (s.core? ci).getD c

end Sys2Proof.Machine
end

