-- ==== Sys2Proof/Machine/Fetch.lean ====
section
/-! DEFINITION. Fetching: words through translation (spec/02, R69), the patch overlay (spec/12, R308-R311), walking and
skipping (R38, R296, R297, R304), the words held by a strand, and the checks of R54. -/
namespace Sys2Proof.Machine

/-- Where a patchable field lies in an instruction that carries it: the word of the instruction, and its highest and
lowest bit (R309). -/
def patchPlace (code : Nat) (i : Instr) : Option (Nat × Nat × Nat) :=
  match i with
  | .nest _ _ => if code == 1 then some (0, 19, 0) else none
  | .copy _ f _ =>
    if code == 2 && !f.ops.getLsbD 10 then some (1, 16, 0)
    else if code == 8 then some (1, 63, 44)
    else if code == 9 then some (1, 43, 38)
    else if code == 10 && bits f.ops.toNat 13 12 == 1 then some (1, 37, 34)
    else none
  | .tcopy _ _ _ e2 _ =>
    if code == 3 then some (1, 63, 52)
    else if code == 4 then some (1, 51, 40)
    else if code == 5 then some (1, 39, 32)
    else if code == 6 then some (1, 31, 24)
    else if code == 7 then some (1, 23, 16)
    else if code == 8 then some (2, 63, 44)
    else if code == 9 then some (2, 43, 38)
    else if code == 10 && !e2.getLsbD 11 then some (2, 37, 34)
    else none
  | .wset _ _ _ =>
    if code == 11 then some (1, 55, 44)
    else if code == 12 then some (1, 43, 32)
    else if code == 13 then some (0, 19, 0)
    else none
  | .mmul _ _ => if code == 14 then some (0, 11, 0) else none
  | .scan _ _ => if code == 15 then some (0, 9, 0) else none
  | _ => none

/-- The values that a patchable field may take (R309). -/
def patchRange (code : Nat) (v : Int) : Bool :=
  match code with
  | 1 => 0 ≤ v && v ≤ 1048575
  | 2 => 0 ≤ v && v ≤ 131071
  | 3 => 1 ≤ v && v ≤ 4096
  | 4 => 1 ≤ v && v ≤ 4096
  | 5 => 1 ≤ v && v ≤ 256
  | 6 => 1 ≤ v && v ≤ 256
  | 7 => 1 ≤ v && v ≤ 256
  | 8 => 0 ≤ v && (v ≤ 786431 || v == 0xFFFFF)
  | 9 => 0 ≤ v && (v ≤ 55 || v == 0x3F)
  | 10 => 0 ≤ v && v ≤ 15
  | 11 => 1 ≤ v && v ≤ 4096
  | 12 => 1 ≤ v && v ≤ 4096
  | 13 => -524288 ≤ v && v ≤ 524287
  | 14 => 1 ≤ v && v ≤ 4096
  | 15 => 0 ≤ v && v ≤ 1023
  | _ => false

/-- The bits a field stores for a value: box sizes, rows, cols and K are stored minus 1 (R309). -/
def patchStored (code v : Nat) : Nat := if [3, 4, 5, 6, 7, 11, 12, 14].contains code then v - 1 else v

/-- Replaces one patched field of the words of an instruction (R311). -/
def patchWords (ws : List Word) (p : PatchEntry) : List Word :=
  match decode ws with
  | .error _ => ws
  | .ok i =>
    match patchPlace p.field.toNat i with
    | none => ws
    | some (k, hi, lo) =>
      modifyAt ws k (fun w => BitVec.ofNat 64 (setBits w.toNat hi lo (patchStored p.field.toNat p.value.toNat)))

/-- The words as fetched for execution at X: every entry of the overlay for X is applied (R311). -/
def Core.overlaid (c : Core) (x : BitVec 52) (ws : List Word) : List Word :=
  (c.overlay.filter (fun p => p.x == x)).foldl patchWords ws

/-- What a fetch gives: words and the state that holds their translations, a trap, or a hold for a fill (R69). -/
inductive Fetch where
  | got (ws : List Word) (s : State)
  | trap (t : TrapInfo)
  | hold (f : Fill)

/-- Fetches n words from a VA (R69, R403). A retry after a failed fill faults with the fill-error mark (R266). -/
def State.fetchWords (s : State) (ci : Nat) (bad : Bool) : Nat → BitVec 52 → Fetch
  | 0, _ => .got [] s
  | n + 1, va =>
    match s.core? ci with
    | none => .got [] s
    | some c =>
      match s.xlateCore c .fetch va.toNat with
      | .trap t => .trap t
      | .hold f => if bad then .trap (pageFault 6 va.toNat) else .hold f
      | .ok e lvl a =>
        if s.poisoned a then .trap (poisonTrap 0 va.toNat)
        else
          let s1 := s.holdTlb ci e lvl va.toNat
          match s1.fetchWords ci bad n (va + 8) with
          | .got ws s2 => .got (BitVec.ofNat 64 (readNat s.mem a 8) :: ws) s2
          | r => r

/-- The word at a PC that a strand reaches (R295). -/
def nextPc (pc : BitVec 52) (k : Nat) : BitVec 52 := pc + BitVec.ofNat 52 (8 * k)

/-- Whether a strand walks a body whose NEST had a count of 0: some level is active with a bound of 0 (R304). -/
def Strand.skipping (st : Strand) : Bool := (List.range 4).any (fun l => st.lact.getLsbD l && st.lb.at' l == 0)

/-- Whether a leading word names a strand, or every strand; a tag of 4 to 7 counts as executed by every strand (R38). -/
def executes (w : Word) (e : Eng) : Bool :=
  let g := (Hdr.ofWord w).eng.toNat
  g == e.tag || 3 ≤ g

/-- The least dwc of the three strands (R297). -/
def Core.minDwc (c : Core) : Nat := min c.strandA.dwc.toNat (min c.strandM.dwc.toNat c.strandV.dwc.toNat)

/-- Whether the slip bound holds a strand (R297). -/
def Core.slipHeld (c : Core) (e : Eng) : Bool := c.slipw.toNat ≤ (c.strand e).dwc.toNat - c.minDwc

/-- Words of history kept for PATCH_LATE (R310). -/
def historyWords : Nat := 4112

/-- Notes a fetch for execution of X at a dwc (R310). -/
def Strand.noteFetch (st : Strand) (d : Nat) (x : BitVec 52) : Strand :=
  if st.history.contains (d, x) then st
  else { st with history := (d, x) :: st.history.filter (fun p => d < p.1 + historyWords) }

/-- Profile byte i of the task's kernel: PROF of its kernel-table entry (R75-R77). -/
def State.profByte (s : State) (t : Task) (i : Nat) : Nat :=
  match s.fw.objects.find? (fun o => o.id == t.obj) with
  | none => 0
  | some o => fieldAt o.bytes (fieldAt o.bytes 8 8 + 64 * t.kern + 16 + i) 1

/-- Whether the running kernel declares a profile byte; SLM-B1 is always declared (R54, R74, R77). -/
def State.declares (s : State) (task prof : Nat) : Bool :=
  prof == 1 || (match s.task? task with
    | some t => s.profByte t (prof / 16) == prof
    | none => false)

/-- The profile byte of an instruction's opcode (R77). -/
def profOf (w : Word) : Nat :=
  match opRow (Hdr.ofWord w).eng.toNat (opcBits w).toNat with
  | some r => r.prof
  | none => 1

/-- What a strand does next: it executes an instruction from a state, or its step is over. -/
inductive Move where
  | run (i : Instr) (s : State)
  | stay (s : State)

/-- The first of checks 1 to 4 of R54 that a leading word fails. -/
def leadCheck (w : Word) : Option Nat :=
  match decode [w] with
  | .error (.check n) => some n
  | _ => none

/-- The instruction that an executing strand makes of its words, after checks 1 to 7 of R54 that need no register: a
word that fails one is ILLEGAL_WORD, or traps PROFILE_ABSENT. -/
def State.judge (s : State) (ci : Nat) (e : Eng) (task : Nat) (ws : List Word) : Move :=
  match decode ws with
  | .error (.check n) => .run (.illegalWord (BitVec.ofNat 8 n)) s
  | .error _ => .run (.illegalWord 4) s
  | .ok i =>
    let prof := profOf (ws.headD 0)
    if !s.declares task prof then .stay (s.takeTrap ci e.tag (some e) (trapOf 2 prof 0))
    else if !check6 i then .run (.illegalWord 6) s
    else if !tyStatic i then .run (.illegalWord 7) s
    else .run i s

/-- The words of repetition t of a REP: each stepped field is moved on t times (R314). -/
def stepField (ws : List Word) (hi lo t step : Nat) : List Word :=
  modifyAt ws 0 (fun w => BitVec.ofNat 64 (setBits w.toNat hi lo (bits w.toNat hi lo + t * step)))

/-- The formats of the leading words (R45-R53). -/
inductive FormatName where
  | sr | si | v | p | m | c | y | k | w
  deriving DecidableEq, Repr

/-- The format of a tag's opcode (R55-R60). -/
def formatOf (tag opc : Nat) : FormatName :=
  if opc == 0x1C4 || opc == 0x1CD || opc == 0x1CE || opc == 0x1F0 then .k
  else if 0x1C0 ≤ opc then .y
  else if tag == 1 then .m
  else if opc < 0x20 then .sr
  else if opc < 0x30 then .si
  else if opc == 0x30 then .y
  else if tag == 0 then (if opc < 0xC0 then .c else if opc < 0xE0 then .y else .w)
  else if opc < 0xC0 then .v
  else if opc < 0xE0 then .p
  else if opc == 0xE3 || opc == 0xE4 then .v
  else .y

/-- The bits of the stepped fields of a format, steps 0 to 3 (R313); none where the table has a dash. -/
def stepBits : FormatName → List (Option (Nat × Nat))
  | .sr => [some (41, 37), some (36, 32), some (31, 27), some (26, 22)]
  | .si => [some (41, 37), some (36, 32), none, none]
  | .v => [some (35, 31), some (30, 26), some (25, 21), some (20, 16)]
  | .p => [some (41, 39), some (38, 36), some (35, 33), some (32, 28)]
  | .m => [some (41, 40), some (39, 38), some (37, 34), some (33, 30)]
  | .c => [some (34, 30), some (29, 25), some (24, 20), some (19, 16)]
  | .y => [some (41, 37), some (36, 32), some (31, 27), some (23, 20)]
  | .w => [some (41, 37), some (36, 32), some (31, 27), some (22, 19)]
  | .k => [none, none, none, none]

/-- The format of a leading word. -/
def wordFormat (w : Word) : FormatName := formatOf (Hdr.ofWord w).eng.toNat (opcBits w).toNat

/-- Repetition t of an instruction under a REP word (R313, R314). -/
def repWords (rw : Word) (ws : List Word) (t : Nat) : List Word :=
  ((stepBits (wordFormat (ws.headD 0))).zipIdx).foldl (fun ws p =>
    match p.1 with
    | none => ws
    | some (hi, lo) => stepField ws hi lo t (bits rw.toNat (2 * p.2 + 1) (2 * p.2))) ws

/-- Whether a stepped field leaves its register range, or a step stands on a dash (R314). -/
def stepsOk (rw : Word) (w : Word) (n : Nat) : Bool :=
  ((stepBits (wordFormat w)).zipIdx).all (fun p =>
    let step := bits rw.toNat (2 * p.2 + 1) (2 * p.2)
    match p.1 with
    | none => step == 0
    | some (hi, lo) => bits w.toNat hi lo + (n - 1) * step < 2 ^ (hi + 1 - lo))

/-- What a strand makes of the words it holds: the next repetition when a REP is running, otherwise the instruction. -/
def State.heldMove (s : State) (ci : Nat) (e : Eng) (c : Core) (ws : List Word) : Move :=
  match (c.strand e).rep e with
  | some (t, _, _) => s.judge ci e c.task (repWords (ws.headD 0) ws.tail t)
  | none => s.judge ci e c.task ws

/-- The words of the instruction that a strand holds: under REP, of the repetition that is running (R314). -/
def Strand.current (st : Strand) (e : Eng) : List Word :=
  match st.held with
  | none => []
  | some ws =>
    match st.rep e with
    | some (t, _, _) => repWords (ws.headD 0) ws.tail t
    | none => ws

/-- An instruction in flight that traps at its home leaves its strand as it was before the issue (R5). -/
def State.unissue (s : State) (ci : Nat) (e : Eng) : State :=
  s.updCore ci (fun c =>
    let st := c.strand e
    if st.busy then
      (c.unpop (popsOf (Hdr.ofWord ((st.current e).headD 0)) e)).setStrand e
        { st with rsn := st.rsn - 1, held := none, busy := false }
    else c)

/-- A strand stops at a fetch: it traps, or waits for the fill. -/
def State.fetchStop (s : State) (ci : Nat) (e : Eng) (r : Fetch) : State :=
  match r with
  | .got _ t => t
  | .trap t => (s.holdFault ci t).takeTrap ci e.tag (some e) t
  | .hold f => (s.holdFill ci f).waitOn ci e (.fill f.va false)

/-- A strand that executes the instruction at its PC fetches its extension words, applies the overlay and holds the
result (R69, R311). A REP that is already running fetches its instruction's words with it. -/
def State.fetchExec (s : State) (ci : Nat) (e : Eng) (c : Core) (w : Word) : Move :=
  let st := c.strand e
  match leadCheck w with
  | some n => .run (.illegalWord (BitVec.ofNat 8 n)) (s.updStrand ci e (fun st => st.noteFetch st.dwc.toNat st.pc))
  | none =>
    match s.fetchWords ci st.fillBad (xwBits w).toNat (nextPc st.pc 1) with
    | .got ext s1 =>
      let ws := c.overlaid st.pc (w :: ext)
      let note := s1.updStrand ci e (fun st => { st.noteFetch st.dwc.toNat st.pc with held := some ws })
      if st.repn == 0 then
        match note.core? ci with
        | none => .stay note
        | some c1 => note.heldMove ci e c1 ws
      else
        match s1.fetchWords ci st.fillBad 1 (nextPc st.pc 1) with
        | .got (w1 :: _) s2 =>
          match s2.fetchWords ci st.fillBad (xwBits w1).toNat (nextPc st.pc 2) with
          | .got ext1 s3 =>
            let ws := w :: c.overlaid (nextPc st.pc 1) (w1 :: ext1)
            let s4 := s3.updStrand ci e (fun st =>
              { (st.noteFetch st.dwc.toNat st.pc).noteFetch (st.dwc.toNat + 1) (nextPc st.pc 1) with held := some ws })
            match s4.core? ci with
            | none => .stay s4
            | some c1 => s4.heldMove ci e c1 ws
          | r => .stay (s2.fetchStop ci e r)
        | r => .stay (s1.fetchStop ci e r)
    | r => .stay (s.fetchStop ci e r)

/-- A strand at a word it has not fetched: the slip bound, the fetch of the leading word, and whether it walks past the
word or executes it (R38, R69, R297, R304). -/
def State.fetchMove (s : State) (ci : Nat) (e : Eng) (c : Core) : Move :=
  let st := c.strand e
  if c.slipHeld e then .stay (s.waitOn ci e .slip)
  else
    match s.fetchWords ci st.fillBad 1 st.pc with
    | .got (w :: _) s1 =>
      if st.skipping || !executes w e then .run (.walkedWord w) s1 else s1.fetchExec ci e c w
    | r => .stay (s.fetchStop ci e r)

/-- Results whose bound has passed have landed (R64), and due pushes are made (R66, R299). -/
def Core.land (c : Core) (now : Nat) : Core :=
  { c with flights := c.flights.filter (fun f => decide (now < f.landAt)) }.settleAll now

/-- Whether the clk is one on which the core's die issues (R385). -/
def State.issues (s : State) (c : Core) : Bool := decide (s.clk % 64 < (s.dies.at' (s.die c)).duty)

/-- Whether a strand waits for an access in flight, which an event completes (R271, R291). -/
def Strand.parked (st : Strand) : Bool :=
  st.busy && (match st.wait with
    | .home => true
    | .list _ => true
    | _ => false)

/-- Whether a strand of a trapped core may still trap on the clk of the trap (R389): it has not trapped, and no operation
of its engine stands suspended. -/
def Core.mayJoin (c : Core) (e : Eng) (clk : Nat) : Bool :=
  !c.freeze && !c.killed && c.started && (c.trapped.map (fun h => h.clk == clk)).getD false && (c.strand e).trap.isNone
    && !(c.strand e).busy && (match e with
      | .a => true
      | .m => !c.mprog.getLsbD 63 && !c.its.getLsbD 63
      | .v => (List.range 4).all (fun g => !(c.scans.at' g).scg.getLsbD 61))

/-- The move of a strand that may still trap on the clk of its core's trap (R389): an instruction that it executes is
judged, and nothing else happens. -/
def State.joinMove (s : State) (ci : Nat) (e : Eng) (m : Move) : Move :=
  match m with
  | .run (.walkedWord _) _ => .stay s
  | .run i t => .run i t
  | .stay t => if ((t.core? ci).bind (fun c => (c.strand e).trap)).isSome then .stay t else .stay s

/-- What a strand does at its move. It does nothing while its core is frozen or has not started, once it has exited,
on a withheld clk, before its DLY has passed (R63), while an access is in flight, or while a push waits (R299): the strand
then walks past no word either (log entry 78). A word that it holds and has not issued is held by the slip bound as a word
that it has yet to fetch (R297). -/
def State.nextInstr (s : State) (ci : Nat) (e : Eng) : Move :=
  match s.core? ci with
  | none => .stay s
  | some c0 =>
    let s := s.setCore ci (c0.land (s.iclk c0))
    let c := c0.land (s.iclk c0)
    let st := c.strand e
    let joins := c.mayJoin e s.clk
    if (c.halted || c.stopped) && (c.killed || !st.midway) && !joins || st.exited || st.parked || !s.issues c then .stay s
    else if e == .v && s.iclk c < c.vnext then .stay (s.waitOn ci e .issue)
    else match c.pushBlocked e (s.iclk c) with
      | some k => .stay (s.waitOn ci e (.push k.toNat))
      | none =>
        let move := match st.held with
          | some ws =>
            if !st.busy && st.repn == 0 && c.slipHeld e then .stay (s.waitOn ci e .slip) else s.heldMove ci e c ws
          | none => s.fetchMove ci e c
        if joins then s.joinMove ci e move else move

/-- The strip instruction that a strip is at (R325), while its route runs and it has not passed an end mark. -/
def State.nextStrip (s : State) (cl ws : Nat) : Move :=
  let x := (s.clusters.at' cl).strips.at' ws
  match x.prog[x.pos]? with
  | none => .stay s
  | some w =>
    match decodeStrip w with
    | none => .stay s
    | some i => if decide (s.clk % 64 < (s.dies.at' (cl / Config.clustersPerDie)).duty) then .run i s else .stay s

end Sys2Proof.Machine
end

