-- ==== Sys2Proof/Machine/Links.lean ====
section
/-! DEFINITION. Routes, links and beats of the welt, as the ports, the strips and the copies use them (spec/13, R320,
R321, R333, R335, R336). -/
namespace Sys2Proof.Machine

/-- Capacity of a link that has not grown (R333). -/
abbrev linkBeats : Nat := 32

/-- An empty link. -/
def Link.empty : Link := { cap := linkBeats, items := [] }

/-- Beats a link holds; an end mark takes no room. -/
def Link.count (l : Link) : Nat := (l.items.filter (fun x => x.isSome)).length

/-- Whether a link has room for n beats. -/
def Link.room (l : Link) (n : Nat) : Bool := l.count + n ≤ l.cap

/-- Puts an item into a link. -/
def Link.put (l : Link) (x : Option Beat) : Link := { l with items := l.items ++ [x] }

/-- A grown link that holds no beat returns to its first capacity, and its spill space is freed (R339). -/
def Link.shrink (l : Link) : Link := if l.items.all (fun x => x.isNone) then { l with cap := linkBeats } else l

/-- Removes the oldest item (R339). -/
def Link.drop (l : Link) : Link := { l with items := l.items.drop 1 }.shrink

/-- The oldest item of a link. -/
def Link.head? (l : Link) : Option (Option Beat) := l.items.head?

/-- The kind of the route's source port (R320). -/
def Route.srcKind (r : Route) : Nat := bits r.src.toNat 8 6

/-- The slot of the route's source port. -/
def Route.srcSlot (r : Route) : Nat := bits r.src.toNat 5 0

/-- Whether the first element's output has room for n beats: the first link, or every destination link. -/
def Route.firstRoom (r : Route) (n : Nat) : Bool :=
  match r.links with
  | l :: _ => l.room n
  | [] => r.outs.all (fun l => l.room n)

/-- Puts an item onto the source's output. -/
def Route.putFirst (r : Route) (x : Option Beat) : Route :=
  match r.links with
  | l :: ls => { r with links := l.put x :: ls }
  | [] => { r with outs := r.outs.map (fun l => l.put x) }

/-- The source emits the end mark, and the route drains (R335). -/
def Route.endSource (r : Route) : Route := { r.putFirst none with mode := .drain }

/-- The source emits one beat; after the last of a counted start the end mark follows (R335). -/
def Route.emit (r : Route) (b : Beat) : Route :=
  let r1 := { r.putFirst (some b) with
    beats := r.beats + 1
    psn := r.psn || b.psn
    left := r.left.map (fun n => n - 1) }
  if r1.left == some 0 then r1.endSource else r1

/-- Whether the source may emit n beats now (R333). -/
def Route.canEmit (r : Route) (n : Nat) : Bool :=
  r.mode == .run && !r.faults.contains 0 && r.firstRoom n && (match r.left with
    | some k => n ≤ k
    | none => true)

/-- Whether strip j of a route's chain can put an item on its output. -/
def Route.outRoom (r : Route) (j : Nat) : Bool :=
  match r.links[j + 1]? with
  | some l => l.room 1
  | none => r.outs.all (fun l => l.room 1)

/-- Strip j of the chain puts an item on its output (R333). -/
def Route.putOut (r : Route) (j : Nat) (x : Option Beat) : Route :=
  if j + 1 < r.links.length then { r with links := modifyAt r.links (j + 1) (fun l => l.put x) }
  else { r with outs := r.outs.map (fun l => l.put x) }

/-- Strip j of the chain takes the oldest item of its input. -/
def Route.takeIn (r : Route) (j : Nat) : Route := { r with links := modifyAt r.links j Link.drop }

/-- Destination d takes the oldest item of its link. -/
def Route.takeOut (r : Route) (d : Nat) : Route := { r with outs := modifyAt r.outs d Link.drop }

/-- Empties every link of a route. -/
def Route.clearLinks (r : Route) : Route :=
  { r with links := r.links.map (fun _ => Link.empty), outs := r.outs.map (fun _ => Link.empty) }

/-- The route notes the clk at which its links changed (R339). -/
def Route.noteMove (r old : Route) (clk : Nat) : Route :=
  if r.links == old.links && r.outs == old.outs then r else { r with movedAt := clk }

/-- Changes a route register of a core. -/
def State.updRoute (s : State) (ci rt : Nat) (f : Route → Route) : State :=
  s.updCore ci (fun c => { c with
    routes := c.routes.put rt ((f (c.routes.at' rt)).noteMove (c.routes.at' rt) s.clk) })

/-- A beat of 64 zero lanes. -/
def Beat.zero : Beat := { lanes := RegFile.fill 6 0, psn := false }

/-- A strip at WSTART (R325). -/
def Strip.restart (x : Strip) : Strip :=
  { x with pos := 0, left := bits (x.prog.headD 0).toNat 11 0 + 1, acc := none, idle := none, gather := [], owed := [],
           ended := false }

/-- Discards every beat in a route's links, strips and transpose buffers; its number is done and it is configured
(R335). -/
def State.discardRoute (s : State) (ci rt : Nat) : State :=
  match s.core? ci with
  | none => s
  | some c =>
    let r := c.routes.at' rt
    let cl := s.phys c
    let s1 := s.updCore ci (fun c =>
      { c.doneNum 4 r.num with routes := c.routes.put rt { r.clearLinks with mode := .conf, ended := false } })
    s1.updCluster cl (fun k =>
      let k1 := { k with strips := r.strips.foldl (fun f j => f.put j (f.at' j).restart) k.strips }
      let k2 := if r.dkind == 6 || r.srcKind == 6 then { k1 with units := k1.units.put 0 TransUnit.zero } else k1
      if r.dkind == 7 || r.srcKind == 7 then { k2 with units := k2.units.put 1 TransUnit.zero } else k2)

/-- A core's routes are stopped with discard and freed (R336, R394). -/
def State.freeRoutes (s : State) (ci : Nat) : State :=
  (List.range 16).foldl (fun s rt =>
    match s.core? ci with
    | none => s
    | some c =>
      let m := (c.routes.at' rt).mode
      let s1 := if m == .run || m == .drain then s.discardRoute ci rt else s
      s1.updRoute ci rt (fun _ => Route.zero)) s

/-- The places and numbers of the routes bound in a physical cluster. -/
def State.routesIn (s : State) (cl : Nat) : List (Nat × Nat × Route) :=
  (s.cores.zipIdx).flatMap (fun p =>
    if s.phys p.1 != cl then []
    else ((List.range 16).map (fun rt => (p.2, rt, p.1.routes.at' rt))).filter (fun x => x.2.2.mode != .free))

/-- The route that binds a strip, and the strip's place in its chain. -/
def State.stripRoute (s : State) (cl ws : Nat) : Option (Nat × Nat × Route × Nat) :=
  (s.routesIn cl).findSome? (fun x => (x.2.2.strips.findIdx? (fun j => j == ws)).map (fun k => (x.1, x.2.1, x.2.2, k)))

/-- The route that delivers to a destination port of a kind at a slot of the core's cluster, and the place of that
destination. -/
def State.routeTo (s : State) (cl kind slot : Nat) : Option (Nat × Nat × Route × Nat) :=
  (s.routesIn cl).findSome? (fun x =>
    if x.2.2.dkind != kind then none
    else if 6 ≤ kind then some (x.1, x.2.1, x.2.2, 0)
    else (x.2.2.dests.findIdx? (fun d => d == slot)).map (fun k => (x.1, x.2.1, x.2.2, k)))

/-- The route whose source port has a code (R320). -/
def State.routeFrom (s : State) (cl code : Nat) : Option (Nat × Nat × Route) :=
  (s.routesIn cl).find? (fun x => x.2.2.src.toNat == code)

/-- What a consumer finds at a destination port: a beat, zero beats after the end mark (R336), or nothing yet. -/
inductive PortIn where
  | beat (b : Beat) (ci rt d : Nat)
  | zeros
  | empty

/-- The state of a core's MB or CI port (R322, R336). -/
def State.portIn (s : State) (c : Core) (kind : Nat) : PortIn :=
  match s.routeTo (s.phys c) kind (s.slot c) with
  | none => .empty
  | some (ci, rt, r, d) =>
    match (r.outs.getD d Link.empty).head? with
    | none => .empty
    | some none => .zeros
    | some (some b) => .beat b ci rt d

/-- A core's port takes the beat at its head. -/
def State.takePort (s : State) (ci rt d : Nat) : State := s.updRoute ci rt (fun r => r.takeOut d)

/-- The core in a slot of a physical cluster. -/
def State.coreAt (s : State) (cl slot : Nat) : Option (Nat × Core) :=
  (s.cores.zipIdx).findSome? (fun p => if s.phys p.1 == cl && s.slot p.1 == slot then some (p.2, p.1) else none)

/-- Whether the core in a slot has exited or been killed. -/
def State.slotGone (s : State) (cl slot : Nat) : Bool :=
  match s.coreAt cl slot with
  | some (_, c) => c.exited || c.killed
  | none => true

/-- A destination port of an exited core takes every beat that has reached it, discards it and completes no slot (R336). -/
def Route.sweepDest (r : Route) (gone : Nat → Bool) : Route :=
  { r with
    outs := (r.outs.zipIdx).map (fun p =>
      if gone (r.dests.getD p.2 0) then { p.1 with items := p.1.items.filter (fun i => i.isNone) }.shrink else p.1)
    dstPos := (r.dstPos.zipIdx).map (fun p => if gone (r.dests.getD p.2 0) then 0 else p.1) }

/-- The beats that reach a destination port of an exited core are taken and discarded (R336). -/
def State.sweep (s : State) (cl : Nat) : State :=
  (s.routesIn cl).foldl (fun t x =>
    if 6 ≤ x.2.2.dkind then t else t.updRoute x.1 x.2.1 (fun r => r.sweepDest (s.slotGone cl))) s

end Sys2Proof.Machine
end

