-- ==== Sys2Proof/Machine/Sent.lean ====
section
/-! DEFINITION. What a copy sends to be written, and how it is performed (spec/09, R213, R224, R228; spec/10, R241, R242;
spec/16, R402). -/
namespace Sys2Proof.Machine

/-- A free value's key for an address of 56 bits. -/
def wideKey (kind a : Nat) : Nat := kind * 2 ^ 56 + a % 2 ^ 56

/-- A place that a copy reaches: a byte's address, the VA by which it was reached, and whether its page is UN. -/
structure Place where
  addr : Nat
  va : Option Nat
  un : Bool
  deriving DecidableEq, Repr

/-- A byte with the bits of a sent one. -/
def SentByte.over (b : SentByte) (old : BitVec 8) : BitVec 8 := (old &&& ~~~b.mask) ||| (b.val &&& b.mask)

/-- The byte at an address as a copy's own stores leave it. -/
def Copy.view (x : Copy) (s : State) (a : Nat) : BitVec 8 :=
  (x.sent.filter (fun b => b.addr == a)).foldl (fun v b => b.over v) (readByte s.mem a)

/-- A sent byte is performed; last is the latest tl0 number that the core has taken. A poisoned value marks its granule; a
granule all of whose bytes the copy has written clean loses its mark (R402). On a UN page a byte that this copy has written,
or an earlier copy of the channel after this one was issued and with no other access between, may keep that value: nothing
that has seen it can happen before this write (R217, R224, R225, R227). -/
def SentByte.perform (last : Nat) (b : SentByte) (p : State × Copy) : State × Copy :=
  let s := p.1
  let x := p.2
  let a := b.addr
  let again := b.un && x.uns.any (fun q => q.1 == a && (q.2.1 == x.n0 || x.n0 ≤ q.2.2))
  if again && s.free (wideKey 2 a) % 2 == 0 then p
  else
    let s1 := s.setMem [(a, b.over (b.old.getD (readByte s.mem a)))]
    let uns := if b.un then (a, x.n0, last) :: x.uns.filter (fun q => q.1 != a) else x.uns
    let g := granule a
    let m := ((x.cover.find? (fun q => q.1 == g)).map (fun q => q.2)).getD 0
    let rest := x.cover.filter (fun q => q.1 != g)
    if b.psn then (s1.mark a, { x with uns := uns, cover := (g, m ||| 2 ^ 64) :: rest })
    else if !s.poisoned a || b.mask != 0xFF then (s1, { x with uns := uns })
    else
      let m1 := m ||| 2 ^ (a % 64)
      if m1 == 2 ^ 64 - 1 then (s1.unmark g, { x with uns := uns, cover := rest })
      else (s1, { x with uns := uns, cover := (g, m1) :: rest })

/-- The first n bytes that a copy has sent are performed, in their order (R242). -/
def Copy.perform (last n : Nat) (s : State) (x : Copy) : State × Copy :=
  (x.sent.take n).foldl (fun p b => b.perform last p) (s, { x with sent := x.sent.drop n })

/-- A copy notes destination bytes that it writes, each of them once (R236). -/
def Copy.posts (x : Copy) (as : List Nat) : Copy :=
  { x with wrote := x.wrote ++ as.eraseDups.filter (fun a => !x.wrote.contains a) }

/-- The latest number that a core has taken on timeline 0, which every copy takes (R236). -/
def Core.lastCopy (c : Core) : Nat := (c.tls.at' 0).iss.toNat

/-- A copy sends whole bytes to places. -/
def Copy.sendBytes (x : Copy) (ps : List Place) (bs : List (BitVec 8 × Bool)) : Copy :=
  { x.posts (ps.map Place.addr) with
    mixed := x.mixed || ps.any (fun p => !p.un)
    sent := x.sent ++ (List.zip ps bs).map (fun q =>
      { addr := q.1.addr, va := q.1.va, val := q.2.1, mask := 0xFF, un := q.1.un, psn := q.2.2, old := none }) }

/-- A copy sends bits hi to lo of the bytes at places: a byte that is written in part is rewritten whole, and whether its
other bits are read now or once it is performed is a free value (R213). -/
def Copy.sendBits (x : Copy) (s : State) (ps : List Place) (hi lo v : Nat) (psn : Bool) : Copy :=
  let vals := leBytes ps.length (setBits 0 hi lo v)
  let masks := leBytes ps.length (setBits 0 hi lo (2 ^ (hi + 1 - lo) - 1))
  { x.posts (ps.map Place.addr) with
    mixed := x.mixed || ps.any (fun p => !p.un)
    sent := x.sent ++ (List.zip ps (List.zip vals masks)).map (fun q =>
      { addr := q.1.addr, va := q.1.va, val := q.2.1, mask := q.2.2, un := q.1.un, psn := psn
        old := if q.2.2 == 0xFF || s.free (wideKey 9 q.1.addr) % 2 == 0 then none else some (x.view s q.1.addr) }) }

/-- Whether something that a copy of the core has sent, and that a test holds of, is not yet performed. -/
def Core.sending (c : Core) (p : SentByte → Bool) : Bool :=
  (List.range 4).any (fun k => (c.chans.at' k).queue.any (fun x => x.sent.any p))

/-- Everything that the copies of a core have sent is performed (R394). -/
def State.landSent (s : State) (c : Core) : State :=
  (List.range 4).foldl (fun s k => (c.chans.at' k).queue.foldl (fun s x => (x.perform c.lastCopy x.sent.length s).1) s) s

end Sys2Proof.Machine
end

