-- ==== Sys2Proof/Machine/Groups.lean ====
section
/-! DEFINITION. Domains (spec/09, R212; spec/11, R282), barriers (R284-R286), scan groups (spec/08, R187-R205), and what
the exit or the death of a core does to them (spec/12, R307; spec/16, R394). -/
namespace Sys2Proof.Machine

/-- Whether two cores of one task lie in one scope instance of a level (R212). -/
def State.sameInst (s : State) (lvl : Nat) (c d : Core) : Bool :=
  match lvl with
  | 0 => c.vcore == d.vcore
  | 1 => s.phys c == s.phys d
  | 2 => s.die c == s.die d
  | _ => true

/-- The identifier of a core's domain of a level (R282). -/
def Core.domainId (c : Core) (lvl : Nat) : Nat := bits (c.dm.at' (lvl - 1)).toNat 15 0

/-- Whether two cores lie in one level-L domain: the same identifier and scope instance at L and at every level above it,
and the same task (R282). Members of peer tasks on other packages are outside the model (log entry 3). -/
def State.sameDomain (s : State) (lvl : Nat) (c d : Core) : Bool :=
  c.task == d.task && (if lvl == 0 then c.vcore == d.vcore
    else (List.range 5).all (fun l => l < lvl || (c.domainId l == d.domainId l && s.sameInst l c d)))

/-- The places of the cores of a core's level-L domain, in vcore order. -/
def State.domain (s : State) (lvl : Nat) (c : Core) : List Nat :=
  ((s.cores.zipIdx).filter (fun p => s.sameDomain lvl c p.1)).map (fun p => p.2)

/-- Whether a core has left its domains (R285). -/
def Core.gone (c : Core) : Bool := c.exited || c.killed

/-- Whether a RED of the core is still on its way to its home (R231). -/
def State.redsPending (s : State) (c : Core) : Bool := s.reqs.any (fun r => r.cores.contains c.key && r.kind == .red)

/-- Arrivals a strand has executed at a level. -/
def Barrier.by (b : Barrier) : Eng → Nat
  | .a => b.byA
  | .m => b.byM
  | .v => b.byV

/-- A strand executes one more arrival. -/
def Barrier.arrive (b : Barrier) : Eng → Barrier
  | .a => { b with byA := b.byA + 1 }
  | .m => { b with byM := b.byM + 1 }
  | .v => { b with byV := b.byV + 1 }

/-- Whether a strand has executed the arrival numbered n, or has exited (R225). -/
def Core.arrived (c : Core) (lvl n : Nat) (e : Eng) : Bool :=
  (c.strand e).exited || n ≤ (c.bars.at' lvl).by e

/-- The core's arrival is made once its three strands have executed it (R225, R284). -/
def Core.makeArrival (c : Core) (lvl : Nat) : Core :=
  let b := c.bars.at' lvl
  let n := b.made + 1
  if c.arrived lvl n .a && c.arrived lvl n .m && c.arrived lvl n .v
      && (n ≤ b.byA || n ≤ b.byM || n ≤ b.byV) then
    { c with bars := c.bars.put lvl { b with made := n } }
  else c

/-- Whether the tasks of other packages are part of a level-4 episode (R282, R355). -/
def State.needsPeers (s : State) (c : Core) (lvl : Nat) : Bool :=
  lvl == 4 && (match s.task? c.task with
    | some t => fieldAt t.launch 44 4 != 0
    | none => false)

/-- A message of the lacing to the peer packages of a group (R20, log entry 60): kind 8 a join arrival, 9 a carry, 10 a
total, 11 a break notice; and kind 13, the notice that a level-4 domain of a job is broken (R285, log entry 3). -/
def State.lace (s : State) (kind g : Nat) (data : List (BitVec 8)) : State :=
  { s with outbox := s.outbox ++ [{ pkg := 0xFFFFF, kind := kind, cl := g, addr := 0, data := data }] }

/-- A domain breaks on this package: every member's barrier at the level is broken (R285). -/
def State.breakHereAt (s : State) (lvl : Nat) (c : Core) : State :=
  (s.domain lvl c).foldl (fun s ci =>
    s.updCore ci (fun d => { d with bars := d.bars.put lvl { d.bars.at' lvl with broken := true } })) s

/-- A domain breaks, on other packages too (R285). -/
def State.breakDomain (s : State) (lvl : Nat) (c : Core) : State :=
  let s1 := s.breakHereAt lvl c
  if s.needsPeers c lvl then s1.lace 13 0 [] else s1

/-- LVL of a COLL (R262). -/
def Copy.lvl (x : Copy) : Nat := bits (FmtC.ofBits (bodyBits x.lead)).ops.toNat 15 13

/-- SHRINK of a level in a core's dm register (R285). -/
def Core.shrinks (c : Core) (lvl : Nat) : Bool := lvl != 0 && (c.dm.at' (lvl - 1)).getLsbD 16

/-- Whether a core has a COLL of a level that is not complete and counts on a core of its task (R262). -/
def Core.collOpen (c : Core) (lvl vcore : Nat) : Bool :=
  (List.range 4).any (fun k => (c.chans.at' k).queue.any (fun x => x.kind == .coll && x.lvl == lvl && x.ranks.contains vcore))

/-- A core killed by a trap breaks its domains, but for levels whose SHRINK is set in its dm register and at which no COLL
waits for it (R262, R285). -/
def State.breakDomains (s : State) (c : Core) : State :=
  [0, 1, 2, 3, 4].foldl (fun s lvl =>
    if c.shrinks lvl && !s.cores.any (fun d => d.task == c.task && d.collOpen lvl c.vcore) then s else s.breakDomain lvl c) s

/-- Whether the core is a member under a scan index (R187). -/
def ScanIx.joined (x : ScanIx) : Bool := x.scg.getLsbD 63

/-- Whether the group is broken (R187). -/
def ScanIx.broken (x : ScanIx) : Bool := x.scg.getLsbD 62

/-- Whether a SCAN is suspended on the index (R187). -/
def ScanIx.waitsCarry (x : ScanIx) : Bool := x.scg.getLsbD 61

/-- The generation last retired (R187). -/
def ScanIx.gen (x : ScanIx) : Nat := bits x.scg.toNat 47 32

/-- The configuration byte (R188). -/
def ScanIx.cfg (x : ScanIx) : Nat := bits x.scg.toNat 55 48

/-- The operator of the configuration (R185). -/
def ScanIx.op (x : ScanIx) : Nat := x.cfg / 32

/-- Replaces a field of the scan group register. -/
def ScanIx.setField (x : ScanIx) (hi lo v : Nat) : ScanIx := { x with scg := BitVec.ofNat 64 (setBits x.scg.toNat hi lo v) }

/-- Changes a scan index of a core. -/
def State.updScan (s : State) (ci g : Nat) (f : ScanIx → ScanIx) : State :=
  s.updCore ci (fun c => { c with scans := c.scans.put g (f (c.scans.at' g)) })

/-- The cores of a group as places, in group order, those that still hold the membership (R189). -/
def State.members (s : State) (g : Nat) (x : ScanIx) : List Nat :=
  (x.members.filterMap (fun k => s.place k)).filter (fun ci =>
    match s.core? ci with
    | some c => (c.scans.at' g).joined && (c.scans.at' g).members == x.members
    | none => false)

/-- Whether a group has members on other packages (R189, R355). -/
def ScanIx.wide (x : ScanIx) : Bool := x.before + x.after != 0

/-- BRK is set in the register of every member of a group on this package (R205). -/
def State.breakHere (s : State) (g : Nat) (x : ScanIx) : State :=
  (s.members g x).foldl (fun s ci => s.updScan ci g (fun y => y.setField 62 62 1)) s

/-- A group breaks, on other packages too (R205). -/
def State.breakGroup (s : State) (g : Nat) (x : ScanIx) : State :=
  let s1 := s.breakHere g x
  if x.wide then s1.lace 11 g [] else s1

/-- The scan groups of a core break: all of them at a kill, those with a suspended SCAN at EXIT (R193, R205). -/
def State.breakGroups (s : State) (c : Core) (kill : Bool) : State :=
  [0, 1, 2, 3].foldl (fun s g =>
    let x := c.scans.at' g
    if x.joined && (kill || x.waitsCarry) then s.breakGroup g x else s) s

/-- A core makes the arrivals that an EXIT of a strand completes, at every level (R225, R285). -/
def Core.exitArrivals (c : Core) : Core := [0, 1, 2, 3, 4].foldl (fun c l => c.makeArrival l) c

/-- EXIT of a core once its three strands have exited (R193, R285, R307, R336): its groups with a suspended SCAN break,
the overlay is cleared, its pins are released and its routes are freed. -/
def State.coreExit (s : State) (ci : Nat) : State :=
  match s.core? ci with
  | none => s
  | some c =>
    let cl := s.phys c
    let s1 := (s.breakGroups c false).freeRoutes ci
    let s2 := s1.updCore ci (fun c =>
      { c.exitArrivals with
        exited := true, overlay := [], pins := [] })
    (s2.updCluster cl (fun k => { k with pins := k.pins.filter (fun p => p.core != c.vcore) })).sweep cl

/-- A core is killed (R285, R205, R394): what its copies have sent is performed, its barriers and groups break, queued copies
are dropped, its routes are freed and its timeline numbers complete. -/
def State.killCore (s : State) (ci : Nat) : State :=
  match s.core? ci with
  | none => s
  | some c =>
    let cl := s.phys c
    let s1 := (((s.landSent c).breakDomains c).breakGroups c true).freeRoutes ci
    let s2 := s1.updCore ci (fun c => { c with
      killed := true, exited := true, overlay := [], pins := [], trapped := none, freeze := false, flights := [], split := none, taken := none
      chans := RegFile.fill 2 { queue := [], ending := [], fill := none, count := 0 }
      tls := RegFile.tab 3 (fun k => { c.tls.at' k with comp := (c.tls.at' k).iss, dones := [] }) })
    (s2.updCluster cl (fun k => { k with pins := k.pins.filter (fun p => p.core != c.vcore) })).sweep cl

end Sys2Proof.Machine
end

