-- ==== Sys2Proof/Machine/Trans.lean ====
section
/-! DEFINITION. The transcendental functions and the fixed sequences of R133, R134 and R186, and the exact-integer
arithmetic of R208 and R209. -/
namespace Sys2Proof.Machine

/-- Fractional bits of the fixed-point numbers used for powers and logarithms. -/
abbrev fixBits : Nat := 400

/-- The product of 2^(2^-i) over the set fraction bits, most significant first: c is the current root and acc the
product, both with fixBits fractional bits. -/
def exp2Go : Nat → Nat → Nat → Nat → Nat
  | 0, _, _, acc => acc
  | k + 1, f, c, acc =>
    let c := isqrt (c * 2 ^ fixBits)
    exp2Go k f c (if bitAt f k then acc * c / 2 ^ fixBits else acc)

/-- 2^x for a finite x (R133): exact for an integer x, else irrational, given by a truncation far finer than any
rounding needs. -/
def exp2Exact (x : Exact) : FNum :=
  let fb := (-x.e).toNat
  let v : Int := x.atExp (min x.e 0)
  let n := v / (2 ^ fb : Nat)
  let f := (v % (2 ^ fb : Nat)).toNat
  if f == 0 then .dy false 1 n
  else
    let p := exp2Go fb f (2 * 2 ^ fixBits) (2 ^ fixBits)
    .fin { neg := false, m := p, e := n - (fixBits : Int), st := true }

/-- 2^x (R133). Beyond an exponent of 4096 the result is one that every format overflows or underflows with. -/
def FNum.exp2 (a : FNum) : FNum :=
  match a with
  | .nan => .nan
  | .inf n => if n then .zero false else .inf false
  | .fin x =>
    if x.isZero then .one
    else if x.cmpMag 4096 0 != .lt then .fin { neg := false, m := 1, e := if x.neg then -4096 else 4096, st := true }
    else if x.cmpMag 1 (-200) == .lt then
      (if x.neg then .fin { neg := false, m := 2 ^ 200 - 1, e := -200, st := true }
       else .fin { neg := false, m := 2 ^ 200, e := -200, st := true })
    else exp2Exact x

/-- Fraction bits of the binary logarithm of y, 1 <= y < 2, by repeated squaring. -/
def log2Go : Nat → Nat → Nat → Nat
  | 0, _, acc => acc
  | k + 1, y, acc =>
    let y := y * y / 2 ^ (2 * fixBits)
    if y < 2 * 2 ^ (2 * fixBits) then log2Go k y (2 * acc) else log2Go k (y / 2) (2 * acc + 1)

/-- log2 x (R133); log2 of 1 is +0. -/
def FNum.log2 (a : FNum) : FNum :=
  match a with
  | .nan => .nan
  | .inf n => if n then .nan else .inf false
  | .fin x =>
    if x.isZero then .inf true else if x.neg then .nan
    else
      let l := x.m.log2
      let ex : Int := (l : Int) + x.e
      if x.m == 2 ^ l then .ofInt ex
      else
        let y := x.m * 2 ^ (2 * fixBits) / 2 ^ l
        let f := log2Go 256 y 0
        let v : Int := ex * (2 ^ 256 : Nat) + f
        if v < 0 then .fin { neg := true, m := v.natAbs - 1, e := -256, st := true }
        else .fin { neg := false, m := v.natAbs, e := -256, st := true }

/-- exp2rn(z) of R134, as an FP32 code. -/
def exp2rn (z : Nat) : Nat := rneF (f32 z).exp2

/-- vsigm of R134 on an exact FP32-representable input, rounded into t. -/
def vsigm (t : Fmt) (rm : Rm) (x : FNum) : Nat :=
  if x == .nan then nanCode t
  else
    let z := rneF (x.mul (f32 0x3FB8AA3B))
    let ex := rneF (f32 z).negate.exp2
    let d := rneF (FNum.add .rne .one (f32 ex))
    cvt t rm false (FNum.div .one (f32 d))

/-- vtanh of R134 on an exact FP32-representable input, rounded into t. -/
def vtanh (t : Fmt) (rm : Rm) (x : FNum) : Nat :=
  match x with
  | .nan => nanCode t
  | .fin y => if y.cmpMag 1 (-12) == .lt then cvt t .rne false x else tail
  | .inf _ => tail
where
  /-- The sequence for magnitudes of 2^-12 and more; y is rounded under RM before the sign is put back. -/
  tail : Nat :=
    let z := rneF (x.abs.mul (f32 0x4038AA3B))
    let ex := rneF (f32 z).exp2
    let d := rneF (FNum.add .rne .one (f32 ex))
    let q := rneF (FNum.div (.dy false 2 0) (f32 d))
    let y := cvt t rm false (FNum.add rm .one (f32 q).negate)
    if x.neg then y ^^^ 2 ^ (t.bits - 1) else y

/-- lsecomb of R186 on pairs of FP32 codes. -/
def lsecomb (e l : Nat × Nat) : Nat × Nat :=
  let em := f32 e.1
  let lm := f32 l.1
  if em == .nan || lm == .nan then (nanCode .fp32, nanCode .fp32)
  else if em == .inf true then l
  else if lm == .inf true then e
  else match em.cmp lm with
    | .eq => (e.1, rneF (FNum.add .rne (f32 e.2) (f32 l.2)))
    | o =>
      let big := if o == .gt then e else l
      let sml := if o == .gt then l else e
      let d := rneF (FNum.add .rne (f32 sml.1) (f32 big.1).negate)
      let f := exp2rn d
      (big.1, rneF (FNum.add .rne (f32 big.2) ((f32 sml.2).mul (f32 f))))

/-- comb(e, l) of R185 on pairs of FP32 codes; the second component is unused by operators 0 to 3. -/
def comb (op : Nat) (e l : Nat × Nat) : Nat × Nat :=
  match op with
  | 0 => (rneF (FNum.add .rne (f32 e.1) (f32 l.1)), 0)
  | 1 => (rneF ((f32 e.1).max (f32 l.1)), 0)
  | 2 => (rneF ((f32 e.1).min (f32 l.1)), 0)
  | 3 => (rneF ((f32 e.1).mul (f32 l.1)), 0)
  | 4 => (rneF ((f32 l.1).mul (f32 e.1)), rneF (FNum.add .rne ((f32 l.1).mul (f32 e.2)) (f32 l.2)))
  | _ => lsecomb e l

/-- The identity of an operator (R185). -/
def combId (op : Nat) : Nat × Nat :=
  match op with
  | 1 => (0xFF800000, 0)
  | 2 => (0x7F800000, 0)
  | 3 => (0x3F800000, 0)
  | 4 => (0x3F800000, 0)
  | 5 => (0xFF800000, 0)
  | _ => (0, 0)

/-- out() of R198: the value a scan exists to produce. -/
def scanOut (op : Nat) (v : Nat × Nat) : Nat := if op == 4 then v.2 else v.1

/-- comp() of R198: the companion value. -/
def scanComp (op : Nat) (v : Nat × Nat) : Nat := if op == 4 then v.1 else v.2

/-- e_r of R208 for one block of one rank: the stored scale of MXFP4 and T6, floor(log2 A) + 127 of the others, and 0
where nothing bounds the block. -/
def collScale (t : Fmt) (stored : Nat) (codes : List Nat) : Nat :=
  let xs := codes.map (decodeNum t)
  match blockLog2 xs with
  | none => 0
  | some l => if t.isBlock then (if stored == 0xFF then 0 else stored) else (l + 127).toNat

/-- The decoded element with its POS and NEG flags (R208). -/
def collElem (t : Fmt) (stored c : Nat) : FNum × Bool × Bool :=
  let x := if t.isBlock then decodeScaled t stored c else decodeNum t c
  match x with
  | .nan => (x, true, true)
  | .inf n => (x, !n, n)
  | .fin _ => (x, false, false)

/-- The exact out value of R209 for one element position, from the ranks' elements and the agreed e. -/
def collOut (t : Fmt) (e : Nat) (xs : List (FNum × Bool × Bool)) : FNum :=
  let pos := xs.any (fun x => x.2.1)
  let neg := xs.any (fun x => x.2.2)
  if pos && neg then .nan
  else if pos then .inf false
  else if neg then .inf true
  else
    let emax : Int := if t == .mxfp4 then 2 else if t == .t6 then 4 else 0
    let top : Int := (e : Int) - 127 + emax
    let s := xs.foldl (fun s x => match x.1.shift (29 - top) with
      | .fin y => s + roundInt .rne y
      | _ => s) (0 : Int)
    (FNum.ofInt s).shift (top - 29)

end Sys2Proof.Machine
end

