-- ==== Sys2Proof/Machine/Vector.lean ====
section
/-! DEFINITION. The vector instructions (spec/05, R123-R142), with the result bounds of R144. -/
namespace Sys2Proof.Machine

/-- The checks of a vector word before its pops (R44, R111). -/
def vEarly (i : Instr) (v : At) (_ : State) : Option TrapInfo := v.tyCheck i

/-- The lanes of an instruction whose destination elements are a function of the element number (R125). -/
def elemLanes (ty : Nat) (g : Nat → Nat) (i : Nat) : BitVec 32 := laneOf (fmtOf ty).bits g i

/-- A vector instruction that writes vd in its active lanes: a function of the strand, the state and the type gives
the lanes. -/
def vecOp (i : Instr) (h : Hdr) (f : FmtV) (lat : Nat) (g : At → State → Nat → Nat → BitVec 32) (s : State) :
    Host.Outcome State Fault Refusal :=
  s.issueWord h 1 (vEarly i) noAgain (fun v s =>
    .done (v.putV s f.vd (s.active v f) (g v s (v.ty f.ty.toNat)) lat) lat)

/-- An instruction on the elements of va. -/
def vecUn (i : Instr) (h : Hdr) (f : FmtV) (lat : Nat) (g : Nat → Nat → Nat) (s : State) :
    Host.Outcome State Fault Refusal :=
  vecOp i h f lat (fun v s ty =>
    let a := s.readV v f.va
    let w := (fmtOf ty).bits
    elemLanes ty (fun j => g ty (elemOf w a j))) s

/-- An instruction on the elements of va and vb. -/
def vecBin (i : Instr) (h : Hdr) (f : FmtV) (lat : Nat) (g : Nat → Nat → Nat → Nat) (s : State) :
    Host.Outcome State Fault Refusal :=
  vecOp i h f lat (fun v s ty =>
    let a := s.readV v f.va
    let b := s.readV v f.vb
    let w := (fmtOf ty).bits
    elemLanes ty (fun j => g ty (elemOf w a j) (elemOf w b j))) s

/-- An instruction on the elements of va, vb and vc. -/
def vecTri (i : Instr) (h : Hdr) (f : FmtV) (lat : Nat) (g : Nat → Nat → Nat → Nat → Nat) (s : State) :
    Host.Outcome State Fault Refusal :=
  vecOp i h f lat (fun v s ty =>
    let a := s.readV v f.va
    let b := s.readV v f.vb
    let c := s.readV v f.vc
    let w := (fmtOf ty).bits
    elemLanes ty (fun j => g ty (elemOf w a j) (elemOf w b j) (elemOf w c j))) s

/-- A floating result in the element's own format, rounded once under RM with SAT = 0 (R126). -/
def vround (f : FmtV) (ty : Nat) (x : FNum) : Nat := cvt (fmtOf ty) (Rm.ofField f.rm) false x

/-- The value of an element (R98). -/
def elemVal (ty x : Nat) : FNum := decodeNum (fmtOf ty) x

/-- The window named by OPS[11:8] of a vector word (R127). -/
def vwin (f : FmtV) : BitVec 4 := f.ops.extractLsb' 8 4

/-- The types a vector window access accepts, set D (R124, R128). -/
def setD : List Nat := [0, 1, 2, 3, 4, 6, 8, 9, 10, 11]

/-- The window's type for a vector access (R121, R128). -/
def vwinTy (v : At) (w : Window) : Except TrapInfo Nat :=
  match v.winTy w false with
  | .error t => .error t
  | .ok t => if setD.contains t then .ok t else .error (illegalOp 7)

/-- Elements of the active lanes for a type (R125). -/
def activeElems (act : BitVec 64) (ty : Nat) : List Nat :=
  (List.range (elemsOf ty)).filter (fun j => act.getLsbD (j * (fmtOf ty).bits / 32))

/-- WINDOW_FAULT for a row index that a window does not have (R121). -/
def rowFault (w : Window) (r : Nat) : TrapInfo := windowFault (w.base.toNat + r * w.stride.toNat)

/-- The checks of R128 on row r of active lanes, reading or writing; the first lane that fails names the cause (log entry
19). -/
def rowChecks (s : State) (v : At) (w : Window) (wty r c0 : Nat) (js : List Nat) (wr : Bool) : Option TrapInfo :=
  if js.isEmpty then none
  else if w.rows ≤ r then some (rowFault w r)
  else firstTrap (js.filter (fun j => c0 + j < w.cols)) (fun j =>
    if wr then s.checkWrite v.c w (fmtOf wty) r (c0 + j) else s.checkRead v.c w (fmtOf wty) r (c0 + j))

/-- VLD (R128). -/
def execVld (h : Hdr) (f : FmtV) (s : State) : Host.Outcome State Fault Refusal :=
  s.issueWord h 1 (vEarly (.vld h f)) noAgain (fun v s =>
    let w := s.readW v (vwin f)
    match vwinTy v w with
    | .error t => .trap t s
    | .ok wty =>
      let ty := v.ty f.ty.toNat
      let r := (s.readS v f.va).toNat
      let c0 := (s.readS v f.vb).toNat
      let act := s.active v f
      match rowChecks s v w wty r c0 (activeElems act ty) false with
      | some t => .trap t s
      | none => .done (v.putV s f.vd act (elemLanes ty (fun j =>
          if c0 + j < w.cols then vround f ty (elemVal wty (s.readElem v.c w (fmtOf wty) r (c0 + j))) else 0)) 6) 6)

/-- The stores of a vector instruction: (row, column, code) in order, then the marks of granules covered whole. -/
def vstores (s : State) (c : Core) (w : Window) (wty : Nat) (xs : List (Nat × Nat × Nat)) : State :=
  let t := fmtOf wty
  let s' := xs.foldl (fun s x => s.writeElem c w t x.1 x.2.1 x.2.2) s
  s'.coverClear (xs.flatMap (fun x => match s.elemAddrs c w t x.1 x.2.1 with
    | .ok as => as
    | .error _ => []))

/-- VST (R128). -/
def execVst (h : Hdr) (f : FmtV) (s : State) : Host.Outcome State Fault Refusal :=
  s.issueWord h 1 (vEarly (.vst h f)) noAgain (fun v s =>
    let w := s.readW v (vwin f)
    match vwinTy v w with
    | .error t => .trap t s
    | .ok wty =>
      let ty := v.ty f.ty.toNat
      let r := (s.readS v f.va).toNat
      let c0 := (s.readS v f.vb).toNat
      let js := activeElems (s.active v f) ty
      match rowChecks s v w wty r c0 js true with
      | some t => .trap t s
      | none =>
        let x := s.readV v f.vd
        .done (vstores s v.c w wty ((js.filter (fun j => c0 + j < w.cols)).map (fun j =>
          (r, c0 + j, cvt (fmtOf wty) (Rm.ofField f.rm) (f.ops.getLsbD 7)
            (elemVal ty (elemOf (fmtOf ty).bits x j)))))) 1)

/-- The elements that the active lanes of an indexed access name: lane, row and column (R129). -/
def gatherElems (act : BitVec 64) (idx : RegFile 6 (BitVec 32)) (cols : Nat) : List (Nat × Nat × Nat) :=
  ((List.range 64).filter (fun i => act.getLsbD i)).map (fun i =>
    (i, (idx.at' i).toNat / cols, (idx.at' i).toNat % cols))

/-- The checks of R121 over the elements of an indexed access, in lane order. -/
def gatherChecks (s : State) (v : At) (w : Window) (wty : Nat) (es : List (Nat × Nat × Nat)) (wr : Bool) :
    Option TrapInfo :=
  firstTrap es (fun e =>
    if w.rows ≤ e.2.1 then some (windowFault (w.bitPos (fmtOf wty) e.2.1 e.2.2 / 8))
    else if wr then s.checkWrite v.c w (fmtOf wty) e.2.1 e.2.2 else s.checkRead v.c w (fmtOf wty) e.2.1 e.2.2)

/-- VGATH (R129). -/
def execVgath (h : Hdr) (f : FmtV) (s : State) : Host.Outcome State Fault Refusal :=
  s.issueWord h 1 (vEarly (.vgath h f)) noAgain (fun v s =>
    let w := s.readW v (vwin f)
    match vwinTy v w with
    | .error t => .trap t s
    | .ok wty =>
      let ty := v.ty f.ty.toNat
      let idx := s.readV v f.vb
      let act := s.active v f
      match gatherChecks s v w wty (gatherElems act idx w.cols) false with
      | some t => .trap t s
      | none => .done (v.putV s f.vd act (fun i =>
          let x := (idx.at' i).toNat
          BitVec.ofNat 32 (vround f ty (elemVal wty (s.readElem v.c w (fmtOf wty) (x / w.cols) (x % w.cols))))) 6) 6)

/-- VSCAT (R129): lanes store in ascending order, so the highest lane of an element is the one that stays. -/
def execVscat (h : Hdr) (f : FmtV) (s : State) : Host.Outcome State Fault Refusal :=
  s.issueWord h 1 (vEarly (.vscat h f)) noAgain (fun v s =>
    let w := s.readW v (vwin f)
    match vwinTy v w with
    | .error t => .trap t s
    | .ok wty =>
      let ty := v.ty f.ty.toNat
      let es := gatherElems (s.active v f) (s.readV v f.vb) w.cols
      match gatherChecks s v w wty es true with
      | some t => .trap t s
      | none =>
        let x := s.readV v f.vd
        .done (vstores s v.c w wty (es.map (fun e => (e.2.1, e.2.2,
          cvt (fmtOf wty) (Rm.ofField f.rm) (f.ops.getLsbD 7) (elemVal ty (x.at' e.1).toNat))))) 1)

/-- VMOV (R131). -/
def execVmov (h : Hdr) (f : FmtV) (s : State) :=
  vecOp (.vmov h f) h f 2 (fun v s _ => (s.readV v f.va).at') s

/-- VSPLAT (R131). -/
def execVsplat (h : Hdr) (f : FmtV) (s : State) :=
  vecOp (.vsplat h f) h f 2 (fun v s ty => elemLanes ty (fun _ => (s.readS v f.va).toNat % 2 ^ (fmtOf ty).bits)) s

/-- The scalar that an element gives, extended as its type says (R131, R244). -/
def elemScalar (ty x : Nat) : Word :=
  if ty == 8 || ty == 10 || ty == 11 then sext64 (fmtOf ty).bits x else BitVec.ofNat 64 x

/-- VEXTR (R131). The ownership check comes after check 7 (log entry 12). -/
def execVextr (h : Hdr) (f : FmtV) (s : State) : Host.Outcome State Fault Refusal :=
  s.issueWord h 1 (fun v _ => (v.tyCheck (.vextr h f)).or (v.ownCheck f.vd)) noAgain (fun v s =>
    let ty := v.ty f.ty.toNat
    .done (v.putS s f.vd (elemScalar ty (elemOf (fmtOf ty).bits (s.readV v f.va) (f.ops.toNat % 256))) 3) 3)

/-- VADD (R132). -/
def execVadd (h : Hdr) (f : FmtV) (s : State) :=
  vecBin (.vadd h f) h f 4
    (fun ty a b => vround f ty (FNum.add (Rm.ofField f.rm) (elemVal ty a) (elemVal ty b))) s

/-- VSUB (R132). -/
def execVsub (h : Hdr) (f : FmtV) (s : State) :=
  vecBin (.vsub h f) h f 4
    (fun ty a b => vround f ty (FNum.add (Rm.ofField f.rm) (elemVal ty a) (elemVal ty b).negate)) s

/-- VMUL (R132). -/
def execVmul (h : Hdr) (f : FmtV) (s : State) :=
  vecBin (.vmul h f) h f 4 (fun ty a b => vround f ty ((elemVal ty a).mul (elemVal ty b))) s

/-- VFMA (R132). -/
def execVfma (h : Hdr) (f : FmtV) (s : State) :=
  vecTri (.vfma h f) h f 5 (fun ty a b c =>
    vround f ty (FNum.add (Rm.ofField f.rm) ((elemVal ty a).mul (elemVal ty b)) (elemVal ty c))) s

/-- VFMS (R132). -/
def execVfms (h : Hdr) (f : FmtV) (s : State) :=
  vecTri (.vfms h f) h f 5 (fun ty a b c =>
    vround f ty (FNum.add (Rm.ofField f.rm) ((elemVal ty a).mul (elemVal ty b)) (elemVal ty c).negate)) s

/-- VMIN (R132). -/
def execVmin (h : Hdr) (f : FmtV) (s : State) :=
  vecBin (.vmin h f) h f 4 (fun ty a b => cvt (fmtOf ty) .rne false ((elemVal ty a).min (elemVal ty b))) s

/-- VMAX (R132). -/
def execVmax (h : Hdr) (f : FmtV) (s : State) :=
  vecBin (.vmax h f) h f 4 (fun ty a b => cvt (fmtOf ty) .rne false ((elemVal ty a).max (elemVal ty b))) s

/-- VABS (R132): only the sign bit changes. -/
def execVabs (h : Hdr) (f : FmtV) (s : State) :=
  vecUn (.vabs h f) h f 4 (fun ty a => a % 2 ^ ((fmtOf ty).bits - 1)) s

/-- VNEG (R132): only the sign bit changes. -/
def execVneg (h : Hdr) (f : FmtV) (s : State) :=
  vecUn (.vneg h f) h f 4 (fun ty a => a ^^^ 2 ^ ((fmtOf ty).bits - 1)) s

/-- VRCP (R133). -/
def execVrcp (h : Hdr) (f : FmtV) (s : State) :=
  vecUn (.vrcp h f) h f 12 (fun ty a => vround f ty (FNum.div .one (elemVal ty a))) s

/-- VRSQ (R133). -/
def execVrsq (h : Hdr) (f : FmtV) (s : State) :=
  vecUn (.vrsq h f) h f 12 (fun ty a => vround f ty (elemVal ty a).rsqrt) s

/-- VSQRT (R133). -/
def execVsqrt (h : Hdr) (f : FmtV) (s : State) :=
  vecUn (.vsqrt h f) h f 12 (fun ty a => vround f ty (elemVal ty a).sqrt) s

/-- VEXP2 (R133). -/
def execVexp2 (h : Hdr) (f : FmtV) (s : State) :=
  vecUn (.vexp2 h f) h f 12 (fun ty a => vround f ty (elemVal ty a).exp2) s

/-- VLOG2 (R133). -/
def execVlog2 (h : Hdr) (f : FmtV) (s : State) :=
  vecUn (.vlog2 h f) h f 12 (fun ty a => vround f ty (elemVal ty a).log2) s

/-- VTANH (R134). -/
def execVtanh (h : Hdr) (f : FmtV) (s : State) :=
  vecUn (.vtanh h f) h f 30 (fun ty a => vtanh (fmtOf ty) (Rm.ofField f.rm) (elemVal ty a)) s

/-- VSIGM (R134). -/
def execVsigm (h : Hdr) (f : FmtV) (s : State) :=
  vecUn (.vsigm h f) h f 30 (fun ty a => vsigm (fmtOf ty) (Rm.ofField f.rm) (elemVal ty a)) s

/-- convert of R135: between equal types only NaN and NaR change. -/
def vconvert (sty ty : Nat) (rm : Rm) (sat : Bool) (rnd : Option Nat) (x : Nat) : Nat :=
  if sty == ty then (if elemVal ty x == .nan then nanCode (fmtOf ty) else x)
  else cvtRnd (fmtOf ty) rm sat rnd (elemVal sty x)

/-- The lanes of vd that a VCVT converts into: all, or those of its part where vd has more elements than va (R135). -/
def cvtLanes (ns nd part : Nat) : BitVec 64 :=
  if ns ≥ nd then BitVec.allOnes 64 else BitVec.ofNat 64 (2 ^ (64 * ns / nd) - 1) <<< (part * (64 * ns / nd))

/-- VCVT (R135); lanes outside its part keep their values, so nothing is on its way to them (R65). -/
def execVcvt (h : Hdr) (f : FmtV) (s : State) : Host.Outcome State Fault Refusal :=
  s.issueWord h 1 (vEarly (.vcvt h f)) noAgain (fun v s =>
    let ty := v.ty f.ty.toNat
    let sty := bits f.ops.toNat 11 8
    let part := bits f.ops.toNat 5 4
    let ns := elemsOf sty
    let nd := elemsOf ty
    let m := Nat.min ns nd
    let a := s.readV v f.va
    .done (v.putV s f.vd (s.active v f &&& cvtLanes ns nd part) (elemLanes ty (fun jd =>
      vconvert sty ty (Rm.ofField f.rm) (f.ops.getLsbD 7)
        (if f.ops.getLsbD 6 then some (srbits v.c.rseed.toNat v.q jd 2) else none)
        (elemOf (fmtOf sty).bits a (if ns ≥ nd then part * m + jd else jd - part * m)))) 4) 4)

/-- VBSCALE (R136). -/
def execVbscale (h : Hdr) (f : FmtV) (s : State) :=
  vecOp (.vbscale h f) h f 4 (fun v s ty =>
    let a := s.readV v f.va
    let b := s.readV v f.vb
    elemLanes ty (fun j =>
      let sc := elemOf 8 b (j / 32)
      let k : Int := if f.ops.getLsbD 7 then 127 - (sc : Int) else (sc : Int) - 127
      vround f ty (if sc == 0xFF then .nan else (elemVal ty (elemOf (fmtOf ty).bits a j)).shift k))) s

/-- An integer element, signed except for UINT8 (R137). -/
def intElem (ty x : Nat) : Int := if ty == 9 then (x % 256 : Nat) else toSigned (fmtOf ty).bits x

/-- VIADD, VISUB and VIMUL: the exact result saturated or wrapped (R137). -/
def intOp (f : FmtV) (g : Int → Int → Int) (ty a b : Nat) : Nat :=
  let x := g (intElem ty a) (intElem ty b)
  wrapInt (fmtOf ty).bits (if f.ops.getLsbD 7 then satInt (fmtOf ty) x else x)

/-- VIADD (R137). -/
def execViadd (h : Hdr) (f : FmtV) (s : State) := vecBin (.viadd h f) h f 3 (intOp f (· + ·)) s
/-- VISUB (R137). -/
def execVisub (h : Hdr) (f : FmtV) (s : State) := vecBin (.visub h f) h f 3 (intOp f (· - ·)) s
/-- VIMUL (R137). -/
def execVimul (h : Hdr) (f : FmtV) (s : State) := vecBin (.vimul h f) h f 4 (intOp f (· * ·)) s

/-- A bitwise instruction on whole lanes (R137). -/
def laneOp (i : Instr) (h : Hdr) (f : FmtV) (g : BitVec 32 → BitVec 32 → BitVec 32) (s : State) :
    Host.Outcome State Fault Refusal :=
  vecOp i h f 2 (fun v s _ => fun k => g ((s.readV v f.va).at' k) ((s.readV v f.vb).at' k)) s

/-- VAND (R137). -/
def execVand (h : Hdr) (f : FmtV) (s : State) := laneOp (.vand h f) h f (· &&& ·) s
/-- VOR (R137). -/
def execVor (h : Hdr) (f : FmtV) (s : State) := laneOp (.vor h f) h f (· ||| ·) s
/-- VXOR (R137). -/
def execVxor (h : Hdr) (f : FmtV) (s : State) := laneOp (.vxor h f) h f (· ^^^ ·) s

/-- The amount of a vector shift (R138). -/
def shiftBy (f : FmtV) (b : Nat) : Nat := if f.ops.getLsbD 7 then f.ops.toNat % 64 else b

/-- VSHL (R138). -/
def execVshl (h : Hdr) (f : FmtV) (s : State) :=
  vecBin (.vshl h f) h f 3 (fun ty a b =>
    let n := shiftBy f b
    if (fmtOf ty).bits ≤ n then 0 else a * 2 ^ n % 2 ^ (fmtOf ty).bits) s

/-- VSHR (R138). -/
def execVshr (h : Hdr) (f : FmtV) (s : State) :=
  vecBin (.vshr h f) h f 3 (fun ty a b =>
    let n := shiftBy f b
    if (fmtOf ty).bits ≤ n then 0 else a / 2 ^ n) s

/-- VSAR (R138). -/
def execVsar (h : Hdr) (f : FmtV) (s : State) :=
  vecBin (.vsar h f) h f 3 (fun ty a b =>
    let w := (fmtOf ty).bits
    wrapInt w (toSigned w a / (2 ^ Nat.min (shiftBy f b) w : Nat))) s

/-- The comparison codes of R139 on an order, with or without a NaN. -/
def compareCode (cc : Nat) (un : Bool) (o : Ordering) : Bool :=
  if un then cc == 1 || cc == 6
  else match cc with
    | 0 => o == .eq
    | 1 => o != .eq
    | 2 => o == .lt
    | 3 => o != .gt
    | 4 => o == .gt
    | 5 => o != .lt
    | _ => false

/-- The comparison of two lanes (R139). -/
def compareLanes (ty cc : Nat) (u : Bool) (a b : Nat) : Bool :=
  if ty == 0 then
    compareCode cc (f32 a == .nan || f32 b == .nan) ((f32 a).cmp (f32 b))
  else if u then compareCode cc false (compare a b)
  else compareCode cc false (compare (toSigned 32 a) (toSigned 32 b))

/-- A 64-bit mask of a property of lanes. -/
def maskOf (g : Nat → Bool) : BitVec 64 :=
  BitVec.ofNat 64 ((List.range 64).foldl (fun a i => a + if g i then 2 ^ i else 0) 0)

/-- VCMP (R139). -/
def execVcmp (h : Hdr) (f : FmtV) (s : State) : Host.Outcome State Fault Refusal :=
  s.issueWord h 1 (vEarly (.vcmp h f)) noAgain (fun v s =>
    let a := s.readV v f.va
    let b := s.readV v f.vb
    .done (v.putP s (f.vd.setWidth 3) (s.active v f) (maskOf (fun i =>
      compareLanes (v.ty f.ty.toNat) (f.ops.toNat % 8) (f.ops.getLsbD 3) (a.at' i).toNat (b.at' i).toNat)) 3) 3)

/-- VSEL (R131). -/
def execVsel (h : Hdr) (f : FmtV) (s : State) :=
  vecOp (.vsel h f) h f 2 (fun v s _ =>
    let p := s.readP v (f.ops.setWidth 3)
    fun i => if p.getLsbD i then (s.readV v f.va).at' i else (s.readV v f.vb).at' i) s

/-- VPERM (R131). -/
def execVperm (h : Hdr) (f : FmtV) (s : State) :=
  vecOp (.vperm h f) h f 2 (fun v s _ => fun i =>
    let x := ((s.readV v f.vb).at' i).toNat
    if x < 64 then (s.readV v f.va).at' x else 0) s

/-- VBCAST (R131). -/
def execVbcast (h : Hdr) (f : FmtV) (s : State) :=
  vecOp (.vbcast h f) h f 2 (fun v s ty =>
    let x := elemOf (fmtOf ty).bits (s.readV v f.va) (f.ops.toNat % 256)
    elemLanes ty (fun _ => x)) s

/-- VSLIDE (R131). -/
def execVslide (h : Hdr) (f : FmtV) (s : State) :=
  vecOp (.vslide h f) h f 2 (fun v s ty =>
    let n := elemsOf ty
    let w := (fmtOf ty).bits
    let sh := f.ops.toNat % 256
    let a := elemOf w (s.readV v f.va)
    let b := elemOf w (s.readV v f.vb)
    elemLanes ty (fun j =>
      if f.ops.getLsbD 8 then (if sh ≤ j then a (j - sh) else b (n - sh + j))
      else if j + sh < n then a (j + sh) else b (j + sh - n))) s

/-- The reduction of floating elements (R140). -/
def redFloat (op : Nat) (rm : Rm) (xs : List FNum) : FNum :=
  match op, xs with
  | 0, [] => .zero false
  | 1, [] => .inf true
  | _, [] => .inf false
  | 0, x :: xs => xs.foldl (FNum.add rm) x
  | 1, x :: xs => xs.foldl FNum.max x
  | _, x :: xs => xs.foldl FNum.min x

/-- The reduction of integer elements (R140). -/
def redInt (op ty : Nat) (xs : List Int) : Int :=
  match op, xs with
  | 0, xs => xs.foldl (· + ·) 0
  | 1, [] => intMin (fmtOf ty)
  | _, [] => intMax (fmtOf ty)
  | 1, x :: xs => xs.foldl max x
  | _, x :: xs => xs.foldl min x

/-- VRED (R140). -/
def execVred (h : Hdr) (f : FmtV) (s : State) : Host.Outcome State Fault Refusal :=
  s.issueWord h 1 (fun v _ => (v.tyCheck (.vred h f)).or (v.ownCheck f.vd)) noAgain (fun v s =>
    let ty := v.ty f.ty.toNat
    let a := s.readV v f.va
    let xs := (activeElems (s.active v f) ty).map (elemOf (fmtOf ty).bits a)
    let op := f.ops.toNat % 4
    .done (v.putS s f.vd (if ty ≤ 2 then
        BitVec.ofNat 64 (cvt (fmtOf ty) (Rm.ofField f.rm) false (redFloat op (Rm.ofField f.rm) (xs.map (elemVal ty))))
      else BitVec.ofInt 64 (redInt op ty (xs.map (intElem ty)))) 10) 10)

/-- Whether candidate a ranks before candidate b, each a lane and its value (R141). -/
def ranksBefore (ty : Nat) (asc : Bool) (a b : Nat × Nat) : Bool :=
  let un := fun x => ty == 0 && f32 x == .nan
  let o := if ty == 0 then (f32 a.2).cmp (f32 b.2) else compare (toSigned 32 a.2) (toSigned 32 b.2)
  if un a.2 then un b.2 && a.1 < b.1
  else if un b.2 then true
  else match o with
    | .eq => a.1 < b.1
    | .lt => asc
    | .gt => !asc

/-- Inserts a candidate at its rank. -/
def insertRank (ty : Nat) (asc : Bool) (x : Nat × Nat) : List (Nat × Nat) → List (Nat × Nat)
  | [] => [x]
  | y :: ys => if ranksBefore ty asc x y then x :: y :: ys else y :: insertRank ty asc x ys

/-- VTOPK (R141): every lane of vd and vc is written; a selected NaN is written canonical (R88). -/
def execVtopk (h : Hdr) (f : FmtV) (s : State) : Host.Outcome State Fault Refusal :=
  s.issueWord h 1 (vEarly (.vtopk h f)) noAgain (fun v s =>
    let ty := v.ty f.ty.toNat
    let a := s.readV v f.va
    let act := s.active v f
    let cand := ((List.range 64).filter (fun i => act.getLsbD i)).map (fun i => (i, (a.at' i).toNat))
    let order := cand.foldl (fun l x => insertRank ty (f.ops.getLsbD 4) x l) []
    let k := f.ops.toNat % 16
    let all := BitVec.allOnes 64
    let none' := if ty == 0 then nanCode .fp32 else 0x80000000
    let s1 := v.putV s f.vd all (fun i =>
      if k ≤ i then 0 else match order[i]? with
        | some x => BitVec.ofNat 32 (if ty == 0 && f32 x.2 == .nan then nanCode .fp32 else x.2)
        | none => BitVec.ofNat 32 none') 16
    .done (v.putV s1 f.vc all (fun i =>
      if k ≤ i then 0 else match order[i]? with
        | some x => BitVec.ofNat 32 x.1
        | none => BitVec.allOnes 32) 16) 16)

/-- VRAND (R142). -/
def execVrand (h : Hdr) (f : FmtV) (s : State) :=
  vecOp (.vrand h f) h f 4 (fun v _ ty => fun i =>
    let x := srbits v.c.rseed.toNat v.q i 2
    BitVec.ofNat 32 (if ty == 11 then x else rneF (.dy false (x / 2 ^ 8) (-24)))) s

end Sys2Proof.Machine
end

