-- ==== Sys2Proof/Machine/Access.lean ====
section
/-! DEFINITION. Loads, stores, descriptors and atomics of the A strand (spec/10, R243-R246; spec/11, R270-R272; spec/09,
R213, R214). -/
namespace Sys2Proof.Machine

/-- What translating an access gives: the unified address of each byte and the state that holds the translations, a
precise trap, or a hold for a fill (R214, R266, R373). -/
inductive Access where
  | ok (addrs : List Nat) (e : Pte) (lvl : Nat) (s : State)
  | trap (t : TrapInfo)
  | hold (f : Fill)

/-- Translates the parts of an access, page by page (R214). A retry after a failed fill faults (R266). -/
def State.accessParts (s : State) (ci : Nat) (bad : Bool) (k : AccessKind) : List (Nat × Nat) → Access
  | [] => .ok [] { raw := 0 } 3 s
  | (va, n) :: rest =>
    match s.core? ci with
    | none => .ok [] { raw := 0 } 3 s
    | some c =>
      match s.xlateCore c k va with
      | .trap t => .trap t
      | .hold f => if bad then .trap (pageFault 6 va) else .hold f
      | .ok e lvl a =>
        match (s.holdTlb ci e lvl va).accessParts ci bad k rest with
        | .ok as _ _ t => .ok (tabulate n (fun i => a + i) ++ as) e lvl t
        | r => r

/-- Translates n bytes from a VA. -/
def State.access (s : State) (v : At) (k : AccessKind) (va n : Nat) : Access :=
  s.accessParts v.ci v.st.fillBad k (splitPages va n)

/-- The address of a format-C access: wrap(s[sa] + sext(OFF), 52), OFF of w bits (R244, R246, R271). -/
def accessVa (f : FmtC) (w : Nat) (v : At) (s : State) : Nat :=
  ((s.readS v f.sa) + BitVec.ofInt 64 (toSigned w (f.ops.toNat % 2 ^ w))).toNat % 2 ^ 52

/-- A VA access of the A strand: it waits while REDs of the core are on their way (log entry 2), then translates. -/
def vaAccess (v : At) (s : State) (k : AccessKind) (va n : Nat) (body : List Nat → Pte → Nat → State → Res) : Res :=
  if s.redsPending v.c then .wait .home s
  else match s.access v k va n with
    | .trap t => .trap t (s.holdFault v.ci t)
    | .hold x => .wait (.fill x.va (k != .load)) (s.holdFill v.ci x)
    | .ok as e lvl t => body as e lvl t

/-- The first poisoned byte of an access traps POISON at the instruction (R403). -/
def State.poisonCheck (s : State) (va : Nat) (as : List Nat) : Option TrapInfo :=
  if as.any s.poisoned then some (poisonTrap 0 va) else none

/-- The type field of LDS and STS (R243). -/
def lsTy (f : FmtC) : Nat := bits f.ops.toNat 14 11

/-- Bytes of an element of LDS and STS (R244). -/
def lsBytes (f : FmtC) : Nat := (fmtOf (lsTy f)).bits / 8

/-- One part of an access: its bytes by index, with the address of each and the value to store. -/
abbrev Part := List (Nat × Nat × BitVec 8)

/-- An LDS or STS that is not naturally aligned is performed as separate byte accesses (R213). -/
def byteParts (va n : Nat) (x : Part) : List Part := if va % n == 0 then [x] else x.map (fun b => [b])

/-- The sixteen 8-byte reads of LDTD (R246). -/
def quadParts (x : Part) : List Part := tabulate 16 (fun i => (x.drop (8 * i)).take 8)

/-- Performs a part: a store writes its bytes, a load reads them. -/
def State.doPart (s : State) (write : Bool) (x : Part) : State :=
  if write then s.store (x.map (fun b => b.2)) else s

/-- Changes the access that the A strand performs in parts. -/
def At.setSplit (v : At) (s : State) (x : Option Split) : State := s.updCore v.ci (fun c => { c with split := x })

/-- The next part of an access in parts, the first one where they are ordered (R246), else in an order that is not specified
(R213): the last one finishes the instruction, a poisoned byte read traps it. -/
def partStep (v : At) (s : State) (write : Bool) (x : Split) (finish : List (BitVec 8) → State → Res) : Res :=
  let k := if x.ordered then 0 else s.free (freeKey 12 0 0) % x.todo.length
  let part := x.todo.getD k []
  let got := x.got ++ part.map (fun b => (b.1, readByte s.mem b.2.1))
  let s1 := s.doPart write part
  if !write && part.any (fun b => s.poisoned b.2.1) then
    .trap (poisonTrap 0 x.va) ((v.setSplit s none).unissue v.ci v.e)
  else if x.todo.length ≤ 1 then
    finish (tabulate got.length (fun i => ((got.find? (fun b => b.1 == i)).map (fun b => b.2)).getD 0)) (v.setSplit s1 none)
  else .hold .midway (v.setSplit s1 (some { x with todo := x.todo.eraseIdx k, got := got }))

/-- An access by VA that may be cut into parts: translated and checked whole before its first part; one part alone is
performed at once (R213, R214). -/
def partAccess (v : At) (s : State) (k : AccessKind) (va n : Nat) (bs : List (BitVec 8)) (ordered : Bool) (cut : Part → List Part)
    (finish : List (BitVec 8) → State → Res) : Res :=
  match (if v.st.busy then v.c.split else none) with
  | some x => partStep v s (k == .store) x finish
  | none => vaAccess v s k va n (fun as _ _ t =>
      match (if k == .load then t.poisonCheck va as else none) with
      | some x => .trap x s
      | none =>
        let all : Part := (as.zip bs).zipIdx.map (fun b => (b.2, b.1))
        match cut all with
        | [_] => finish (as.map (readByte t.mem)) (t.doPart (k == .store) all)
        | parts => .hold .midway (v.setSplit t (some { va := va, ordered := ordered, todo := parts, got := [] })))

/-- LDS from a VA (R243, R244). -/
def execLds (h : Hdr) (f : FmtC) (s : State) : Host.Outcome State Fault Refusal :=
  s.issueWord h 1 (fun v _ => if v.st.busy then none else v.ownCheck f.sd) noAgain (fun v s =>
    let va := accessVa f 11 v s
    partAccess v s .load va (lsBytes f) (List.replicate (lsBytes f) 0) false (byteParts va (lsBytes f)) (fun bs t =>
      .done (v.putS t f.sd (elemScalar (lsTy f) (leNat bs)) 0) 0))

/-- STS to a VA (R243, R244). -/
def execSts (h : Hdr) (f : FmtC) (s : State) : Host.Outcome State Fault Refusal :=
  s.issueWord h 1 noEarly noAgain (fun v s =>
    let va := accessVa f 11 v s
    partAccess v s .store va (lsBytes f) (leBytes (lsBytes f) (s.readS v f.sd).toNat) false (byteParts va (lsBytes f))
      (fun _ t => .done t 0))

/-- The row check of R121 and the type check of R244 for a window element form. -/
def elemBad (v : At) (w : Window) (ty row : Nat) : Option TrapInfo :=
  match v.winTy w false with
  | .error t => some t
  | .ok t => if t != ty then some (illegalOp 7) else if w.rows ≤ row then some (rowFault w row) else none

/-- LDS.w (R243, R244). -/
def execLdsW (h : Hdr) (f : FmtC) (s : State) : Host.Outcome State Fault Refusal :=
  s.issueWord h 1 (fun v _ => v.ownCheck f.sd) noAgain (fun v s =>
    let w := s.readW v f.dr
    let row := (s.readS v f.sa).toNat
    let col := (s.readS v f.sb).toNat
    let t := fmtOf (lsTy f)
    match elemBad v w (lsTy f) row with
    | some x => .trap x s
    | none =>
      if w.cols ≤ col then .done (v.putS s f.sd 0 0) 0
      else match s.checkRead v.c w t row col with
        | some x => .trap x s
        | none => .done (v.putS s f.sd (elemScalar (lsTy f) (s.readElem v.c w t row col)) 0) 0)

/-- STS.w (R243, R244); one annotated .rel waits for the core's REDs on their way (R218). -/
def execStsW (h : Hdr) (f : FmtC) (s : State) : Host.Outcome State Fault Refusal :=
  s.issueWord h 1 noEarly noAgain (fun v s =>
    let w := s.readW v f.dr
    let row := (s.readS v f.sa).toNat
    let col := (s.readS v f.sb).toNat
    let t := fmtOf (lsTy f)
    match elemBad v w (lsTy f) row with
    | some x => .trap x s
    | none =>
      if w.cols ≤ col then .done s 0
      else match s.checkWrite v.c w t row col with
        | some x => .trap x s
        | none =>
          if f.ord == 2 && s.redsPending v.c then .wait .home s
          else .done (vstores s v.c w (lsTy f) [(row, col, (s.readS v f.sd).toNat % 2 ^ t.bits)]) 0)

/-- Word i of a tensor descriptor (R245). -/
def descWord (d i : Nat) : Nat := bits d (64 * i + 63) (64 * i)

/-- Dimensions of a descriptor (R245). -/
def descDims (d : Nat) : Nat := bits (descWord d 1) 10 8
/-- Type of a descriptor (R245). -/
def descTy (d : Nat) : Nat := bits (descWord d 1) 3 0
/-- Extent of a dimension (R245). -/
def descExt (d i : Nat) : Nat := bits (descWord d (2 + i)) 31 0
/-- Stride of a dimension above 0 (R245). -/
def descStr (d i : Nat) : Nat := bits (descWord d (7 + i)) 47 0

/-- Whether a descriptor obeys the rules of its rows (R245, R246). -/
def descOk (d : Nat) : Bool :=
  let n := descDims d
  rsv (descWord d 0) 63 52 && rsv (descWord d 1) 31 11 && rsv (descWord d 1) 7 4 && 1 ≤ n && n ≤ 5
    && [0, 1, 2, 3, 4, 6, 8, 9, 10, 11].contains (descTy d)
    && (List.range 5).all (fun i => rsv (descWord d (2 + i)) 63 32 && (if i < n then descExt d i != 0 else descExt d i == 0))
    && descWord d 7 == 0
    && [1, 2, 3, 4].all (fun i => rsv (descWord d (7 + i)) 63 48 && (i < n || descStr d i == 0))
    && [12, 13, 14, 15].all (fun i => descWord d i == 0)

/-- LDTD (R245, R246). -/
def execLdtd (h : Hdr) (f : FmtC) (s : State) : Host.Outcome State Fault Refusal :=
  s.issueWord h 1 noEarly noAgain (fun v s =>
    let va := accessVa f 11 v s
    if va % 8 != 0 then .trap (alignFault va) s
    else partAccess v s .load va 128 (List.replicate 128 0) true quadParts (fun bs t =>
      let d := leNat bs
      if !descOk d then .trap (illegalOp 0) (if v.st.busy then t.unissue v.ci v.e else s)
      else .done (t.updCore v.ci (fun c => { c with d := c.d.write f.dr (BitVec.ofNat 1024 d) })) 0))

/-- Bytes that an atomic of a type works on (R271). -/
def atomBytes (ty : Nat) : Nat := if ty == 12 then 8 else 4

/-- AOP of ATOM and RED (R270). -/
def aopOf (f : FmtC) : Nat := bits f.ops.toNat 15 12
/-- TY of ATOM and RED (R270). -/
def aopTy (f : FmtC) : Nat := bits f.ops.toNat 11 8

/-- The request of an atomic whose address has been translated (R269, R271). -/
def homeReq (v : At) (s : State) (kind : HomeKind) (f : FmtC) (va a : Nat) (e : Pte) (lvl aop ty val cmp : Nat) (sent : Bool) :
    HomeReq :=
  { kind := kind, cores := [v.c.key], via := [((s.ctx v.c).asid, va)], die := s.die v.c, port := s.phys v.c,
    rel := f.ord == 2, so := e.ord == 1, home := e.home, lock := e.hlock, big := lvl == 1, va := va,
    addr := a, aop := aop, ty := ty, val := val, cmp := cmp, sent := sent, since := s.clk }

/-- An atomic that returns a value: it goes to its home and holds the strand (R271). -/
def atomBody (f : FmtC) (kind : HomeKind) (aop ty cmp : Nat) (v : At) (s : State) : Res :=
  let va := accessVa f 8 v s
  let z := atomBytes ty
  if va % z != 0 then .trap (alignFault va) s
  else vaAccess v s .atomic va z (fun as e lvl t =>
    .hold .home { t with reqs := t.reqs ++
      [homeReq v t kind f va (as.headD 0) e lvl aop ty ((s.readS v f.sb).toNat % 2 ^ (8 * z)) cmp true] })

/-- ATOM (R270, R271). -/
def execAtom (h : Hdr) (f : FmtC) (s : State) : Host.Outcome State Fault Refusal :=
  s.issueWord h 1 (fun v _ => v.ownCheck f.sd) noAgain
    (atomBody f .atom (aopOf f) (aopTy f) 0)

/-- CAS (R270, R271). -/
def execCas (h : Hdr) (f : FmtC) (s : State) : Host.Outcome State Fault Refusal :=
  s.issueWord h 1 (fun v _ => v.ownCheck f.sd) noAgain (fun v s =>
    let ty := if f.ops.getLsbD 8 then 12 else 11
    atomBody f .cas 8 ty ((s.readS v (f.ops.extractLsb' 11 5)).toNat % 2 ^ (8 * atomBytes ty)) v s)

/-- new(old, v) of R271 on z-byte values. -/
def aopApply (aop ty old x : Nat) : Nat :=
  let w := 8 * atomBytes ty
  if ty == 0 then
    match aop with
    | 0 => rneF (FNum.add .rne (f32 old) (f32 x))
    | 4 => rneF ((f32 old).min (f32 x))
    | 5 => rneF ((f32 old).max (f32 x))
    | _ => x
  else
    match aop with
    | 0 => (old + x) % 2 ^ w
    | 1 => old &&& x
    | 2 => old ||| x
    | 3 => old ^^^ x
    | 4 => if toSigned w x < toSigned w old then x else old
    | 5 => if toSigned w old < toSigned w x then x else old
    | 6 => Nat.min old x
    | 7 => Nat.max old x
    | _ => x

/-- Whether a RED may merge with others: no annotation and a page that is not SO (R232). -/
def redMerges (f : FmtC) (e : Pte) : Bool := f.ord == 0 && e.ord != 1

/-- Bytes of a request's location (R271). -/
def HomeReq.covers (r : HomeReq) (q : HomeReq) : Bool :=
  decide (r.addr < q.addr + atomBytes q.ty) && decide (q.addr < r.addr + atomBytes r.ty)

/-- Whether two requests come from one core. -/
def HomeReq.shares (r q : HomeReq) : Bool := r.cores.any (fun k => q.cores.contains k)

/-- Whether a request must be performed after an earlier one of its core (R218, R223): both have a common location, it
carries .rel, or both have SO pages. -/
def HomeReq.follows (r q : HomeReq) : Bool := r.shares q && (r.covers q || r.rel || (r.so && q.so))

/-- Whether two requests stand for REDs that a router may merge: same address, operation and type, both still in merge
buffers (R232). -/
def HomeReq.alike (r q : HomeReq) : Bool := q.kind == .red && !q.sent && q.addr == r.addr && q.aop == r.aop && q.ty == r.ty

/-- Whether request r may be moved to place i of the queue from place j without passing one that it must follow, or that
must follow it. -/
def mayMove (l : List HomeReq) (r : HomeReq) (i j : Nat) : Bool :=
  !((l.take (Nat.max i j)).drop (Nat.min i j + 1)).any (fun q => r.follows q || q.follows r)

/-- The places of the entries that a RED at place j may join (R232). -/
def mergeable (l : List HomeReq) (r : HomeReq) (j : Nat) : List Nat :=
  (List.range l.length).filter (fun i => i != j && (match l[i]? with
    | some q => r.alike q && mayMove l r i j
    | none => false))

/-- An entry takes a merged operand (R232): it stands for both REDs. -/
def HomeReq.join (q r : HomeReq) : HomeReq :=
  { q with val := aopApply q.aop q.ty q.val r.val, cores := q.cores ++ r.cores, via := q.via ++ r.via }

/-- Entries of a merge buffer: each cluster's port has one of 16 (R273, log entry 56). -/
def State.buffered (s : State) (port : Nat) : Nat := (s.reqs.filter (fun q => !q.sent && q.port == port)).length

/-- What a RED finds at its port (R232, R273): it joins one of the entries where it may, takes an entry of its own, or,
where the buffer is full and it joins none, it waits; a free value says which of what is possible. -/
def State.addRed (s : State) (r : HomeReq) (merges : Bool) : Option State :=
  if !merges then some { s with reqs := s.reqs ++ [{ r with sent := true }] }
  else
    let at' := (mergeable s.reqs r s.reqs.length).map some ++ (if s.buffered r.port < 16 then [none] else [])
    match at'[s.free (freeKey 10 0 0) % at'.length]? with
    | none => none
    | some (some i) => some { s with reqs := modifyAt s.reqs i (fun q => q.join r) }
    | some none => some { s with reqs := s.reqs ++ [{ r with sent := false }] }

/-- RED (R270-R273): it retires once the request port has accepted it. -/
def execRed (h : Hdr) (f : FmtC) (s : State) : Host.Outcome State Fault Refusal :=
  s.issueWord h 1 noEarly noAgain (fun v s =>
    let va := accessVa f 8 v s
    let z := atomBytes (aopTy f)
    if va % z != 0 then .trap (alignFault va) s
    else match s.access v .atomic va z with
      | .trap t => .trap t (s.holdFault v.ci t)
      | .hold x => .wait (.fill x.va true) (s.holdFill v.ci x)
      | .ok as e lvl t =>
        match t.addRed (homeReq v t .red f va (as.headD 0) e lvl (aopOf f) (aopTy f)
          ((s.readS v f.sb).toNat % 2 ^ (8 * z)) 0 true) (redMerges f e) with
        | some u => .done u 0
        | none => .wait .home s)

end Sys2Proof.Machine
end

