-- ==== Sys2Proof/Machine/Matrix.lean ====
section
/-! DEFINITION. The matrix instructions and accumulators (spec/06, R146-R165). -/
namespace Sys2Proof.Machine

/-- Element (i, j) of an accumulator as its bits (R146). -/
def Acc.el (a : Acc) (i j : Nat) : Nat := (a.elems.at' (64 * i + j)).toNat

/-- An accumulator from its elements (R146). -/
def Acc.of (tag : Bool) (f : Nat → Nat → Nat) : Acc :=
  { elems := RegFile.tab 12 (fun n => BitVec.ofNat 32 (f (n / 64) (n % 64))), tag := tag, psn := false }

/-- Writes an accumulator. -/
def Core.setAcc (c : Core) (i : BitVec 2) (a : Acc) : Core := { c with acc := c.acc.write i a }

/-- The M-strand number completes (R148). -/
def Core.endM (c : Core) : Core := c.doneNum 3 (c.tls.at' 3).iss.toNat

/-- The M strand takes its number (R148). -/
def Core.beginM (c : Core) : Core := (c.takeNum 3).2

/-- Whether an MMUL is suspended or in progress (R162). -/
def Core.mmulOpen (c : Core) : Bool := c.mprog.getLsbD 63

/-- Whether a MITER is suspended or in progress (R170). -/
def Core.miterOpen (c : Core) : Bool := c.its.getLsbD 63

/-- Abandons a suspended MMUL: its number completes, its pushes are never made (R162). -/
def Core.dropMmul (c : Core) : Core :=
  if c.mmulOpen then { c.endM with mprog := 0, mmul := none, work := none, mbeats := [], mread := [] } else c

/-- Abandons a suspended MITER (R180). -/
def Core.dropMiter (c : Core) : Core :=
  if c.miterOpen then { c.endM with its := c.its &&& ~~~(1#64 <<< 63) } else c

/-- What another M instruction that reaches issue does to suspended ones (R162, R180). -/
def Core.abandon (c : Core) : Core := c.dropMmul.dropMiter

/-- The first accumulator of a list that is poisoned (R147). -/
def Core.accPoison (c : Core) (l : List (BitVec 2)) : Option TrapInfo :=
  if l.any (fun i => (c.acc.read i).psn) then some (poisonTrap 1 0) else none

/-- The early check of an M instruction (R44, R111), made once, as it issues. -/
def mEarly (i : Instr) (v : At) (_ : State) : Option TrapInfo := if v.st.busy then none else v.tyCheck i

/-- An M instruction that runs whole in one step: a trap without effect, or its effect with its number taken and done
(R148, R149, R418). -/
def mOnce (i : Instr) (h : Hdr) (f : At → State → Except TrapInfo State) (s : State) :
    Host.Outcome State Fault Refusal :=
  s.issueWord h 1 (mEarly i) noAgain (fun v s =>
    match f v s with
    | .error t => .trap t s
    | .ok t => .done (t.updCore v.ci (fun c => c.abandon.beginM.endM)) 0)

/-- An M instruction whose only effect is on registers of its core. -/
def mCore (i : Instr) (h : Hdr) (f : At → State → Except TrapInfo (Core → Core)) (s : State) :
    Host.Outcome State Fault Refusal :=
  mOnce i h (fun v s =>
    match f v s with
    | .error t => .error t
    | .ok g => .ok (s.updCore v.ci g)) s

/-- MZERO (R154). -/
def execMzero (h : Hdr) (f : FmtM) (s : State) :=
  mCore (.mzero h f) h (fun _ _ => .ok (fun c => c.setAcc f.acd (Acc.of (f.ty == 11) (fun _ _ => 0)))) s

/-- The low four bits of OPS, a coefficient or window register (R153). -/
def opsReg (f : FmtM) : BitVec 4 := f.ops.extractLsb' 0 4

/-- D(c): the bits of c on the diagonal, +0 elsewhere (R154, R173). -/
def diag (x : Nat) (i j : Nat) : Nat := if i == j then x else 0

/-- MIDENT (R154). -/
def execMident (h : Hdr) (f : FmtM) (s : State) :=
  mCore (.mident h f) h (fun v _ =>
    .ok (fun c => c.setAcc f.acd (Acc.of false (diag (v.c.k.read (opsReg f)).toNat)))) s

/-- The checks of a matrix operand window: rows, type, and for a load or store columns (R150). -/
def matWindow (v : At) (w : Window) (ty : Nat) (cols sm : Bool) : Option TrapInfo :=
  match v.winTy w sm with
  | .error t => some t
  | .ok t =>
    if t != ty then some (illegalOp 7)
    else if 64 < w.rows || (cols && 64 < w.cols) then some (windowFault w.base.toNat) else none

/-- The (row, column) pairs of a block of a window. -/
def pairs (rows cols : Nat) : List (Nat × Nat) := (List.range rows).flatMap (fun i => (List.range cols).map (fun j => (i, j)))

/-- MLDACC (R155). -/
def execMldacc (h : Hdr) (f : FmtM) (s : State) :=
  mCore (.mldacc h f) h (fun v s =>
    let w := s.readW v f.wa
    let ty := v.ty f.ty.toNat
    match (matWindow v w ty true false).or (firstTrap (pairs w.rows w.cols) (fun p => s.checkRead v.c w (fmtOf ty) p.1 p.2)) with
    | some t => .error t
    | none => .ok (fun c => c.setAcc f.acd (Acc.of (8 ≤ ty) (fun i j =>
        if i < w.rows && j < w.cols then
          let x := s.readElem v.c w (fmtOf ty) i j
          if 8 ≤ ty then wrapInt 32 (intElem ty x) else rneF (elemVal ty x)
        else 0)))) s

/-- The value of an accumulator element under its tag (R146, R156). -/
def accVal (a : Acc) (i j : Nat) : FNum :=
  if a.tag then .ofInt (toSigned 32 (a.el i j)) else f32 (a.el i j)

/-- The element of MSTACC's destination: under a chosen block scale, plain, or stochastic (R102-R107, R156). -/
def storeCode (t : Fmt) (rm : Rm) (sat : Bool) (scale : Option Nat) (rnd : Option Nat) (x : FNum) : Nat :=
  match scale with
  | none => cvtRnd t rm sat rnd x
  | some b => if b == 0xFF then 0 else cvtRnd t rm sat rnd (x.shift (127 - (b : Int)))

/-- The block scales of a row's stored elements (R105, R156). -/
def rowScale (t : Fmt) (a : Acc) (i b cols : Nat) : Nat :=
  chooseScale t (((List.range 32).filter (fun j => 32 * b + j < cols)).map (fun j => accVal a i (32 * b + j)))

/-- The bytes of a block of a window's elements, with what they hold now. -/
def State.blockCells (s : State) (c : Core) (w : Window) (t : Fmt) : List Host.Cell :=
  (pairs w.rows w.cols).flatMap (fun p => match s.elemAddrs c w t p.1 p.2 with
    | .ok as => as.map (fun a => (a, readByte s.mem a))
    | .error _ => [])

/-- A packed store rewrites whole bytes from what it took of them before (R213): those of a block are put back first, so
that a write by another party in between is lost. -/
def State.putBack (s : State) (c : Core) (w : Window) (t : Fmt) : State :=
  let now := s.blockCells c w t
  s.setMem ((c.taken.getD []).filter (fun x => now.any (fun y => y.1 == x.1)))

/-- MSTACC (R156). One of MXFP4 or T6 takes the bytes that it rewrites in a step before the one that stores (R213, log
entry 57). -/
def execMstacc (h : Hdr) (f : FmtM) (s : State) : Host.Outcome State Fault Refusal :=
  s.issueWord h 1 (mEarly (.mstacc h f)) noAgain (fun v s =>
    let w := s.readW v f.wa
    let ty := v.ty f.ty.toNat
    let t := fmtOf ty
    let blk := ty == 5 || ty == 7
    let ws := s.readW v (opsReg f)
    let nb := ceilDiv w.cols 32
    let a := v.c.acc.read f.acs
    let rnd := fun (i j : Nat) =>
      if f.flg.getLsbD 2 then some (srbits v.c.rseed.toNat v.q (64 * i + j) 1) else none
    let scaleBad := if !blk then none
      else match v.winTy ws true with
        | .error e => some e
        | .ok x =>
          if x != 9 then some (illegalOp 7)
          else if ws.rows < w.rows || ws.cols < nb then some (windowFault ws.base.toNat)
          else firstTrap (pairs w.rows nb) (fun p => s.checkWrite v.c ws .uint8 p.1 p.2)
    match (matWindow v w ty true true).or ((v.c.accPoison [f.acs]).or
        ((firstTrap (pairs w.rows w.cols) (fun p => s.checkWrite v.c w t p.1 p.2)).or scaleBad)) with
    | some e => .trap e s
    | none =>
      if blk && v.c.taken.isNone then
        .wait .midway (s.updCore v.ci (fun c => { c with taken := some (s.blockCells v.c w t) }))
      else
        let s0 := if blk then s.putBack v.c w t else s
        let s1 := vstores s0 v.c w ty ((pairs w.rows w.cols).map (fun p => (p.1, p.2,
          storeCode t (Rm.ofField f.rm) (f.flg.getLsbD 3) (if blk then some (rowScale t a p.1 (p.2 / 32) w.cols) else none)
            (rnd p.1 p.2) (accVal a p.1 p.2))))
        let s2 := if blk then vstores s1 v.c ws 9 ((pairs w.rows nb).map (fun p => (p.1, p.2, rowScale t a p.1 p.2 w.cols)))
          else s1
        .done (s2.updCore v.ci (fun c => { c.abandon.beginM.endM with taken := none })) 0)

/-- Reads MMUL's operands' descriptions (R157, R159, R160). -/
def mmulOf (f : FmtM) (v : At) (s : State) : Mmul :=
  let o := f.ops.toNat
  let ty := v.ty f.ty.toNat
  let sm := match v.resolve f.ty.toNat true with
    | some (_, some m) => m
    | _ => bits f.flg.toNat 2 1
  let asrc := bits o 19 18
  let bsrc := bits o 17 16
  let sc := bits o 15 12
  let wa := s.readW v f.wa
  let wb := s.readW v f.wb
  { ty := ty, sm := sm, asrc := asrc, bsrc := bsrc, passes := if asrc == 2 || bsrc == 2 then 3 else 1,
    g := if ty == 1 || ty == 2 then 16 else 32, m := if asrc == 0 then wa.rows else 64,
    n := if bsrc == 0 then wb.rows else 64, k := bits o 11 0 + 1, wa := wa, wb := wb,
    sa := s.readW v (BitVec.ofNat 4 sc), sb := s.readW v (BitVec.ofNat 4 (sc + 1)),
    ka := (v.c.k.at' sc).toNat, kb := (v.c.k.at' (sc + 1)).toNat, held := v.c.acc.read f.acs }

/-- Whether an operand comes from an accumulator (R157). -/
def Mmul.acc (x : Mmul) : Bool := x.asrc == 1 || x.asrc == 2 || x.bsrc == 1 || x.bsrc == 2

/-- Elements of a beat's lane for the type (R161). -/
def Mmul.lane (x : Mmul) : Nat := if x.ty == 1 || x.ty == 2 then 2 else if x.ty == 5 then 8 else 4

/-- The R121 checks of one operand window over groups from column k0 to k1 (R121, R151). -/
def operandChecks (s : State) (c : Core) (w : Window) (ty rows k0 k1 : Nat) : Option TrapInfo :=
  firstTrap ((pairs rows (k1 - k0)).filter (fun p => k0 + p.2 < w.cols)) (fun p => s.checkRead c w (fmtOf ty) p.1 (k0 + p.2))

/-- The R121 checks of one scale window (R159). -/
def scaleChecks (s : State) (v : At) (w : Window) (rows k0 k1 : Nat) : Option TrapInfo :=
  if w.rows < rows then some (windowFault (w.base.toNat + w.rows * w.stride.toNat))
  else firstTrap ((pairs rows (ceilDiv k1 32 - k0 / 32)).filter (fun p => k0 / 32 + p.2 < w.cols))
    (fun p => s.checkRead v.c w .uint8 p.1 (k0 / 32 + p.2))

/-- The checks over the rows that columns k0 to k1 read (R121, R159, R163). -/
def Mmul.rowsBad (x : Mmul) (s : State) (v : At) (k0 k1 : Nat) : Option TrapInfo :=
  ((if x.asrc == 0 then operandChecks s v.c x.wa x.ty x.m k0 k1 else none).or
    (if x.bsrc == 0 then operandChecks s v.c x.wb x.ty x.n k0 k1 else none)).or
  (if x.sm == 2 then (scaleChecks s v x.sa x.m k0 k1).or (scaleChecks s v x.sb x.n k0 k1) else none)

/-- Whether the word continues the MMUL that mprog records (R160, R162). -/
def mmulAgain (f : FmtM) (v : At) : Bool :=
  v.c.mmulOpen && bits v.c.mprog.toNat 31 30 == f.acd.toNat

/-- Whether the MMUL adds into a working copy of its destination (R162). -/
def Mmul.copies (x : Mmul) (f : FmtM) : Bool := x.acc && f.acs == f.acd

/-- Whether a window has the type that a scale window needs (R150). -/
def scaleTy (v : At) (w : Window) : Option TrapInfo :=
  match v.winTy w true with
  | .error t => some t
  | .ok t => if t == 9 then none else some (illegalOp 7)

/-- The checks at an issue of MMUL, a resuming one included (R147, R150, R157, R159, R161, R162). -/
def Mmul.issueBad (x : Mmul) (f : FmtM) (v : At) (s : State) : Option TrapInfo :=
  let again := mmulAgain f v
  let mp := v.c.mprog.toNat
  let kd := bits mp 12 0
  let d := v.c.acc.read f.acd
  let z := f.flg.getLsbD 3
  if (x.acc && (v.c.acc.read f.acs).tag) || ((again || !z) && !x.copies f && d.tag != (x.ty == 8 || x.ty == 9)) then
    some (illegalOp 0)
  else if again && (x.passes ≤ bits mp 33 32 || x.k < kd || (kd % x.g != 0 && kd != x.k)) then some (illegalOp 0)
  else ((if x.asrc == 0 then matWindow v x.wa x.ty false true else none).or
    ((if x.bsrc == 0 then matWindow v x.wb x.ty false true else none).or
    ((if x.sm == 2 then (scaleTy v x.sa).or (scaleTy v x.sb) else none).or
    ((if x.acc && !(again && f.acs == f.acd && bitAt mp 62) then v.c.accPoison [f.acs] else none).or
    ((if (if again then !bitAt mp 62 else !z) && !(x.copies f) then v.c.accPoison [f.acd] else none).or
    (x.rowsBad s v 0 x.k))))))

/-- h and l of an accumulator element (R158). -/
def splitX3 (e : Nat) : FNum × FNum :=
  match f32 e with
  | .nan => (.nan, .nan)
  | .inf n => (.inf n, .inf (!n))
  | .fin x =>
    match decodeNum .bf16 (cvt .bf16 .rne false (.fin x)) with
    | .inf n => (.inf n, .inf (!n))
    | hn => (hn, decodeNum .bf16 (cvt .bf16 .rne false (FNum.add .rne (.fin x) hn.negate)))

/-- The part of an operand element that a pass uses: h, or l (R158). -/
def partOf (pass : Nat) (isA x3 : Bool) (h l : FNum) : FNum :=
  if pass == 0 then h
  else if isA then (if pass == 1 then h else if x3 then l else .zero false)
  else (if pass == 1 then (if x3 then l else .zero false) else h)

/-- An accumulator element as an operand: its part (R157, R158). -/
def accPart (src pass : Nat) (isA : Bool) (e : Nat) : FNum :=
  if src == 2 then partOf pass isA true (splitX3 e).1 (splitX3 e).2
  else partOf pass isA false (decodeNum .bf16 (cvt .bf16 .rne false (f32 e))) (.zero false)

/-- A block scale of an operand (R159). -/
def blockScale (s : State) (c : Core) (w : Window) (i k : Nat) : FNum :=
  if w.cols ≤ k / 32 then .one else e8m0 (s.readElem c w .uint8 i (k / 32))

/-- The code of an element of a window operand: each is read once, so a pass after the first takes what was read then
(R152). -/
def Mmul.winCode (x : Mmul) (s : State) (c : Core) (isA : Bool) (i k : Nat) : Nat :=
  match c.mread.find? (fun p => p.1 == 64 * i + k) with
  | some p => p.2
  | none => s.readElem c (if isA then x.wa else x.wb) (fmtOf x.ty) i k

/-- An element of a window operand, with its scale (R151, R159). -/
def Mmul.winVal (x : Mmul) (s : State) (c : Core) (isA : Bool) (i k : Nat) : FNum :=
  let w := if isA then x.wa else x.wb
  let e := if k < w.cols then elemVal x.ty (x.winCode s c isA i k) else .zero false
  if x.sm == 1 then e.mul (f32 (if isA then x.ka else x.kb))
  else if x.sm == 2 then e.mul (blockScale s c (if isA then x.sa else x.sb) i k)
  else e

/-- An element of a streamed B operand: lane j of its beat, with its scale (R159, R161). -/
def Mmul.beatVal (x : Mmul) (s : State) (c : Core) (bs : List Beat) (t0 j k : Nat) : FNum :=
  let b := bs.getD (k / x.lane - t0) Beat.zero
  let w := 32 / x.lane
  let e := elemVal x.ty (bits (b.lanes.at' j).toNat (w * (k % x.lane) + w - 1) (w * (k % x.lane)))
  if x.sm == 1 then e.mul (f32 x.kb) else if x.sm == 2 then e.mul (blockScale s c x.sb j k) else e

/-- The columns of a group (R160). -/
def Mmul.cols (x : Mmul) (g : Nat) : List Nat := (List.range x.g).filterMap (fun k => if g * x.g + k < x.k then some (g * x.g + k) else none)

/-- Row i of the A operand over a group. -/
def Mmul.rowA (x : Mmul) (s : State) (c : Core) (src : Acc) (pass g i : Nat) : List FNum :=
  (x.cols g).map (fun k =>
    if x.asrc == 0 then partOf pass true false (x.winVal s c true i k) (.zero false) else accPart x.asrc pass true (src.el i k))

/-- Column j of the B operand over a group; beats bs start at beat t0. -/
def Mmul.rowB (x : Mmul) (s : State) (c : Core) (src : Acc) (bs : List Beat) (t0 pass g j : Nat) : List FNum :=
  (x.cols g).map (fun k =>
    if x.bsrc == 0 then partOf pass false false (x.winVal s c false j k) (.zero false)
    else if x.bsrc == 3 then partOf pass false false (x.beatVal s c bs t0 j k) (.zero false)
    else accPart x.bsrc pass false (src.el j k))

/-- The exact sum of exact products, with the NaN, infinity and zero rules of R160. -/
def dot (a b : List FNum) : FNum :=
  match (List.zip a b).map (fun p => p.1.mul p.2) with
  | [] => .zero false
  | x :: xs => xs.foldl (fun t y => FNum.add .rne t y) x

/-- The integer value of an exact number. -/
def FNum.toInt (x : FNum) : Int :=
  match x with
  | .fin e => if 0 ≤ e.e then e.atExp 0 else 0
  | _ => 0

/-- One group added into an accumulator (R160). -/
def addGroup (x : Mmul) (t : Acc) (as bs : List (List FNum)) : Acc :=
  { t with elems := RegFile.tab 12 (fun n =>
      let i := n / 64
      let j := n % 64
      if i < x.m && j < x.n then
        let d := dot (as.getD i []) (bs.getD j [])
        if t.tag then BitVec.ofInt 32 (toSigned 32 (t.el i j) + d.toInt)
        else BitVec.ofNat 32 (rneF (FNum.add .rne (f32 (t.el i j)) d))
      else t.elems.at' n) }

/-- What the port MB gives for a number of beats: the beats and the state after taking them, or none yet (R161, R336). -/
def takeBeats (s : State) (ci : Nat) (kind : Nat) : Nat → Option (List Beat × State)
  | 0 => some ([], s)
  | n + 1 =>
    match s.core? ci with
    | none => none
    | some c =>
      match s.portIn c kind with
      | .empty => none
      | .zeros =>
        match takeBeats s ci kind n with
        | some (bs, t) => some (Beat.zero :: bs, t)
        | none => none
      | .beat b i rt d =>
        match takeBeats (s.takePort i rt d) ci kind n with
        | some (bs, t) => some (b :: bs, t)
        | none => none

/-- mprog of an MMUL in progress (R162). -/
def mprogOf (psn : Bool) (pass : Nat) (acc : BitVec 2) (kdone : Nat) : Word :=
  BitVec.ofNat 64 (2 ^ 63 + (if psn then 2 ^ 62 else 0) + pass * 2 ^ 32 + acc.toNat * 2 ^ 30 + kdone)

/-- How a run of groups ends: all done, out of budget, waiting for a beat, or stopped by poison (R161, R163). -/
inductive MmulEnd where
  | done (s : State)
  | more (s : State)
  | beats (s : State)
  | poison (src : Nat) (s : State)

/-- What the port MB gives for a group: all of its beats, not all of them yet, or a poisoned one (R161, R163). -/
inductive GroupBeats where
  | ready (bs : List Beat) (s : State)
  | waits (s : State)
  | poison (s : State)

/-- Takes beats at MB one at a time until `want` are kept (R161, R322); a poisoned one is left at the port (log entry 75); the
fuel bounds the beats taken. -/
def fillBeats (ci want : Nat) : Nat → State → GroupBeats
  | 0, s => .ready [] s
  | fuel + 1, s =>
    match s.core? ci with
    | none => .waits s
    | some c =>
      if want ≤ c.mbeats.length then .ready c.mbeats s
      else match takeBeats s ci 1 1 with
        | none => .waits s
        | some (bs, t) =>
          if bs.any (fun b => b.psn) then .poison s
          else fillBeats ci want fuel (t.updCore ci (fun c => { c with mbeats := c.mbeats ++ bs }))

/-- The beats of a group. An MMUL keeps those of the group in hand, and one that adds from an accumulator too keeps all that it
has taken, for its passes and for a new start (R161, R162; log entry 75). -/
def Mmul.groupBeats (x : Mmul) (s : State) (ci : Nat) (g : Nat) : GroupBeats :=
  if x.bsrc != 3 then .ready [] s
  else
    let t0 := if x.acc then g * x.g / x.lane else 0
    let n := ceilDiv ((x.cols g).length) x.lane
    match fillBeats ci (t0 + n) (t0 + n + 1) s with
    | .ready bs t => .ready ((bs.drop t0).take n) t
    | r => r

/-- What an MMUL of several passes keeps of the window elements of a group that it reads (R152). -/
def Mmul.noteRead (x : Mmul) (s : State) (c : Core) (g : Nat) : List (Nat × Nat) :=
  if x.passes == 1 || (x.asrc != 0 && x.bsrc != 0) then []
  else
    let w := if x.asrc == 0 then x.wa else x.wb
    (List.range (if x.asrc == 0 then x.m else x.n)).flatMap (fun i =>
      ((x.cols g).filter (fun k => decide (k < w.cols))).map (fun k => (64 * i + k, x.winCode s c (x.asrc == 0) i k)))

/-- Runs groups from the place that mprog records (R160, R163); fuel counts the groups of this step. A group that a former pass
has read since the issue or the resumption is neither read nor checked again (R152). -/
def mmulRun (x : Mmul) (f : FmtM) (v : At) : Nat → State → MmulEnd
  | 0, s => .more s
  | fuel + 1, s =>
    match s.core? v.ci with
    | none => .done s
    | some c =>
      let mp := c.mprog.toNat
      let pass := bits mp 33 32
      let kd := bits mp 12 0
      if x.k ≤ kd then
        if pass + 1 < x.passes then
          mmulRun x f v fuel (s.updCore v.ci (fun c => { c with mprog := mprogOf (bitAt mp 62) (pass + 1) f.acd 0 }))
        else .done s
      else
        let g := kd / x.g
        let k1 := Nat.min x.k (g * x.g + x.g)
        let known := pass != 0 && c.mread.any (fun p => p.1 == kd)
        match (if known then none else x.rowsBad s { v with c := c } kd k1) with
        | some _ => .poison 0 s
        | none =>
          match x.groupBeats s v.ci g with
          | .waits t => .beats t
          | .poison t => .poison 2 t
          | .ready bs s1 =>
            let as := tabulate x.m (fun i => x.rowA s c x.held pass g i)
            let bss := tabulate x.n (fun j => x.rowB s c x.held bs (g * x.g / x.lane) pass g j)
            mmulRun x f v fuel (s1.updCore v.ci (fun c =>
              let c := { c with
                mprog := mprogOf (bitAt mp 62) pass f.acd k1
                mbeats := if x.acc then c.mbeats else []
                mread := if known then c.mread else c.mread ++ x.noteRead s c g }
              match c.work with
              | some t => { c with work := some (addGroup x t as bss) }
              | none => c.setAcc f.acd (addGroup x (c.acc.read f.acd) as bss)))

/-- The start of an MMUL: a new issue takes its number and clears the destination under Z, a resuming one clears the
PSN it set, which mprog keeps until the MMUL retires; either makes the working copy if one is needed (R160, R162). What was read of
windows before a freeze is read again by the groups and passes that remain (R152; log entry 24). -/
def Mmul.start (x : Mmul) (f : FmtM) (v : At) (c : Core) : Core :=
  let z := f.flg.getLsbD 3
  let zero := Acc.of (x.ty == 8 || x.ty == 9) (fun _ _ => 0)
  let mp := c.mprog.toNat
  let c1 :=
    if mmulAgain f v then
      (if bitAt mp 62 then c.setAcc f.acd { c.acc.read f.acd with psn := false } else c).dropMiter
    else
      let c0 := c.abandon.beginM
      { (if z && !x.copies f then c0.setAcc f.acd zero else c0) with mprog := mprogOf false 0 f.acd 0, mbeats := [] }
  { c1 with mmul := some x, mread := [], work := if x.copies f then some (if z then zero else c1.acc.read f.acd) else none }

/-- Retirement of an MMUL: the working copy becomes the accumulator, mprog is zero and the number completes (R160,
R162). -/
def mmulEnd (f : FmtM) (c : Core) : Core :=
  let c1 := match c.work with
    | some t => c.setAcc f.acd { t with psn := false }
    | none => c
  { c1.endM with mprog := 0, mmul := none, work := none, mbeats := [], mread := [] }

/-- The state of an MMUL stopped by uncorrectable data (R163). -/
def mmulPoison (f : FmtM) (c : Core) : Core :=
  let d := c.acc.read f.acd
  let mp := c.mprog.toNat
  let c1 := c.setAcc f.acd { d with psn := true }
  { c1 with
    mprog := if c.work.isSome then mprogOf true 0 f.acd 0 else mprogOf true (bits mp 33 32) f.acd (bits mp 12 0)
    mmul := none
    work := none
    mread := [] }

/-- Groups that a step may run: its budget, of which an issue takes one, or all of them. -/
def Mmul.fuel (x : Mmul) (budget : Nat) (busy : Bool) : Nat :=
  if budget == 0 then x.passes * (ceilDiv x.k x.g + 1) + 1 else if busy then budget else budget - 1

/-- MMUL (R157-R163). -/
def execMmul (h : Hdr) (f : FmtM) (s : State) : Host.Outcome State Fault Refusal :=
  s.issueWord h 1 (mEarly (.mmul h f)) (mmulAgain f) (fun v s =>
    let x := if v.st.busy then v.c.mmul.getD (mmulOf f v s) else mmulOf f v s
    match (if v.st.busy then none else x.issueBad f v s) with
    | some t => .trap t s
    | none =>
      let s1 := if v.st.busy then s else s.updCore v.ci (x.start f v)
      match mmulRun x f v (x.fuel v.budget v.st.busy) s1 with
      | .done t => .done (t.updCore v.ci (mmulEnd f)) 0
      | .more t => .hold .none t
      | .beats t => .hold (.beats 1) t
      | .poison src t => .fail (poisonTrap src 0) (t.updCore v.ci (mmulPoison f)))

/-- MADDA (R164). -/
def execMadda (h : Hdr) (f : FmtM) (s : State) :=
  mCore (.madda h f) h (fun v _ =>
    let d := v.c.acc.read f.acd
    let a := v.c.acc.read f.acs
    let sub := f.flg.getLsbD 3
    if d.tag != a.tag || (d.tag && f.rm != 0) then .error (illegalOp 0)
    else match v.c.accPoison [f.acd, f.acs] with
      | some t => .error t
      | none => .ok (fun c => c.setAcc f.acd (Acc.of d.tag (fun i j =>
          if d.tag then
            let x := toSigned 32 (a.el i j)
            wrapInt 32 (toSigned 32 (d.el i j) + (if sub then -x else x))
          else
            let x := f32 (a.el i j)
            cvt .fp32 (Rm.ofField f.rm) false (FNum.add (Rm.ofField f.rm) (f32 (d.el i j)) (if sub then x.negate else x)))))) s

/-- MSCALE (R164). -/
def execMscale (h : Hdr) (f : FmtM) (s : State) :=
  mCore (.mscale h f) h (fun v _ =>
    let a := v.c.acc.read f.acs
    let k := f32 (v.c.k.read (opsReg f)).toNat
    if a.tag then .error (illegalOp 0)
    else match v.c.accPoison [f.acs] with
      | some t => .error t
      | none => .ok (fun c => c.setAcc f.acd (Acc.of false (fun i j =>
          cvt .fp32 (Rm.ofField f.rm) false ((f32 (a.el i j)).mul k))))) s

/-- MTRANS (R164). -/
def execMtrans (h : Hdr) (f : FmtM) (s : State) :=
  mCore (.mtrans h f) h (fun v _ =>
    let a := v.c.acc.read f.acs
    match v.c.accPoison [f.acs] with
    | some t => .error t
    | none => .ok (fun c => c.setAcc f.acd (Acc.of a.tag (fun i j => a.el j i)))) s

/-- The values of an FP32 accumulator. -/
def Acc.values (a : Acc) : List FNum := (pairs 64 64).map (fun p => f32 (a.el p.1 p.2))

/-- rne of the root of the exact sum of squares (R165, R176). -/
def rootSum (xs : List FNum) : Nat :=
  rneF (xs.foldl (fun t x => FNum.add .rne t (x.mul x)) (.zero false)).sqrt

/-- The largest magnitude, a NaN if there is one (R165). -/
def maxMag (xs : List FNum) : Nat :=
  rneF (xs.foldl (fun t x => FNum.max t x.abs) (.zero false))

/-- The checks of MNORM (R147, R165). -/
def normBad (f : FmtM) (v : At) : Option TrapInfo :=
  if (v.c.acc.read f.acs).tag then some (illegalOp 0) else v.c.accPoison [f.acs]

/-- MNORM.fro and MNORM.max: a norm written to a coefficient register (R165). -/
def normOp (i : Instr) (h : Hdr) (f : FmtM) (g : List FNum → Nat) (s : State) : Host.Outcome State Fault Refusal :=
  mCore i h (fun v _ =>
    match normBad f v with
    | some t => .error t
    | none => .ok (fun c => { c with k := c.k.write (opsReg f) (BitVec.ofNat 32 (g (v.c.acc.read f.acs).values)) })) s

/-- MNORM.fro (R165). -/
def execMnormFro (h : Hdr) (f : FmtM) (s : State) := normOp (.mnormFro h f) h f rootSum s

/-- MNORM.max (R165). -/
def execMnormMax (h : Hdr) (f : FmtM) (s : State) := normOp (.mnormMax h f) h f maxMag s

/-- MNORM.unit (R165). It clears the PSN of its destination, which it writes whole (log entry 76). -/
def execMnormUnit (h : Hdr) (f : FmtM) (s : State) :=
  mCore (.mnormUnit h f) h (fun v _ =>
    let a := v.c.acc.read f.acs
    let n := rootSum a.values
    match normBad f v with
    | some t => .error t
    | none => .ok (fun c => { c.setAcc f.acd (Acc.of false (fun i j =>
        if n == 0 then a.el i j else cvt .fp32 (Rm.ofField f.rm) false ((f32 (a.el i j)).div (f32 n)))) with
        k := c.k.write (opsReg f) (BitVec.ofNat 32 n) })) s

end Sys2Proof.Machine
end

