-- ==== Sys2Proof/Machine/Iterate.lean ====
section
/-! DEFINITION. Coefficient registers, polynomials and iterations on a resident tile (spec/07, R167-R183). -/
namespace Sys2Proof.Machine

/-- The coefficient register that KMOV and KLD write, OPS[3:0] (R168, R169). -/
def Core.setK (c : Core) (n : BitVec 4) (x : Nat) : Core := { c with k := c.k.write n (BitVec.ofNat 32 x) }

/-- KMOV from a scalar (R168). -/
def execKmovS (h : Hdr) (f : FmtM) (s : State) :=
  mCore (.kmovS h f) h (fun v s =>
    .ok (fun c => c.setK (opsReg f) (s.readS v (f.ops.extractLsb' 4 5)).toNat)) s

/-- KMOV from a coefficient register (R168). -/
def execKmovK (h : Hdr) (f : FmtM) (s : State) :=
  mCore (.kmovK h f) h (fun v _ => .ok (fun c => c.setK (opsReg f) (v.c.k.read (f.ops.extractLsb' 4 4)).toNat)) s

/-- KMOV with a BF16 immediate (R168). -/
def execKmovImm (h : Hdr) (f : FmtM) (s : State) :=
  mCore (.kmovImm h f) h (fun _ _ => .ok (fun c => c.setK (opsReg f) (bits f.ops.toNat 19 4 * 2 ^ 16))) s

/-- KLD (R169). -/
def execKld (h : Hdr) (f : FmtM) (s : State) :=
  mCore (.kld h f) h (fun v s =>
    let w := s.readW v f.wa
    let ty := f.ty.toNat
    let t := fmtOf ty
    let row := bits f.ops.toNat 13 8
    let n := bits f.ops.toNat 7 4 + 1
    match (match v.winTy w false with
      | .error e => some e
      | .ok x =>
        if x != ty then some (illegalOp 7)
        else if w.rows ≤ row then some (rowFault w row)
        else firstTrap ((List.range n).filter (fun j => decide (j < w.cols))) (fun j => s.checkRead v.c w t row j)) with
    | some e => .error e
    | none => .ok (fun c => (List.range n).foldl (fun c j =>
        let x := if j < w.cols then s.readElem v.c w t row j else 0
        c.setK (BitVec.ofNat 4 ((opsReg f).toNat + j)) (if ty == 1 then x * 2 ^ 16 else x)) c)) s

/-- Elements of a 64 by 64 array, by row and column. -/
abbrev Tile := Nat → Nat → Nat

/-- The parts that one pass takes from a row or a column of 64 elements (R172). -/
def partsOf (x3 : Bool) (pass : Nat) (isA : Bool) (g : Nat → Nat) : List FNum :=
  tabulate 64 (fun k => accPart (if x3 then 2 else 1) pass isA (g k))

/-- One pass of the product over one element: four groups of 16, each rounded once (R172). -/
def prodElem (alpha : Nat) (t : Nat) (a b : List FNum) : Nat :=
  (List.range 4).foldl (fun t g =>
    rneF (FNum.add .rne (f32 t) ((f32 alpha).mul (dot ((a.drop (16 * g)).take 16) ((b.drop (16 * g)).take 16))))) t

/-- mprod of R172. -/
def mprod (x3 : Bool) (alpha : Nat) (p q c : Tile) : Acc :=
  (List.range (if x3 then 3 else 1)).foldl (fun t pass =>
    let rows := tabulate 64 (fun i => partsOf x3 pass true (p i))
    let cols := tabulate 64 (fun j => partsOf x3 pass false (fun k => q k j))
    Acc.of false (fun i j => prodElem alpha (t.el i j) (rows.getD i []) (cols.getD j []))) (Acc.of false c)

/-- 1.0 as an FP32 code. -/
abbrev oneF : Nat := 0x3F800000

/-- What MPOLY leaves in its destination (R173). -/
def mpolyAcc (f : FmtM) (c : Core) : Acc :=
  let d := (opsReg f).toNat
  let x := c.acc.read f.acs
  (List.range d).foldl (fun t j => mprod (f.flg.getLsbD 3) oneF t.el x.el (diag (c.k.at' (d - 1 - j)).toNat))
    (Acc.of false (diag (c.k.at' d).toNat))

/-- The checks of MPOLY at its issue (R147, R173). -/
def mpolyBad (f : FmtM) (c : Core) : Option TrapInfo :=
  if (c.acc.read f.acs).tag then some (illegalOp 0) else c.accPoison [f.acs]

/-- An accumulator poisoned with unspecified elements (R173, R183). -/
def Core.spoilAcc (c : Core) (s : State) (a : BitVec 2) : Core :=
  c.setAcc a { elems := RegFile.tab 12 (fun i => BitVec.ofNat 32 (s.free (freeKey 8 a.toNat i))), tag := false, psn := true }

/-- MPOLY (R173): with a budget it issues in one step and runs in a later one, where a value that has become uncorrectable
meanwhile stops it, also while its core is frozen; its number then completes and its pushes are not made (log entry 59). -/
def execMpoly (h : Hdr) (f : FmtM) (s : State) : Host.Outcome State Fault Refusal :=
  s.issueWord h 1 (mEarly (.mpoly h f)) noAgain (fun v s =>
    let run := fun (c : Core) => (c.setAcc f.acd (mpolyAcc f c)).endM
    if v.st.busy then
      if (v.c.accPoison [f.acs, f.acd]).isSome then
        .fail (poisonTrap 1 0) (s.updCore v.ci (fun c => (c.spoilAcc s f.acd).endM))
      else .done (s.updCore v.ci run) 0
    else match mpolyBad f v.c with
      | some t => .trap t s
      | none =>
        let s1 := s.updCore v.ci (fun c => c.abandon.beginM)
        if v.budget == 0 then .done (s1.updCore v.ci run) 0
        else .hold .midway (s1.updCore v.ci (fun c => c.setAcc f.acd (Acc.of false (diag (c.k.at' (opsReg f).toNat).toNat)))))

/-- its.V (R170). -/
def itsV (x : Word) : Bool := x.getLsbD 63
/-- its.XACC (R170). -/
def itsX (x : Word) : BitVec 2 := x.extractLsb' 56 2
/-- its.WACC (R170). -/
def itsW (x : Word) : BitVec 2 := x.extractLsb' 54 2
/-- its.PHASE (R170). -/
def itsPhase (x : Word) : Nat := bits x.toNat 53 52
/-- its.DIVC (R170). -/
def itsDivc (x : Word) : Nat := bits x.toNat 51 50
/-- its.CNT (R170). -/
def itsCnt (x : Word) : Nat := bits x.toNat 47 40
/-- its.PREVR (R170). -/
def itsPrevr (x : Word) : Nat := bits x.toNat 31 0

/-- Replaces a field of its. -/
def Core.setIts (c : Core) (hi lo v : Nat) : Core := { c with its := BitVec.ofNat 64 (setBits c.its.toNat hi lo v) }

/-- FORM of a MITER word (R174). -/
def miterForm (f : FmtM) : Nat := bits f.ops.toNat 11 10
/-- The accumulator A of a .inv form (R174). -/
def miterA (f : FmtM) : BitVec 2 := f.ops.extractLsb' 12 2

/-- Whether a MITER that reaches issue resumes the recorded one (R179). -/
def miterAgain (f : FmtM) (v : At) : Bool :=
  let x := v.c.its
  itsV x && bits x.toNat 62 61 == miterForm f && x.getLsbD 58 == f.flg.getLsbD 3
    && (itsX x == f.acd || itsX x == f.acs) && (itsW x == f.acd || itsW x == f.acs)

/-- The accumulators that a phase reads (R175). -/
def phaseReads (form : Nat) (a : BitVec 2) (its : Word) (phase : Nat) : List (BitVec 2) :=
  match phase with
  | 0 => if form == 2 then [a, itsX its] else [itsX its]
  | 1 => [itsW its]
  | _ => [itsW its, itsX its]

/-- The checks at an issue of MITER, resuming or new (R147, R174, R179). -/
def miterBad (f : FmtM) (v : At) : Option TrapInfo :=
  let inv := miterForm f == 2
  let its := v.c.its
  let uses := f.acd :: f.acs :: (if inv then [miterA f] else [])
  if miterAgain f v && (itsX its == itsW its || itsDivc its == 3 || bits f.ops.toNat 7 0 ≤ itsCnt its) then some (illegalOp 0)
  else if uses.any (fun i => (v.c.acc.read i).tag) then some (illegalOp 0)
  else v.c.accPoison ((if inv then [miterA f] else []) ++
    (if miterAgain f v then (itsX its :: (if itsPhase its == 0 then [] else [itsW its])) else [f.acd]))

/-- The start of a MITER: a resuming one goes on from its; a new run takes its number, sets its and clears the PSN of W
(R147, R162, R179, R180). -/
def miterStart (f : FmtM) (v : At) (c : Core) : Core :=
  if miterAgain f v then c.dropMmul
  else
    let c1 := c.abandon.beginM
    let w := c1.acc.read f.acs
    { c1.setAcc f.acs { w with psn := false } with
      invA := if miterForm f == 2 then some (miterA f) else none
      its := BitVec.ofNat 64 (2 ^ 63 + miterForm f * 2 ^ 61 + (if f.flg.getLsbD 3 then 2 ^ 58 else 0)
        + f.acd.toNat * 2 ^ 56 + f.acs.toNat * 2 ^ 54) }

/-- rne(m x) per element, an exact product rounded once (R175). -/
def scaleTile (m : Nat) (x : Tile) : Tile := fun i j => rneF ((f32 m).mul (f32 (x i j)))

/-- The W that phase 0, 1 or 2 writes (R175). -/
def phaseW (f : FmtM) (c : Core) : Acc :=
  let its := c.its
  let x := (c.acc.read (itsX its)).el
  let w := (c.acc.read (itsW its)).el
  let x3 := f.flg.getLsbD 3
  let set := Nat.min (itsCnt its) (bits f.ops.toNat 9 8)
  let ka := (c.k.at' (3 * set)).toNat
  let kb := (c.k.at' (3 * set + 1)).toNat
  let kc := (c.k.at' (3 * set + 2)).toNat
  let zero : Tile := fun _ _ => 0
  let inv := miterForm f == 2
  match itsPhase its with
  | 0 => if inv then mprod x3 oneF (c.acc.read (miterA f)).el x zero else mprod x3 oneF x (fun i j => x j i) zero
  | 1 =>
    if inv then Acc.of false (fun i j =>
      let m := (f32 (w i j)).negate
      rneF (if i == j then FNum.add .rne (.dy false 2 0) m else m))
    else if miterForm f == 1 then mprod x3 kc w w (scaleTile kb w)
    else Acc.of false (scaleTile kb w)
  | _ => if inv then mprod x3 oneF x w zero else mprod x3 oneF w x (scaleTile ka x)

/-- What phase 3 decides (R176): a verdict of divergence with its DETAIL, the next iteration, or the end. -/
inductive Verdict where
  | diverge (detail : Nat)
  | again (c : Core)
  | finish (f : Bool) (c : Core)

/-- Phase 3 (R176). -/
def phase3 (f : FmtM) (c : Core) : Verdict :=
  let its := c.its
  let x := c.acc.read (itsX its)
  let w := c.acc.read (itsW its)
  let n := itsCnt its + 1
  let r := rootSum ((pairs 64 64).map (fun p => FNum.add .rne (f32 (w.el p.1 p.2)) (f32 (x.el p.1 p.2)).negate))
  if w.values.any FNum.notFinite || (f32 r).notFinite then .diverge 0
  else
    let tol := f32 (c.k.at' 14).toNat
    let grow := decide (2 ≤ n) && (f32 r).cmp ((f32 (c.k.at' 15).toNat).mul (f32 (itsPrevr its))) == .gt
    let met := tol != .nan && (f32 r).cmp tol != .gt
    let dc := if grow then itsDivc its + 1 else 0
    if !met && dc == 2 then .diverge 1
    else
      let c1 := (((c.setIts 57 56 (itsW its).toNat).setIts 55 54 (itsX its).toNat).setIts 47 40 n).setIts 31 0 r
      let c2 := c1.setIts 51 50 (Nat.min dc 2)
      if met then .finish true c2
      else if n == bits f.ops.toNat 7 0 then .finish false c2
      else .again (c2.setIts 53 52 0)

/-- finish(f) of R177: X ends in ACD, cf0 is written, the number completes. -/
def miterFinish (f : FmtM) (r : Bool) (c : Core) : Core :=
  let a := c.acc.read f.acd
  let b := c.acc.read f.acs
  let c1 := if itsX c.its == f.acd then c else (c.setAcc f.acd b).setAcc f.acs a
  let c2 := ((((c1.setIts 63 63 0).setIts 59 59 (if r then 1 else 0)).setIts 57 56 f.acd.toNat).setIts 55 54
    f.acs.toNat).setIts 53 52 0
  (c2.writeFlag 0 r).endM

/-- What diverge() leaves (R178). -/
def miterDiverge (c : Core) : Core := (((c.setIts 63 63 0).setIts 60 60 1).setIts 53 52 3).endM

/-- A phase that reads a poisoned accumulator (R183): W is poisoned and unspecified, the run is over. -/
def miterPoison (s : State) (c : Core) : Core := ((c.spoilAcc s (itsW c.its)).setIts 63 63 0).endM

/-- How a run of phases ends. -/
inductive MiterEnd where
  | done (c : Core)
  | more (c : Core)
  | flag (c : Core)
  | trap (t : TrapInfo) (c : Core)

/-- Runs phases from its.PHASE (R175, R176, R181); fuel counts the phases of this step. A phase 3 that would end the run
waits for cf0 as SETCF does (R177, R301); a freeze in that wait leaves it suspended before its phase 3 (log entry 77). -/
def miterRun (s : State) (f : FmtM) : Nat → Core → MiterEnd
  | 0, c => .more c
  | fuel + 1, c =>
    let ph := itsPhase c.its
    if ((phaseReads (miterForm f) (miterA f) c.its ph).any (fun i => (c.acc.read i).psn)) then
      .trap (poisonTrap 1 0) (miterPoison s c)
    else if ph == 3 then
      match phase3 f c with
      | .diverge d => .trap (trapOf 0x0A d 0) (miterDiverge c)
      | .again c1 => miterRun s f fuel c1
      | .finish r c1 => if c.flagFree 0 then .done (miterFinish f r c1) else .flag c
    else miterRun s f fuel ((c.setAcc (itsW c.its) (phaseW f c)).setIts 53 52 (ph + 1))

/-- Phases that a step may run: its budget, or all that the cap allows. -/
def miterFuel (f : FmtM) (budget : Nat) : Nat := if budget == 0 then 4 * bits f.ops.toNat 7 0 + 1 else budget

/-- MITER (R174-R183). -/
def execMiter (h : Hdr) (f : FmtM) (s : State) : Host.Outcome State Fault Refusal :=
  s.issueWord h 1 (mEarly (.miter h f)) (miterAgain f) (fun v s =>
    match (if v.st.busy then none else miterBad f v) with
    | some t => .trap t s
    | none =>
      let c0 := if v.st.busy then v.c else miterStart f v v.c
      match miterRun s f (miterFuel f v.budget) c0 with
      | .done c => .done (s.setCore v.ci c) 0
      | .more c => .hold .none (s.setCore v.ci c)
      | .flag c => .hold (.flag 0) (s.setCore v.ci c)
      | .trap t c => .fail t (s.setCore v.ci c))

/-- The value that ITRD's SEL names (R171). -/
def itrdValue (v : At) (sel : Nat) : Word :=
  if sel < 16 then (v.c.k.at' sel).zeroExtend 64
  else if sel == 16 then v.c.its
  else if sel == 17 then BitVec.ofNat 64 (itsCnt v.c.its)
  else BitVec.ofNat 64 (itsPrevr v.c.its)

/-- ITRD (R171). -/
def execItrd (h : Hdr) (f : FmtY) (s : State) := s.scalarOp h f.sd 3 (fun v _ => itrdValue v (bits f.ops.toNat 4 0))

end Sys2Proof.Machine
end

