-- ==== Sys2Proof/Machine/Scan.lean ====
section
/-! DEFINITION. Scan groups, SCAN and SCANTOT, and the carries and totals of the lacing (spec/08, R185-R206). -/
namespace Sys2Proof.Machine

/-- The group index of a format-Y scan instruction (R190). -/
def scanIdx (f : FmtY) : Nat := f.idx.toNat

/-- A scan instruction of format Y on the V strand. -/
def scanY (h : Hdr) (early : At → Option TrapInfo) (body : At → State → Res) (s : State) :
    Host.Outcome State Fault Refusal :=
  s.issueWord h 1 (fun v _ => early v) noAgain body

/-- The index as the V strand reads it: while the result of a SCANCFG is in flight its configuration is an unspecified value
(R64, R191). -/
def State.readScan (s : State) (v : At) (g : Nat) : ScanIx :=
  let x := v.c.scans.at' g
  if v.e == .v && (v.c.flight? (s.iclk v.c) (.g g)).isSome then x.setField 55 48 (s.free (freeKey 15 g 0) % 256) else x

/-- SCANCFG (R190, R191). -/
def execScancfg (h : Hdr) (f : FmtY) (s : State) :=
  scanY h (fun _ => none) (fun v s =>
    let cfg := bits f.ops.toNat 7 0
    let x := v.c.scans.at' (scanIdx f)
    if x.joined then .trap (illegalOp 0) s
    else .done ((s.updScan v.ci (scanIdx f) (fun x => x.setField 55 48 cfg)).updCore v.ci (fun c =>
      v.fly s c (.g (scanIdx f)) 1 2 .none)) 2) s

/-- A member's index after a join: J = 1, its level and position, the configuration kept, buffers cleared (R192); the
members of other packages stand before and after those of this one (R189). -/
def ScanIx.enter (x : ScanIx) (lvl pos : Nat) (members : List (Nat × Nat)) (before after : Nat) : ScanIx :=
  { ScanIx.zero with
    scg := BitVec.ofNat 64 (2 ^ 63 + lvl * 2 ^ 58 + x.cfg * 2 ^ 48 + pos % 2 ^ 32)
    members := members, before := before, after := after }

/-- The core that joined alone (R192). -/
def joinAlone (v : At) (g : Nat) (s : State) : State :=
  s.updScan v.ci g (fun _ => (s.readScan v g).enter 0 0 [v.c.key] 0 0)

/-- SCANJOIN (R192): the arrival is recorded once; the decision gives sd. -/
def execScanjoin (h : Hdr) (f : FmtY) (s : State) :=
  scanY h (fun v => v.ownCheck f.sd) (fun v s =>
    let g := scanIdx f
    let lvl := bits f.ops.toNat 2 0
    let x := v.c.scans.at' g
    match x.decided with
    | some code => .done (v.putS (s.updScan v.ci g (fun x => { x with decided := none })) f.sd (BitVec.ofNat 64 code) 2) 2
    | none =>
      if x.joined then .trap (illegalOp 0) s
      else if lvl == 0 then .done (v.putS (joinAlone v g s) f.sd 0 2) 2
      else
        let s1 := s.updScan v.ci g (fun x => { x with join := some lvl })
        .wait (.scan g 2) (if x.join.isNone && s.needsPeers v.c lvl then s1.lace 8 g [BitVec.ofNat 8 x.cfg] else s1)) s

/-- Whether members whose SCAN of this index's generation has not retired remain: those one generation behind (R193, R199);
before its first SCAN since the join nobody is behind a member (R419); what
members on other packages have retired is their packages' news, so a free value (log entry 60). -/
def State.behind (s : State) (g : Nat) (x : ScanIx) : Bool :=
  (x.wide && x.retired && s.free (freeKey 14 g 0) % 2 == 1) || (s.members g x).any (fun ci =>
    match s.core? ci with
    | some c => !c.gone && ((c.scans.at' g).gen + 1) % 2 ^ 16 == x.gen
    | none => false)

/-- An index outside any group, with its configuration (R193). -/
def ScanIx.leave (x : ScanIx) : ScanIx := { ScanIx.zero with scg := BitVec.ofNat 64 (x.cfg * 2 ^ 48) }

/-- How a SCAN reads its group's configuration (R188). -/
structure ScanCfg where
  op : Nat
  exc : Bool
  rev : Bool
  seg : Bool
  aout : Bool

/-- The configuration of an index (R188). -/
def ScanIx.config (x : ScanIx) : ScanCfg :=
  { op := x.op, exc := bitAt x.cfg 4, rev := bitAt x.cfg 3, seg := bitAt x.cfg 2, aout := bitAt x.cfg 1 }

/-- The group index of SCAN and SCANTOT (R194, R201). -/
def scanG (f : FmtV) : Nat := bits f.ops.toNat 11 10

/-- The rows of a SCAN (R194). -/
def scanN (f : FmtV) : Nat := bits f.ops.toNat 9 0

/-- Window k of those that a SCAN captured. -/
def winOf (ws : List Window) (k : Nat) : Window := ws.getD k Window.zero

/-- The places of the windows that are read, then of those that are written (R194). -/
def scanUses (c : ScanCfg) : List Nat × List Nat :=
  (if c.op == 4 then [1, 2] else [1], if c.aout then [0, 3] else [0])

/-- Channels of a SCAN (R195). -/
def scanM (ws : List Window) : Nat := Nat.min 64 (winOf ws 0).cols

/-- The resolved type of a window, or a code no rule accepts. -/
def At.winCode (v : At) (w : Window) : Nat :=
  match v.winTy w false with
  | .ok t => t
  | .error _ => 15

/-- A window whose type is resolved at this issue (R44, R122). -/
def At.fixTy (v : At) (w : Window) : Window := { w with ty := BitVec.ofNat 4 (v.winCode w) }

/-- The windows that a SCAN names, wD, wA, wB, wC, as they are at its issue (R122, R194). -/
def scanWins (f : FmtV) (v : At) (s : State) : List Window :=
  [f.vd, f.va, f.vb, f.vc].map (fun r => v.fixTy (s.readW v (r.extractLsb' 0 4)))

/-- The type of the sources, which the first source window has (R195). -/
def srcTy (ws : List Window) : Nat := (winOf ws 1).ty.toNat

/-- Checks 3 to 5 of R195. A SCAN that resumes reads nothing at its issue, so poison is found in its final pass (R206). -/
def scanBad (f : FmtV) (v : At) (s : State) (x : ScanIx) : Option TrapInfo :=
  let cfg := x.config
  let n := scanN f
  let ws := scanWins f v s
  let m := scanM ws
  let uses := scanUses cfg
  if (cfg.op != 4 && f.vb != 0) || (!cfg.aout && f.vc != 0) || (!cfg.seg && f.pred != 0) || (cfg.seg && 64 < n) then
    some (illegalOp 0)
  else if uses.1.any (fun k => v.winCode (winOf ws k) != v.ty f.ty.toNat)
      || uses.2.any (fun k => 1 < v.winCode (winOf ws k)) then some (illegalOp 7)
  else match (uses.1 ++ uses.2).find? (fun k => (winOf ws k).cols < m || (winOf ws k).rows < n) with
    | some k => some (windowFault (winOf ws k).base.toNat)
    | none =>
      (firstTrap uses.1 (fun k => firstTrap (pairs n m) (fun p =>
        if x.waitsCarry then s.checkWrite v.c (winOf ws k) (fmtOf (srcTy ws)) p.1 p.2
        else s.checkRead v.c (winOf ws k) (fmtOf (srcTy ws)) p.1 p.2))).or
        (firstTrap uses.2 (fun k => firstTrap (pairs n m) (fun p =>
          s.checkWrite v.c (winOf ws k) (fmtOf (v.winCode (winOf ws k))) p.1 p.2)))
where
  /-- The (row, channel) pairs of a block. -/
  pairs (rows cols : Nat) : List (Nat × Nat) :=
    (List.range rows).flatMap (fun i => (List.range cols).map (fun j => (i, j)))

/-- The checks of R195 at an issue, before the pops; a SCAN in progress, or one resuming on a broken group, makes them in
its body. -/
def scanEarly (h : Hdr) (f : FmtV) (v : At) (s : State) : Option TrapInfo :=
  let g := scanG f
  let x := v.c.scans.at' g
  if v.st.busy then none
  else (v.tyCheck (.scan h f)).or
    (if !x.joined then some (illegalOp 0)
     else if x.broken then (if x.waitsCarry then none else some (scanBroken g))
     else scanBad f v s x)

/-- A source element widened to FP32 (R194, R196). -/
def scanElem (s : State) (c : Core) (w : Window) (ty t ch : Nat) : Nat :=
  let x := s.readElem c w (fmtOf ty) t ch
  if ty == 1 then x * 2 ^ 16 else x

/-- The element (t, c) of a SCAN's source (R196). -/
def scanSrc (s : State) (c : Core) (ws : List Window) (ty op t ch : Nat) : Nat × Nat :=
  let x := scanElem s c (winOf ws 1) ty t ch
  if op == 4 then (x, scanElem s c (winOf ws 2) ty t ch) else if op == 5 then (x, 0x3F800000) else (x, 0)

/-- The rows in scan order (R196). -/
def scanRows (rev : Bool) (n : Nat) : List Nat := tabulate n (fun u => if rev then n - 1 - u else u)

/-- A channel's run: the value so far and whether a reset has been met (R196). -/
abbrev Run := Option (Nat × Nat) × Bool

/-- The run before a row, cut by a reset (R196). -/
def cutRun (reset : Bool) (r : Run) : Run := if reset then (none, true) else r

/-- The run after a row (R196). -/
def extend (op : Nat) (r : Run) (x : Nat × Nat) : Run :=
  (some (match r.1 with
    | none => x
    | some e => comb op e x), r.2)

/-- Whether row t is marked in the segment predicate (R196). -/
def isReset (cfg : ScanCfg) (p : BitVec 64) (t : Nat) : Bool := cfg.seg && p.getLsbD t

/-- T and RS of one channel from its source elements in scan order (R196). -/
def localRun (cfg : ScanCfg) (p : BitVec 64) (xs : List (Nat × (Nat × Nat))) : Run :=
  xs.foldl (fun r x => extend cfg.op (cutRun (isReset cfg p x.1) r) x.2) (none, false)

/-- A run as a buffer's cell, and a cell's value as FP32 codes. -/
def cellOf (r : Run) : ScanCell :=
  { val := r.1.map (fun x => (BitVec.ofNat 32 x.1, BitVec.ofNat 32 x.2)), rst := r.2 }

/-- The value of a cell. -/
def ScanCell.pair (x : ScanCell) : Option (Nat × Nat) := x.val.map (fun v => (v.1.toNat, v.2.toNat))

/-- The source elements of a SCAN, row by row in scan order (R196). -/
def scanSeen (f : FmtV) (c : Core) (s : State) (cfg : ScanCfg) (ws : List Window) : List (Nat × Nat) :=
  (scanRows cfg.rev (scanN f)).flatMap (fun t => (List.range (scanM ws)).map (fun ch =>
    scanSrc s c ws (srcTy ws) cfg.op t ch))

/-- The local pass (R196, R199 step 4): T and RS of each channel, the windows and what was read. -/
def scanLocal (f : FmtV) (v : At) (s : State) (x : ScanIx) : ScanIx :=
  let cfg := x.config
  let ws := scanWins f v s
  let m := scanM ws
  let p := s.readP v f.pred
  let seen := scanSeen f v.c s cfg ws
  { x with
    total := RegFile.tab 6 (fun ch =>
      if ch < m then cellOf (localRun cfg p ((scanRows cfg.rev (scanN f)).zipIdx.map (fun r =>
        (r.1, seen.getD (r.2 * m + ch) (0, 0))))) else { val := none, rst := false })
    passed := true, wins := ws, seen := seen }

/-- C′ of a channel from C and the local result (R197). -/
def carryOut (op : Nat) (carry total : ScanCell) : ScanCell :=
  match total.val with
  | none => carry
  | some _ =>
    if total.rst then { total with rst := false }
    else match carry.pair, total.pair with
      | some e, some l => cellOf (some (comb op e l), false)
      | _, _ => { total with rst := false }

/-- The carry that a member sends (R197). -/
def ScanIx.sends (x : ScanIx) : RegFile 6 ScanCell :=
  RegFile.tab 6 (fun ch => carryOut x.op (x.carry.at' ch) (x.total.at' ch))

/-- The members of a group in scan order (R188, R189). -/
def State.takers (s : State) (g : Nat) (x : ScanIx) : List Nat :=
  if x.config.rev then (s.members g x).reverse else s.members g x

/-- The member before a core in scan order (R189, R197). -/
def State.before (s : State) (g ci : Nat) (x : ScanIx) : Option Nat := ((s.takers g x).takeWhile (fun i => i != ci)).getLast?

/-- The member after a core in scan order (R189, R197). -/
def State.after (s : State) (g ci : Nat) (x : ScanIx) : Option Nat := ((s.takers g x).dropWhile (fun i => i != ci))[1]?

/-- Whether members of other packages stand before, or after, this package's in scan order (R188, R189). -/
def ScanIx.farBefore (x : ScanIx) : Bool := (if x.config.rev then x.after else x.before) != 0
/-- The same for those after. -/
def ScanIx.farAfter (x : ScanIx) : Bool := (if x.config.rev then x.before else x.after) != 0

/-- The bytes of a carry or a total on its way to another package (log entry 60). -/
def carryBytes (x : RegFile 6 ScanCell) : List (BitVec 8) :=
  (List.range 64).flatMap (fun ch => match (x.at' ch).val with
    | none => leBytes 9 0
    | some p => 1 :: (leBytes 4 p.1.toNat ++ leBytes 4 p.2.toNat))

/-- A carry or a total that comes from another package: values that only its package knows. -/
def State.farCells (s : State) (g : Nat) : RegFile 6 ScanCell :=
  RegFile.tab 6 (fun ch =>
    if s.free (freeKey 16 g (4 * ch)) % 2 == 0 then { val := none, rst := false }
    else { val := some (BitVec.ofNat 32 (s.free (freeKey 16 g (4 * ch + 1))), BitVec.ofNat 32 (s.free (freeKey 16 g (4 * ch + 2)))),
           rst := false })

/-- The group's total, the C′ of the last member in scan order, starts on its way to every member (R198): y is the last
member of this package in the generation that has ended. -/
def State.sendTotal (s : State) (g : Nat) (y : ScanIx) : State :=
  let total := if y.farAfter then s.farCells g else y.sends
  let s1 := (s.members g y).foldl (fun s ci => s.updScan ci g (fun z =>
    if z.gen == y.gen then { z with group := total, groupDue := true, groupIn := false } else z)) s
  if y.farAfter then s1.lace 9 g (carryBytes y.sends)
  else if y.farBefore then s1.lace 10 g (carryBytes y.sends) else s1

/-- The carry of a member reaches the next one's eyelet (R197): a SCAN that waits there for it clears WC and goes on to its
end (R203). -/
def State.giveCarry (s : State) (ci g : Nat) (carry : RegFile 6 ScanCell) : State :=
  (s.updScan ci g (fun x => { x with carry := carry, carryIn := true })).updCore ci (fun c =>
    if c.strandV.busy && c.strandV.wait == .scan g 1 then
      { c with
        strandV := { c.strandV with wait := .midway }
        scans := c.scans.put g ((c.scans.at' g).setField 61 61 0) }
    else c)

/-- A core leaves a group (R193): what the lacing carries through its eyelet to the next member stays on its way - the
carry it sent to a member one generation behind, or the carry that it received and did not use (R189); where none is
after it and the member before it is a generation ahead, that one's C′ is the last (R198). -/
def State.leaveScan (s : State) (ci g : Nat) : State :=
  match s.core? ci with
  | none => s
  | some c =>
    let x := c.scans.at' g
    let s1 := (match s.after g ci x with
      | none => s
      | some n =>
        let y := ((s.core? n).map (fun (d : Core) => d.scans.at' g)).getD ScanIx.zero
        if y.carryIn then s
        else if (y.gen + 1) % 2 ^ 16 == x.gen then s.giveCarry n g x.sends
        else if x.carryIn then s.giveCarry n g x.carry
        else s).updScan ci g ScanIx.leave
    match (s.before g ci x).bind s.core? with
    | some d =>
      let y := d.scans.at' g
      if (s.after g ci x).isNone && !x.broken && y.gen == (x.gen + 1) % 2 ^ 16 then s1.sendTotal g y else s1
    | none => s1

/-- A core that exits leaves its groups; one with a suspended SCAN breaks instead (R193). -/
def State.leaveScans (s : State) (ci : Nat) : State :=
  [0, 1, 2, 3].foldl (fun s g =>
    match s.core? ci with
    | none => s
    | some c => if (c.scans.at' g).joined && !(c.scans.at' g).waitsCarry then s.leaveScan ci g else s) s

/-- The group that holds a core's leaving, as SCANLEAVE and EXIT find it (R193). -/
def State.leaveHeld (s : State) (c : Core) : Option Nat :=
  [0, 1, 2, 3].find? (fun g =>
    let x := c.scans.at' g
    x.joined && !x.waitsCarry && !x.broken && s.behind g x)

/-- SCANLEAVE (R193). -/
def execScanleave (h : Hdr) (f : FmtY) (s : State) :=
  scanY h (fun _ => none) (fun v s =>
    let g := scanIdx f
    let x := v.c.scans.at' g
    if !x.joined then .done s 0
    else if x.waitsCarry then .trap (illegalOp 0) s
    else if !x.broken && s.behind g x then .wait (.scan g 0) s
    else .done (s.leaveScan v.ci g) 0) s

/-- Whether the carry of a member has arrived: the first in scan order has none to wait for (R197). -/
def State.carryReady (s : State) (g ci : Nat) (x : ScanIx) : Bool :=
  x.carryIn || ((s.before g ci x).isNone && !x.farBefore)

/-- The value of one row of a channel in the final pass (R198). -/
def scanRow (cfg : ScanCfg) (c : Option (Nat × Nat)) (r : Run) (x : Nat × Nat) : Nat × Nat :=
  let v := if cfg.exc then r.1 else (extend cfg.op r x).1
  let v := if r.2 then v else match c, v with
    | some e, some l => some (comb cfg.op e l)
    | some e, none => some e
    | none, v => v
  v.getD (combId cfg.op)

/-- The source bytes of row t and channel ch of a SCAN (R196). -/
def scanReads (s : State) (c : Core) (x : ScanIx) (t ch : Nat) : List Nat :=
  (scanUses x.config).1.flatMap (fun k =>
    match s.elemAddrs c (winOf x.wins k) (fmtOf (srcTy x.wins)) t ch with
    | .ok as => as
    | .error _ => [])

/-- The source bytes of a SCAN that starts to wait for its carry are watched from then on (R200). -/
def State.watchScan (s : State) (f : FmtV) (c : Core) (x : ScanIx) : State :=
  let g := scanG f
  let as := (List.range (scanN f)).flatMap (fun t => (List.range (scanM x.wins)).flatMap (scanReads s c x t))
  { s with watched := s.watched.filter (fun w => !(w.core == c.key && w.g == g) && (s.place w.core).isSome)
      ++ as.eraseDups.map (fun a => { core := c.key, g := g, addr := a, hit := false }) }

/-- A SCAN waits no longer, and its source bytes are watched no more. -/
def State.unwatch (s : State) (key : Nat × Nat) (g : Nat) : State :=
  { s with watched := s.watched.filter (fun w => !(w.core == key && w.g == g)) }

/-- Whether another party has written a source byte of row t and channel ch since the local pass (R200). -/
def scanHit (s : State) (g : Nat) (c : Core) (x : ScanIx) (t ch : Nat) : Bool :=
  let ws := s.watched.filter (fun w => w.hit && w.core == c.key && w.g == g)
  !ws.isEmpty && (scanReads s c x t ch).any (fun a => ws.any (fun w => w.addr == a))

/-- The first place in scan order, of the n rows ts, whose source element of a channel another party has written since the
local pass (R200): the write was noted, or the value differs. -/
def changedFrom (m : Nat) (old new : List (Nat × Nat)) (hit : Nat → Nat → Bool) (ts : List Nat) (ch : Nat) : Option Nat :=
  (List.range ts.length).find? (fun u =>
    hit (ts.getD u 0) ch || (!old.isEmpty && old.getD (u * m + ch) (0, 0) != new.getD (u * m + ch) (0, 0)))

/-- changedFrom of a SCAN in its final pass. -/
def scanChanged (f : FmtV) (c : Core) (s : State) (x : ScanIx) (ch : Nat) : Option Nat :=
  changedFrom (scanM x.wins) x.seen (scanSeen f c s x.config x.wins) (scanHit s (scanG f) c x)
    (scanRows x.config.rev (scanN f)) ch

/-- The final pass (R198, R200): rows in scan order, within a row every read before every write. -/
def scanFinal (f : FmtV) (v : At) (s : State) (x : ScanIx) : State :=
  let cfg := x.config
  let ws := x.wins
  let m := scanM ws
  let p := s.readP v f.pred
  let dty := fmtOf (v.winCode (winOf ws 0))
  let cty := fmtOf (v.winCode (winOf ws 3))
  let bad := tabulate m (scanChanged f v.c s x)
  let row := fun (st : State × List Run) (r : Nat × Nat) =>
    let t := r.1
    let xs := tabulate m (fun ch => scanSrc st.1 v.c ws (srcTy ws) cfg.op t ch)
    let runs := st.2.map (cutRun (isReset cfg p t))
    let vals := tabulate m (fun ch =>
      match bad.getD ch none with
      | some u =>
        if u ≤ r.2 then (s.free (freeKey 9 t (2 * ch)) % 2 ^ 32, s.free (freeKey 9 t (2 * ch + 1)) % 2 ^ 32)
        else scanRow cfg (x.carry.at' ch).pair (runs.getD ch (none, false)) (xs.getD ch (0, 0))
      | none => scanRow cfg (x.carry.at' ch).pair (runs.getD ch (none, false)) (xs.getD ch (0, 0)))
    let s1 := (vals.zipIdx).foldl (fun s y => s.writeElem v.c (winOf ws 0) dty t y.2
      (cvt dty .rne false (f32 (scanOut cfg.op y.1)))) st.1
    let s2 := if cfg.aout then (vals.zipIdx).foldl (fun s y => s.writeElem v.c (winOf ws 3) cty t y.2
      (cvt cty .rne false (f32 (scanComp cfg.op y.1)))) s1 else s1
    (s2, (List.zip runs xs).map (fun y => extend cfg.op y.1 y.2))
  let out := ((scanRows cfg.rev (scanN f)).zipIdx).foldl row (s, List.replicate m (none, false))
  let addrs := fun (k : Nat) (t : Fmt) => (List.range (scanN f)).flatMap (fun r => (List.range m).flatMap (fun ch =>
    match s.elemAddrs v.c (winOf ws k) t r ch with
    | .ok as => as
    | .error _ => []))
  out.1.coverClear (addrs 0 dty ++ (if cfg.aout then addrs 3 cty else []))

/-- An index once its SCAN has sent C′ and retired (R197, R199, R200, R203); bad are the channels whose C′ is unspecified. -/
def ScanIx.retire (x : ScanIx) (s : State) (bad : Nat → Bool) : ScanIx :=
  let m := scanM x.wins
  let y := { x with
    total := RegFile.tab 6 (fun ch =>
      if ch < m && bad ch then
        cellOf (some (s.free (freeKey 9 0xFFF (2 * ch)) % 2 ^ 32, s.free (freeKey 9 0xFFF (2 * ch + 1)) % 2 ^ 32), true)
      else x.total.at' ch)
    passed := false, carryIn := false, spared := false, groupIn := false, groupDue := false, retired := true, wins := [], seen := [] }
  (y.setField 61 61 0).setField 47 32 ((x.gen + 1) % 2 ^ 16)

/-- The waiting members right after one in scan order, whose SCANs complete with a C′ that was sent (R206). -/
def State.waitingAfter (s : State) (g ci : Nat) (x : ScanIx) : List Nat :=
  (((s.takers g x).dropWhile (fun i => i != ci)).drop 1).takeWhile (fun i =>
    match s.core? i with
    | some c => (c.scans.at' g).passed
    | none => false)

/-- A SCAN's uncorrectable read (R206): its index is no longer waiting and the group breaks. Where C′ had been sent it
stands, and destination elements that the final pass had reached, which ones a free value says, are unspecified. -/
def scanPoison (f : FmtV) (v : At) (s : State) (x : ScanIx) (sent : Bool) : State :=
  let g := scanG f
  let cfg := x.config
  let spoil := fun (k : Nat) (s1 : State) =>
    let t := fmtOf (v.winCode (winOf x.wins k))
    (List.range (scanN f)).foldl (fun s1 r => (List.range (scanM x.wins)).foldl (fun s1 ch =>
      let n := s.free (freeKey 17 (4 * r + k) ch)
      if n % 2 == 0 then s1 else s1.writeElem v.c (winOf x.wins k) t r ch (n / 2 % 2 ^ t.bits)) s1) s1
  let s1 := if sent then
      let s1 := (s.waitingAfter g v.ci x).foldl (fun s1 i => s1.updScan i g (fun y => { y with spared := true })) s
      let s2 := match s.after g v.ci x with
        | some n => s1.giveCarry n g x.sends
        | none => if x.farAfter then s1.lace 9 g (carryBytes x.sends) else s1
      spoil 0 (if cfg.aout then spoil 3 s2 else s2)
    else s
  ((s1.breakGroup g x).unwatch v.c.key g).updScan v.ci g (fun y => ({ y with passed := false, carryIn := false, spared := false }).setField 61 61 0)

/-- Whether a source element that a SCAN reads is poisoned (R206). -/
def scanBadRead (f : FmtV) (v : At) (s : State) (x : ScanIx) : Option TrapInfo :=
  firstTrap (scanUses x.config).1 (fun k => firstTrap (List.range (scanN f)) (fun t =>
    firstTrap (List.range (scanM x.wins)) (fun ch => s.checkRead v.c (winOf x.wins k) (fmtOf (srcTy x.wins)) t ch)))

/-- Steps 6 to 8 of R199, once C is there. -/
def scanFinish (f : FmtV) (v : At) (s : State) (x : ScanIx) : Res :=
  let g := scanG f
  let x := if x.carryIn || (s.before g v.ci x).isSome then x else { x with carry := scanBuf }
  let last := (s.takers g x).getLast? == some v.ci
  match scanBadRead f v s x with
  | some t => .fail t (scanPoison f v s x true)
  | none =>
    let y := x.retire s (fun ch => (scanChanged f v.c s x ch).isSome)
    let s1 := ((scanFinal f v s x).unwatch v.c.key g).updScan v.ci g (fun _ => y)
    .done (if last then s1.sendTotal g y else s1) 0

/-- The body of SCAN (R199, R203, R205, R206). An uncorrectable read shows in the local pass or in the final pass, and a
free value says in which (log entry 70); a resumed SCAN has its local pass behind it. -/
def scanBody (f : FmtV) (v : At) (s : State) : Res :=
  let g := scanG f
  let x := v.c.scans.at' g
  if x.broken && !x.spared && !v.st.midway then
    .fail (scanBroken g) ((s.unwatch v.c.key g).updScan v.ci g (fun x => ({ x with passed := false }).setField 61 61 0))
  else if !v.st.busy && !x.waitsCarry && s.behind g x then .wait (.scan g 0) s
  else
    let first := !v.st.busy && x.seen.isEmpty
    let y := if v.st.busy then x
      else if x.waitsCarry then
        let ws := scanWins f v s
        { x with wins := ws, passed := true, seen := if x.seen.isEmpty then scanSeen f v.c s x.config ws else x.seen }
      else scanLocal f v s x
    match (if v.st.busy && !v.st.midway && !x.waitsCarry && s.free (freeKey 18 g 0) % 2 == 0 then scanBadRead f v s y else none) with
    | some t => .fail t (scanPoison f v s y false)
    | none =>
      if s.carryReady g v.ci y then scanFinish f v s y
      else .hold (.scan g 1) ((if first then s.watchScan f v.c y else s).updScan v.ci g (fun _ => y))

/-- SCAN (R194-R206). -/
def execScan (h : Hdr) (f : FmtV) (s : State) : Host.Outcome State Fault Refusal :=
  s.issueWord h 1 (scanEarly h f) (fun v => (v.c.scans.at' (scanG f)).waitsCarry) (scanBody f)

/-- SCANTOT (R201). -/
def execScantot (h : Hdr) (f : FmtV) (s : State) : Host.Outcome State Fault Refusal :=
  s.issueWord h 1 noEarly noAgain (fun v s =>
    let g := scanG f
    let x := v.c.scans.at' g
    let pair := 4 ≤ x.op
    if !x.joined || !x.retired then .trap (illegalOp 0) s
    else if x.broken then .trap (scanBroken g) s
    else if !pair && f.vc != 0 then .trap (illegalOp 0) s
    else if !x.groupIn then .wait (.scan g 3) s
    else
      let tot := fun ch => ((x.group.at' ch).pair).getD (combId x.op)
      let all := BitVec.allOnes 64
      let s1 := v.putV s f.vd all (fun ch => BitVec.ofNat 32 (scanOut x.op (tot ch))) 4
      .done (if pair then v.putV s1 f.vc all (fun ch => BitVec.ofNat 32 (scanComp x.op (tot ch))) 4 else s1) 4)

/-- The decision of a join (R192): the code of sd, from the cores of the domain on this package. -/
def joinCode (cores : List Core) (g lvl : Nat) : Option Nat :=
  let arrived := fun (c : Core) => (c.scans.at' g).join == some lvl
  if cores.any (fun c => !c.gone && !arrived c) then none
  else if cores.any (fun c => c.killed && !arrived c) then some 2
  else
    let l := (cores.filter arrived).map (fun c => (c.scans.at' g).cfg)
    some (if l.all (fun x => x == l.headD 0) then 0 else 1)

/-- The decision with what the peer packages of a level-4 join report (log entry 60): 0 not all of their cores have arrived
or left, 1 all have arrived and their CFG bytes are those of this package, 2 a CFG byte differs, 3 one was killed before
it arrived. -/
def joinAll (code : Option Nat) (peers : Bool) (remote : Nat) : Option Nat :=
  if !peers then code
  else match remote with
    | 0 => none
    | 1 => code
    | 2 => code.map (fun c => if c == 0 then 1 else c)
    | _ => code.map (fun _ => 2)

/-- SCAN_JOIN_DECISION (R192, R355). remote: what the peers report; before and after: how many of their cores stand before
and after this package's in group order (R189). -/
def execScanJoinDecision (ci : Nat) (n : JoinNews) (s : State) : Host.Outcome State Fault Refusal :=
  match s.core? ci with
  | none => .next s
  | some c =>
    match (c.scans.at' n.group).join with
    | none => .next s
    | some lvl =>
      let peers := s.needsPeers c lvl
      let places := s.domain lvl c
      match joinAll (joinCode (places.filterMap s.core?) n.group lvl) peers n.remote with
      | none => .next s
      | some code =>
        let joined := places.filter (fun i => match s.core? i with
          | some d => (d.scans.at' n.group).join == some lvl
          | none => false)
        let keys := joined.filterMap (fun i => (s.core? i).map Core.key)
        let b := if peers then n.before else 0
        let a := if peers then n.after else 0
        .next ((joined.zipIdx).foldl (fun s p => s.updScan p.1 n.group (fun x =>
          let dead := ((s.core? p.1).map Core.gone).getD true
          { (if code == 0 && !dead then x.enter lvl (b + p.2) keys b a else x) with join := none, decided := some code })) s)

/-- Whether the carry for a member is on its way: the one before it has sent C′ (R197, R203). -/
def State.carryDue (s : State) (g ci : Nat) (x : ScanIx) : Option (RegFile 6 ScanCell) :=
  match (s.before g ci x).bind s.core? with
  | none => none
  | some d =>
    let y := d.scans.at' g
    if x.joined && (!x.broken || x.spared) && !x.carryIn && y.gen == (x.gen + 1) % 2 ^ 16 then some y.sends else none

/-- SCAN_CARRY_ARRIVAL (R197, R205): the carry that the member before sent reaches this member's eyelet; to the first
member of this package it comes from another one, as does a break notice (note). -/
def execScanCarryArrival (ci : Nat) (n : CarryNews) (s : State) : Host.Outcome State Fault Refusal :=
  match s.core? ci with
  | none => .next s
  | some c =>
    let x := c.scans.at' n.group
    if n.note then .next (if x.joined && x.wide then s.breakHere n.group x else s)
    else match s.carryDue n.group ci x with
      | some y => .next (s.giveCarry ci n.group y)
      | none =>
        if (s.before n.group ci x).isNone && x.farBefore && x.joined && !x.broken && !x.carryIn then
          .next (s.giveCarry ci n.group (s.farCells n.group))
        else .next s

/-- Whether a carry or a total for a core is on its way within the package (R203). -/
def State.laced (s : State) (ci : Nat) (c : Core) : Bool :=
  [0, 1, 2, 3].any (fun g => (s.carryDue g ci (c.scans.at' g)).isSome || (c.scans.at' g).groupDue)

/-- SCAN_TOTAL_ARRIVAL (R198, R201). -/
def execScanTotalArrival (ci g : Nat) (s : State) : Host.Outcome State Fault Refusal :=
  .next (s.updScan ci g (fun x => if x.groupDue then { x with groupIn := true, groupDue := false } else x))

end Sys2Proof.Machine
end

