-- ==== Sys2Proof/Machine/Control.lean ====
section
/-! DEFINITION. Flags, loops, branches, the patch overlay, REP, fetch hints and state registers (spec/12, R301-R319), and
the words that a strand walks past or that fail the checks of R54 (spec/02, R38). -/
namespace Sys2Proof.Machine

/-- 8 times a sign-extended 20-bit displacement from a PC (R304, R305). -/
def relTarget (pc : BitVec 52) (f : FmtK) : BitVec 52 := pc + (f.imm.signExtend 52 <<< (3 : Nat))

/-- A control instruction of one word (R296): its body on the strand. -/
def control (h : Hdr) (body : At → State → Res) (s : State) : Host.Outcome State Fault Refusal :=
  s.issueWord h 1 noEarly noAgain body

/-- Changes the strand that executes. -/
def At.upd (v : At) (s : State) (g : Strand → Strand) : State := s.updStrand v.ci v.e g

/-- SETCF (R301, R302). -/
def execSetcf (h : Hdr) (f : FmtY) (s : State) :=
  control h (fun v s =>
    let n := f.idx.toNat
    let x := if f.ops.getLsbD 19 then f.ops.getLsbD 0 else s.readS v f.sa != 0
    if v.c.flagFree n then .done (s.updCore v.ci (fun c => c.writeFlag n x)) 0 else .wait (.flag n) s) s

/-- NEST (R303, R304): a count of 0 leaves the level active with a bound of 0, and the body is walked. -/
def execNest (h : Hdr) (f : FmtK) (s : State) :=
  control h (fun v s =>
    let l := f.lv.toNat
    .done (v.upd s (fun st => { st with
      lb := st.lb.put l f.imm, lc := st.lc.put l 0, lact := st.lact ||| (1#4 <<< l) })) 0) s

/-- ENDN (R303, R304). -/
def execEndn (h : Hdr) (f : FmtK) (s : State) :=
  control h (fun v s =>
    let l := f.lv.toNat
    let n := v.st.lc.at' l + 1
    if !v.st.lact.getLsbD l then .trap (illegalOp 0) s
    else
      let s1 := v.upd s (fun st => { st with lc := st.lc.put l n })
      if n.toNat < (v.st.lb.at' l).toNat then .jump (relTarget v.st.pc f) s1
      else .done (v.upd s1 (fun st => { st with lact := st.lact &&& ~~~(1#4 <<< l) })) 0) s

/-- BR (R305). -/
def execBr (h : Hdr) (f : FmtK) (s : State) :=
  control h (fun v s =>
    let n := f.cf.toNat
    if !v.st.cfok.getLsbD n then .wait (.flag n) s
    else
      let s1 := v.upd s (fun st => { st with cfok := putBit st.cfok n false })
      if v.st.cfv.getLsbD n != f.cn.getLsbD 0 then .jump (relTarget v.st.pc f) s1 else .done s1 0) s

/-- JMP to a label (R305). -/
def execJmp (h : Hdr) (f : FmtK) (s : State) := control h (fun v s => .jump (relTarget v.st.pc f) s) s

/-- CALL pushes the address after it (R305). -/
def At.pushRet (v : At) (s : State) : State := v.upd s (fun st => { st with ret := nextPc st.pc 1 :: st.ret })

/-- CALL to a label (R305). -/
def execCall (h : Hdr) (f : FmtK) (s : State) :=
  control h (fun v s =>
    if 16 ≤ v.st.ret.length then .trap (illegalOp 0) s else .jump (relTarget v.st.pc f) (v.pushRet s)) s

/-- RET (R305); an entry of a restored stack that is no instruction address faults as any target does (R69). -/
def execRet (h : Hdr) (_f : FmtK) (s : State) :=
  control h (fun v s =>
    match v.st.ret with
    | [] => .trap (illegalOp 0) s
    | pc :: rest =>
      if pc.toNat % 8 != 0 then .trap (alignFault pc.toNat) s
      else .jump pc (v.upd s (fun st => { st with ret := rest }))) s

/-- The strand's place in the jump slot's marks. -/
def Eng.mark (e : Eng) : BitVec 3 := 1#3 <<< e.tag

/-- The strand takes the target from the jump slot; after the third the slot is empty (R306). -/
def Core.takeJump (c : Core) (e : Eng) : Core :=
  let t := c.jumpTaken ||| e.mark
  if t == 7 then { c with jump := none, jumpTaken := 0 } else { c with jumpTaken := t }

/-- The strand whose ownership covers a scalar register reads it for a register-form transfer (R113, R306). -/
def Core.jumpReader (c : Core) (sa : BitVec 5) : Eng := if sa != 0 && c.sown.getLsbD sa.toNat then .v else .a

/-- A register-form JMP or CALL through the jump slot (R306). The reader checks the alignment of the target (R69). -/
def jumpThrough (f : FmtK) (v : At) (s : State) (enter : State → State) : Res :=
  if v.e == v.c.jumpReader f.sa then
    match v.c.jump with
    | some _ => .wait .jump s
    | none =>
      let t := s.readS v f.sa
      if t.toNat % 8 != 0 then .trap (alignFault t.toNat) s
      else
        let pc := t.extractLsb' 0 52
        .jump pc (enter (s.updCore v.ci (fun c => { c with jump := some pc }.takeJump v.e)))
  else
    match v.c.jump with
    | none => .wait .jump s
    | some pc =>
      if v.c.jumpTaken &&& v.e.mark != 0 then .wait .jump s
      else .jump pc (enter (s.updCore v.ci (fun c => c.takeJump v.e)))

/-- JMP to a register (R306). -/
def execJmpReg (h : Hdr) (f : FmtK) (s : State) := control h (fun v s => jumpThrough f v s (fun x => x)) s

/-- CALL to a register (R306). -/
def execCallReg (h : Hdr) (f : FmtK) (s : State) :=
  control h (fun v s =>
    if 16 ≤ v.st.ret.length then .trap (illegalOp 0) s else jumpThrough f v s v.pushRet) s

/-- EXIT (R193, R296, R307): the strand stops with its PC at the EXIT, which completes the arrivals that only it was
missing from (R225), and with the third the core exits, once its scan groups let it leave. -/
def execExit (h : Hdr) (_f : FmtK) (s : State) :=
  control h (fun v s =>
    let s1 := v.upd s (fun st => { st with exited := true })
    let out := (s1.coreOr v.ci v.c).strands.all (fun st => st.exited)
    match (if out then s.leaveHeld v.c else none) with
    | some g => .wait (.scan g 0) s
    | none =>
      .jump v.st.pc (if out then (s1.leaveScans v.ci).coreExit v.ci else s1.updCore v.ci Core.exitArrivals)) s

/-- NOP (R315). -/
def execNop (h : Hdr) (_f : FmtK) (s : State) := control h (fun _ s => .done s 0) s

/-- Whether a checkpoint of a task has been decided and is not yet made (R315, R361). -/
def TaskStage.checkpointed : TaskStage → Bool
  | .decided code => code.isNone
  | _ => false

/-- YIELD (R315): with a checkpoint decided the core freezes, this strand at the YIELD. -/
def execYield (h : Hdr) (_f : FmtK) (s : State) :=
  control h (fun v s =>
    match s.task? v.c.task with
    | some t =>
      if t.stage.checkpointed then .wait .none (s.updCore v.ci (fun c => { c.stop with freeze := true }))
      else .done s 0
    | none => .done s 0) s

/-- BRK (R315, R388). -/
def execBrk (h : Hdr) (f : FmtK) (s : State) := control h (fun _ s => .trap (trapOf 0x12 (bits f.imm.toNat 15 0) 0) s) s

/-- TRAP (R315, R388). -/
def execTrap (h : Hdr) (f : FmtK) (s : State) := control h (fun _ s => .trap (trapOf 0x13 (bits f.ops.toNat 7 0) 0) s) s

/-- A word that fails a check of R54 made before any register is read: ILLEGAL_OP with the number of the check. -/
def execIllegalWord (chk : BitVec 8) (s : State) : Host.Outcome State Fault Refusal :=
  match s.at? with
  | none => .next s
  | some v => .next (s.takeTrap v.ci v.e.tag (some v.e) (illegalOp chk.toNat))

/-- The level that a walked word closes: an ENDN met while a body is skipped (R304). -/
def closes (w : Word) : Option Nat :=
  if (Hdr.ofWord w).eng == 3 && opcBits w == 2 then some (bits w.toNat 32 31) else none

/-- A strand walks past a word (R38, R40, R304). -/
def execWalkedWord (w : BitVec 64) (s : State) : Host.Outcome State Fault Refusal :=
  match s.at? with
  | none => .next s
  | some v => .next (v.upd s (fun st =>
      let st1 := { st.advance (1 + (xwBits w).toNat) with wait := .none, fillBad := false }
      match closes w with
      | some l => if st.skipping && st.lb.at' l == 0 then { st1 with lact := st1.lact &&& ~~~(1#4 <<< l) } else st1
      | none => st1))

/-- The address of the target word of PATCH and PATCHCLR (R310). -/
def patchTarget (v : At) (f : FmtK) : BitVec 52 := nextPc v.st.pc f.imm.toNat

/-- The cause PATCH_RANGE or PATCH_LATE with its DETAIL (R388). -/
def patchTrap (late : Bool) (f : FmtK) : TrapInfo :=
  trapOf (if late then 9 else 8) (f.ops.toNat % 256 + 256 * (f.imm.toNat % 4096)) 0

/-- Whether some strand has fetched X for execution at a dwc greater than c (R310). -/
def Core.fetchedAfter (c : Core) (x : BitVec 52) (d : Nat) : Bool :=
  c.strands.any (fun st => st.history.any (fun p => p.2 == x && d < p.1))

/-- The value that PATCH takes from its register (R309). -/
def patchValue (code : Nat) (x : Word) : Int := if code == 0x0D then x.toInt else (x.toNat : Int)

/-- What PATCH and PATCHCLR do once they have read the target (R310): value is none for PATCHCLR. -/
def patchStep (f : FmtK) (v : At) (value : Option Int) (ws : List Word) (s : State) : Res :=
  let code := f.ops.toNat
  let x := patchTarget v f
  let here := fun (p : PatchEntry) => p.x == x && p.field.toNat == code
  match (match decode ws with
    | .ok i => patchPlace code i
    | .error _ => none) with
  | none => .trap (patchTrap false f) s
  | some _ =>
    if (match value with
      | some n => !patchRange code n
      | none => false) then .trap (patchTrap false f) s
    else if v.c.fetchedAfter x v.st.dwc.toNat then .trap (patchTrap true f) s
    else match value with
      | none => .done (s.updCore v.ci (fun c => { c with overlay := c.overlay.filter (fun p => !here p) })) 0
      | some n =>
        if v.c.overlay.any here then
          .done (s.updCore v.ci (fun c => { c with overlay := c.overlay.map (fun p =>
            if here p then { p with value := BitVec.ofInt 32 n } else p) })) 0
        else if 16 ≤ v.c.overlay.length then .trap (patchTrap false f) s
        else .done (s.updCore v.ci (fun c => { c with overlay := c.overlay ++
          [{ x := x, field := BitVec.ofNat 8 code, value := BitVec.ofInt 32 n }] })) 0

/-- PATCH and PATCHCLR read the target through the instruction caches (R310). -/
def patchBody (f : FmtK) (value : State → At → Option Int) (v : At) (s : State) : Res :=
  let d := f.imm.toNat
  let code := f.ops.toNat
  if d == 0 || 4095 < d || code == 0 || 15 < code then .trap (patchTrap false f) s
  else
    let stop := fun (r : Fetch) (t : State) => match r with
      | .trap e => Res.trap e (t.holdFault v.ci e)
      | .hold x => .wait (.fill x.va false) (t.holdFill v.ci x)
      | .got _ t => .wait .none t
    match s.fetchWords v.ci v.st.fillBad 1 (patchTarget v f) with
    | .got (w :: _) s1 =>
      match s1.fetchWords v.ci v.st.fillBad (xwBits w).toNat (nextPc (patchTarget v f) 1) with
      | .got ext s2 => patchStep f v (value s v) (w :: ext) s2
      | r => stop r s1
    | r => stop r s

/-- PATCH (R308-R310). -/
def execPatch (h : Hdr) (f : FmtK) (s : State) :=
  control h (patchBody f (fun s v => some (patchValue f.ops.toNat (s.readS v f.sa)))) s

/-- PATCHCLR of one field (R308, R310). -/
def execPatchclr (h : Hdr) (f : FmtK) (s : State) := control h (patchBody f (fun _ _ => none)) s

/-- PATCHCLR of the whole overlay (R308, R310). -/
def execPatchclrAll (h : Hdr) (f : FmtK) (s : State) :=
  control h (fun v s =>
    if v.c.overlay.any (fun p => v.c.fetchedAfter p.x v.st.dwc.toNat) then .trap (patchTrap true f) s
    else .done (s.updCore v.ci (fun c => { c with overlay := [] })) 0) s

/-- The scalar register that an instruction writes, for the ownership check of R113 over the repetitions of a REP. -/
def scalarDest : Instr → Option (BitVec 5)
  | .add _ f | .sub _ f | .mul _ f | .mulh _ f | .mulhu _ f | .div _ f | .divu _ f | .rem _ f | .remu _ f | .and _ f
  | .or _ f | .xor _ f | .shl _ f | .shr _ f | .sar _ f | .cmpeq _ f | .cmplt _ f | .cmpltu _ f | .sel _ f | .min _ f
  | .max _ f | .minu _ f | .maxu _ f | .mov _ f | .clz _ f | .popc _ f => some f.sd
  | .addi _ f | .andi _ f | .ori _ f | .xori _ f | .li _ f | .lih _ f => some f.sd
  | .waittTake _ f | .stgacqW _ f | .stgacqR _ f | .tlrd _ f | .itrd _ f | .csrr _ f | .append _ f | .wlpop _ f
  | .scanjoin _ f => some f.sd
  | .lds _ f | .ldsW _ f | .atom _ f | .cas _ f => some f.sd
  | .wstat _ f => some f.sd
  | .pcnt _ f => some f.sd
  | .vextr _ f | .vred _ f => some f.vd
  | _ => none

/-- The instructions that REP may not repeat (R313). -/
def notRepeated (w : Word) : Bool :=
  match decode [w, 0, 0, 0] with
  | .ok (.rep _ _) | .ok (.patch _ _) | .ok (.patchclr _ _) | .ok (.patchclrAll _ _) | .ok (.setcf _ _)
  | .ok (.csrw _ _) | .ok (.stgcfg _ _ _) | .ok (.wroute _ _ _ _) | .ok (.wrouteFree _ _ _ _) => true
  | _ => false

/-- The first check of R54 that one repetition's word fails (R314). -/
def repCheck (s : State) (v : At) (ws : List Word) : Option TrapInfo :=
  match decode ws with
  | .error (.check n) => some (illegalOp n)
  | .error _ => some (illegalOp 4)
  | .ok i =>
    let prof := profOf (ws.headD 0)
    if !s.declares v.c.task prof then some (trapOf 2 prof 0)
    else if !check6 i then some (illegalOp 6)
    else if !tyStatic i then some (illegalOp 7)
    else (v.tyCheck i).or ((scalarDest i).bind v.ownCheck)

/-- Whether a stepped field is RSV in a word: zero is the only value that passes check 6 (R314). -/
def fieldUnused (ws : List Word) (hi lo : Nat) : Bool :=
  (List.range (2 ^ (hi + 1 - lo))).all (fun x => x == 0 ||
    (match decode (modifyAt ws 0 (fun w => BitVec.ofNat 64 (setBits w.toNat hi lo x))) with
      | .ok i => !check6 i
      | .error _ => true))

/-- A step that is nonzero on a field that the word leaves RSV (R314). -/
def stepUnused (rw : Word) (ws : List Word) : Bool :=
  ((stepBits (wordFormat (ws.headD 0))).zipIdx).any (fun p =>
    match p.1 with
    | none => false
    | some (hi, lo) => bits rw.toNat (2 * p.2 + 1) (2 * p.2) != 0 && fieldUnused ws hi lo)

/-- The checks of a REP over the words it repeats (R313, R314). -/
def repBad (s : State) (v : At) (rw : Word) (n : Nat) (ws : List Word) : Option TrapInfo :=
  let w := ws.headD 0
  if (Hdr.ofWord w).eng.toNat != v.e.tag || notRepeated w || !stepsOk rw w n || stepUnused rw ws then some (illegalOp 0)
  else firstTrap (List.range n) (fun t => repCheck s v (repWords rw ws t))

/-- A REP takes its tokens and its number, and the strand holds it with the words it repeats (R68, R314). -/
def At.enterRep (v : At) (h : Hdr) (n : Nat) (ws : List Word) (s : State) : State :=
  let now := s.iclk v.c
  (v.issue h s).updCore v.ci (fun c =>
    let c := v.free h.dly.toNat now c
    c.setStrand v.e { c.strand v.e with repn := BitVec.ofNat 7 n, held := some ws })

/-- A REP whose words are fetched: its checks, its tokens, and its entry; while it waits the strand holds those words (R311,
R314). -/
def At.issueRep (v : At) (h : Hdr) (n : Nat) (rw : Word) (ws : List Word) (s : State) : State :=
  match repBad s v rw n ws with
  | some t => s.takeTrap v.ci v.e.tag (some v.e) t
  | none =>
    let s1 := v.upd s (fun st => { st.noteFetch (st.dwc.toNat + 1) (nextPc v.st.pc 1) with held := some (rw :: ws) })
    match v.c.lacking (popsOf h v.e) with
    | some k => s1.waitOn v.ci v.e (.token k.toNat)
    | none => v.enterRep h n (rw :: ws) s1

/-- REP (R313, R314): its word is the first of the words that the strand holds; those it repeats are fetched once. -/
def execRep (h : Hdr) (f : FmtK) (s : State) : Host.Outcome State Fault Refusal :=
  match s.at? with
  | none => .next s
  | some v =>
    let n := bits f.ops.toNat 5 0 + 1
    let x := nextPc v.st.pc 1
    match v.st.held with
    | none => .next s
    | some [] => .next s
    | some (rw :: w :: ws) => .next (v.issueRep h n rw (w :: ws) s)
    | some [rw] =>
      match s.fetchWords v.ci v.st.fillBad 1 x with
      | .got (w :: _) s1 =>
        match leadCheck w with
        | some k => .next (s.takeTrap v.ci v.e.tag (some v.e) (illegalOp k))
        | none =>
          match s1.fetchWords v.ci v.st.fillBad (xwBits w).toNat (nextPc x 1) with
          | .got ext s2 => .next (v.issueRep h n rw (v.c.overlaid x (w :: ext)) s2)
          | r => .next (s1.fetchStop v.ci v.e r)
      | r => .next (s.fetchStop v.ci v.e r)

/-- IPREF (R316): a hint; the model drops it. -/
def execIpref (h : Hdr) (_f : FmtY) (s : State) := control h (fun _ s => .done s 0) s

/-- The 128-byte lines of a range of bytes (R316). -/
def pinLines (va n : Nat) : List Nat :=
  if n == 0 then [] else (List.range ((va + n - 1) / 128 - va / 128 + 1)).map (fun i => va / 128 + i)

/-- Lines that a cache may pin: half of 64 KiB, or of 1 MiB (R316). -/
def pinLimit (cl : Bool) : Nat := if cl then 4096 else 256

/-- Whether a line lies on a present, executable page (R316). -/
def State.lineFetches (s : State) (c : Core) (line : Nat) : Bool :=
  decide (line * 128 < 2 ^ 52) && (match s.xlateCore c .fetch (line * 128) with
    | .ok _ _ _ => true
    | _ => false)

/-- The lines that IPIN would pin, or none where the pin fails (R316). -/
def State.pinsOf (s : State) (v : At) (f : FmtY) : Option (List Pin) :=
  let va := (s.readS v f.sa).toNat
  let n := (s.readS v f.sb).toNat
  let cl := f.ops.getLsbD 0
  if 128 * pinLimit cl < n then none
  else
    let ls := pinLines va n
    let held := if cl then (s.clusters.at' (s.phys v.c)).pins else v.c.pins
    let all := (ls.filter (fun l => !held.any (fun p => p.line == l))).length
      + ((held.map (fun p => p.line)).eraseDups).length
    if pinLimit cl < all || ls.any (fun l => !s.lineFetches v.c l) then none
    else some ((ls.map (fun l => { line := l, core := v.c.vcore })).filter (fun p => !held.contains p))

/-- IPIN (R301, R316). -/
def execIpin (h : Hdr) (f : FmtY) (s : State) :=
  control h (fun v s =>
    let n := f.idx.toNat
    if !v.c.flagFree n then .wait (.flag n) s
    else match s.pinsOf v f with
      | none => .done (s.updCore v.ci (fun c => c.writeFlag n false)) 0
      | some ps =>
        let s1 := s.updCore v.ci (fun c => c.writeFlag n true)
        .done (if f.ops.getLsbD 0 then s1.updCluster (s.phys v.c) (fun k => { k with pins := k.pins ++ ps })
          else s1.updCore v.ci (fun c => { c with pins := c.pins ++ ps })) 0) s

/-- IUNPIN (R316). -/
def execIunpin (h : Hdr) (f : FmtY) (s : State) :=
  control h (fun v s =>
    let va := (s.readS v f.sa).toNat
    let n := (s.readS v f.sb).toNat
    let keep := fun (p : Pin) => p.core != v.c.vcore || n == 0 || p.line < va / 128 || (va + n - 1) / 128 < p.line
    .done (if f.ops.getLsbD 0 then s.updCluster (s.phys v.c) (fun k => { k with pins := k.pins.filter keep })
      else s.updCore v.ci (fun c => { c with pins := c.pins.filter keep })) 0) s

/-- ESTIM (R317). -/
def execEstim (h : Hdr) (f : FmtY) (s : State) :=
  control h (fun v s => .done (s.updCore v.ci (fun c => { c with estim := s.readS v f.sa })) 0) s

/-- The value of a numbered state register (R318). -/
def csrValue (s : State) (v : At) (n : Nat) : Word :=
  if n == 0 then v.c.sown
  else if n == 1 then v.c.slipw.zeroExtend 64
  else if n == 2 then v.c.ftsel
  else if n == 3 then v.c.rseed
  else if n == 4 then v.c.mprog
  else if n == 5 then v.c.its
  else if n == 6 then v.c.wlt
  else if n == 7 then s.mgmt.fnmode
  else if n == 8 then v.st.dwc
  else if n == 9 then (match s.task? v.c.task with
    | some t => BitVec.ofNat 64 t.late
    | none => 0)
  else if n < 0x10 then (v.st.lc.at' (n - 0xC)).zeroExtend 64
  else if n < 0x20 then (v.c.ft.at' (n - 0x10)).zeroExtend 64
  else if n < 0x28 then v.c.dm.at' (n - 0x21)
  else (s.readScan v (n - 0x28)).scg

/-- CSRR (R318). -/
def execCsrr (h : Hdr) (f : FmtY) (s : State) := s.scalarOp h f.sd 3 (fun v s => csrValue s v (bits f.ops.toNat 11 0))

/-- Whether a value sets a RSV bit of a state register, or is outside its range (R109, R110, R113, R162, R170, R297,
R318). -/
def csrBad (n : Nat) (x : Word) : Bool :=
  let x := x.toNat
  if n == 0 then bitAt x 0 || !rsv x 63 32
  else if n == 1 then x < 16 || 4096 < x
  else if n == 2 then !rsv x 63 2
  else if n == 3 then false
  else if n == 4 then !rsv x 61 34 || !rsv x 29 13
  else if n == 5 then !rsv x 49 48 || !rsv x 39 32
  else !rsv x 63 8 || !rsv x 5 4

/-- CSRW to mprog (R162): KDONE, PASS and PSN are written while V = 1; V = 0 abandons; V = 1 on an idle register is
ignored. -/
def Core.writeMprog (c : Core) (x : Word) : Core :=
  if !x.getLsbD 63 then c.dropMmul
  else
    let y := mprogOf (x.getLsbD 62) (bits x.toNat 33 32) (c.mprog.extractLsb' 30 2) (bits x.toNat 12 0)
    if c.mmulOpen then { c with mprog := y } else c

/-- CSRW to its (R170, R180). -/
def Core.writeIts (c : Core) (x : Word) : Core :=
  { (if c.miterOpen && !x.getLsbD 63 then c.dropMiter else c) with its := x }

/-- The core after a CSRW (R318). -/
def csrWrite (n : Nat) (x : Word) (c : Core) : Core :=
  if n == 0 then { c with sown := x }
  else if n == 1 then { c with slipw := BitVec.ofNat 13 x.toNat }
  else if n == 2 then { c with ftsel := x }
  else if n == 3 then { c with rseed := x }
  else if n == 4 then c.writeMprog x
  else if n == 5 then c.writeIts x
  else { c with ft := c.ft.put (n - 0x10) (BitVec.ofNat 16 x.toNat) }

/-- CSRW (R318, R319). -/
def execCsrw (h : Hdr) (f : FmtY) (s : State) :=
  control h (fun v s =>
    let n := bits f.ops.toNat 11 0
    let x := s.readS v f.sa
    if csrBad n x then .trap (illegalOp 0) s
    else if (n == 4 || n == 5) && v.c.strandM.busy then .wait .mstrand s
    else .done (s.updCore v.ci (csrWrite n x)) 0) s

/-- TLRD (R277): the completion counter, or the issue count, of a timeline. -/
def execTlrd (h : Hdr) (f : FmtY) (s : State) :=
  s.scalarOp h f.sd 3 (fun v _ =>
    let t := v.c.tls.at' f.idx.toNat
    if f.ops.getLsbD 0 then t.iss else t.comp)

end Sys2Proof.Machine
end

