-- ==== Sys2Proof/Machine/Pk1.lean ====
section
/-! DEFINITION. The PK1 format: streams, chunks, canonical codes, and its deterministic encoder (spec/10, R256-R259). -/
namespace Sys2Proof.Machine

/-- MAGIC of a stream (R256). -/
abbrev pk1Magic : Nat := 0x53314B50

/-- The bits of bytes in stream order (R257). -/
def bitStream (bs : List (BitVec 8)) : List Bool := bs.flatMap (fun b => tabulate 8 (fun i => b.getLsbD i))

/-- A raw field: the sum of bit_j * 2^j (R257). -/
def rawField : List Bool → Nat
  | [] => 0
  | b :: bs => (if b then 1 else 0) + 2 * rawField bs

/-- The w bits of a raw field. -/
def rawBits : Nat → Nat → List Bool
  | 0, _ => []
  | w + 1, x => (x % 2 == 1) :: rawBits w (x / 2)

/-- Bits packed into bytes, zero-padded to a whole byte (R257); n bounds the number of bytes. -/
def packBits : Nat → List Bool → List (BitVec 8)
  | 0, _ => []
  | n + 1, bs => if bs.isEmpty then [] else BitVec.ofNat 8 (rawField (bs.take 8)) :: packBits n (bs.drop 8)

/-- A code of the table: symbol, length, code. -/
abbrev CodeRow := Nat × Nat × Nat

/-- The canonical codes of 16 code lengths (R258). -/
def canonCodes (lens : List Nat) : List CodeRow :=
  let rows := (tabulate 15 (fun k => k + 1)).flatMap (fun l =>
    ((List.range 16).filter (fun y => lens.getD y 0 == l)).map (fun y => (y, l)))
  (rows.foldl (fun (acc : Option (Nat × Nat) × List CodeRow) r =>
    let code := match acc.1 with
      | none => 0
      | some (pc, pl) => (pc + 1) * 2 ^ (r.2 - pl)
    (some (code, r.2), acc.2 ++ [(r.1, r.2, code)])) (none, [])).2

/-- Whether 16 code lengths make a table that is not malformed (R258). -/
def lensOk (lens : List Nat) : Bool :=
  let ls := lens.filter (fun l => l != 0)
  (ls.map (fun l => 2 ^ (15 - l))).sum == 2 ^ 15 || ls == [1]

/-- Reads one prefix code, most significant bit first (R257): the symbol and the bits left. -/
def readSymbol (t : List CodeRow) : Nat → Nat → Nat → List Bool → Option (Nat × List Bool)
  | 0, _, _, _ => none
  | _ + 1, _, _, [] => none
  | k + 1, acc, l, b :: bs =>
    let code := 2 * acc + (if b then 1 else 0)
    match t.find? (fun r => r.2.1 == l + 1 && r.2.2 == code) with
    | some r => some (r.1, bs)
    | none => readSymbol t k code (l + 1) bs

/-- The bits of a code, most significant first. -/
def codeBits (r : CodeRow) : List Bool := tabulate r.2.1 (fun i => bitAt r.2.2 (r.2.1 - 1 - i))

/-- Bits of the raw field of an element of a coded chunk (R257). -/
def rawWidth (ct : Nat) : Nat := if ct == 1 then 8 else if ct == 2 then 11 else 4
/-- Bytes of an element of a coded chunk. -/
def elemBytes (ct : Nat) : Nat := if ct == 3 then 1 else 2
/-- Bits of an escaped exponent (R257). -/
def escWidth (ct : Nat) : Nat := if ct == 1 then 8 else 5
/-- Bits below the exponent (R257). -/
def mantWidth (ct : Nat) : Nat := if ct == 1 then 7 else 10

/-- The element of a raw field and an exponent or high nibble (R257). -/
def joinElem (ct raw hi : Nat) : Nat :=
  if ct == 3 then raw + 16 * hi
  else
    let m := mantWidth ct
    raw % 2 ^ m + hi * 2 ^ m + raw / 2 ^ m * 2 ^ 15

/-- The raw field of an element (R257). -/
def elemRaw (ct x : Nat) : Nat :=
  if ct == 3 then x % 16
  else
    let m := mantWidth ct
    x % 2 ^ m + x / 2 ^ 15 * 2 ^ m

/-- The exponent or high nibble of an element (R257). -/
def elemHigh (ct x : Nat) : Nat := if ct == 3 then x / 16 else bits x 14 (mantWidth ct)

/-- Decodes the code section of n elements beside their raw fields (R257, R258). -/
def decodeElems (ct base : Nat) (t : List CodeRow) : List Nat → List Bool → Option (List Nat)
  | [], _ => some []
  | raw :: raws, bs =>
    match readSymbol t 15 0 0 bs with
    | none => none
    | some (y, bs1) =>
      let esc := ct != 3 && y == 15
      let w := escWidth ct
      if esc && bs1.length < w then none
      else
        let hi := if esc then rawField (bs1.take w) else if ct == 3 then y else base + y
        let rest := if esc then bs1.drop w else bs1
        if ct != 3 && 2 ^ w ≤ hi then none
        else (decodeElems ct base t raws rest).map (fun xs => joinElem ct raw hi :: xs)

/-- RAWLEN of a chunk header, where it is valid (R257). -/
def chunkRaw (hdr : List (BitVec 8)) : Option Nat :=
  let n := fieldAt hdr 2 2
  let ct := fieldAt hdr 0 1
  if 1 ≤ n && n ≤ 4096 && (n % 2 == 0 || (ct != 1 && ct != 2)) then some n else none

/-- Bytes that a malformed chunk writes (R258). -/
def chunkSize (hdr : List (BitVec 8)) : Nat := (chunkRaw hdr).getD 4096

/-- Code lengths of a chunk header (R257). -/
def chunkLens (hdr : List (BitVec 8)) : List Nat := tabulate 16 (fun i => bits (fieldAt hdr 8 8) (4 * i + 3) (4 * i))

/-- Decodes a chunk from its header and its CLEN payload bytes; none when it is malformed (R257, R258). -/
def decodeChunk (hdr payload : List (BitVec 8)) : Option (List (BitVec 8)) :=
  let ct := fieldAt hdr 0 1
  let base := fieldAt hdr 1 1
  match chunkRaw hdr with
  | none => none
  | some n =>
    if ct == 0 then (if base == 0 && payload.length == n then some payload else none)
    else if 4 ≤ ct || (ct == 3 && base != 0) || (ct != 3 && n % 2 != 0) || !lensOk (chunkLens hdr) then none
    else
      let w := rawWidth ct
      let k := n / elemBytes ct
      let rawBytes := ceilDiv (k * w) 8
      if payload.length < rawBytes then none
      else
        let rb := bitStream (payload.take rawBytes)
        let raws := tabulate k (fun i => rawField ((rb.drop (i * w)).take w))
        (decodeElems ct base (canonCodes (chunkLens hdr)) raws (bitStream (payload.drop rawBytes))).map
          (fun xs => xs.flatMap (leBytes (elemBytes ct)))

/-- A node of the length procedure: count, second key, and the depth of each of its symbols (R259). -/
abbrev HuffNode := Nat × Nat × List (Nat × Nat)

/-- Order of node keys (R259). -/
def nodeLess (a b : HuffNode) : Bool := a.1 < b.1 || (a.1 == b.1 && a.2.1 < b.2.1)

/-- Puts a node in its place in a list sorted by key. -/
def insertNode (a : HuffNode) : List HuffNode → List HuffNode
  | [] => [a]
  | b :: bs => if nodeLess a b then a :: b :: bs else b :: insertNode a bs

/-- Merges the two smallest nodes until one is left (R259). -/
def mergeNodes : Nat → Nat → List HuffNode → List (Nat × Nat)
  | 0, _, _ => []
  | _ + 1, _, [] => []
  | _ + 1, _, [a] => if a.2.1 < 16 then a.2.2.map (fun p => (p.1, 1)) else a.2.2
  | k + 1, m, a :: b :: rest =>
    mergeNodes k (m + 1) (insertNode (a.1 + b.1, 16 + m, (a.2.2 ++ b.2.2).map (fun p => (p.1, p.2 + 1))) rest)

/-- The code lengths of 16 symbol counts (R259). -/
def codeLens (counts : List Nat) : List Nat :=
  let nodes := (List.range 16).foldl (fun l y =>
    let n := counts.getD y 0
    if n == 0 then l else insertNode (n, y, [(y, 0)]) l) ([] : List HuffNode)
  let ds := mergeNodes 17 0 nodes
  tabulate 16 (fun y => ((ds.find? (fun p => p.1 == y)).map (fun p => p.2)).getD 0)

/-- The elements of raw bytes. -/
def elemsOfBytes (ct : Nat) (raw : List (BitVec 8)) : List Nat :=
  tabulate (raw.length / elemBytes ct) (fun i => fieldAt raw (elemBytes ct * i) (elemBytes ct))

/-- Symbol of a high part under a base (R257). -/
def symbolOf (ct base hi : Nat) : Nat := if ct == 3 then hi else Nat.min (hi - base) 15

/-- A chunk: header, payload and padding to a multiple of 8 (R257). -/
def chunkBytes (ct base rawLen ltab : Nat) (payload : List (BitVec 8)) : List (BitVec 8) :=
  leBytes 1 ct ++ leBytes 1 base ++ leBytes 2 rawLen ++ leBytes 4 payload.length ++ leBytes 8 ltab ++ payload
    ++ leBytes ((8 - payload.length % 8) % 8) 0

/-- Encodes the raw bytes of a chunk with the requested type (R259). -/
def encodeChunk (fmt : Nat) (raw : List (BitVec 8)) : List (BitVec 8) :=
  let stored := chunkBytes 0 0 raw.length 0 raw
  if fmt == 0 || (fmt != 3 && raw.length % 2 != 0) then stored
  else
    let xs := elemsOfBytes fmt raw
    let base := if fmt == 3 then 0 else ((xs.map (elemHigh fmt)).min?).getD 0
    let syms := xs.map (fun x => symbolOf fmt base (elemHigh fmt x))
    let lens := codeLens (tabulate 16 (fun y => syms.count y))
    let table := canonCodes lens
    let rawSec := packBits raw.length (xs.flatMap (fun x => rawBits (rawWidth fmt) (elemRaw fmt x)))
    let code := fun x =>
      let y := symbolOf fmt base (elemHigh fmt x)
      (match table.find? (fun r => r.1 == y) with
        | some r => codeBits r
        | none => []) ++ (if fmt != 3 && y == 15 then rawBits (escWidth fmt) (elemHigh fmt x) else [])
    let bs := xs.flatMap code
    let codeSec := packBits bs.length bs
    let payload := rawSec ++ codeSec
    if raw.length ≤ payload.length then stored
    else chunkBytes fmt base raw.length (leNat (tabulate 8 (fun i =>
      BitVec.ofNat 8 (lens.getD (2 * i) 0 + 16 * lens.getD (2 * i + 1) 0)))) payload

/-- The header of a stream (R256). -/
def streamHeader (nch rawLen idxOff : Nat) : List (BitVec 8) :=
  leBytes 4 pk1Magic ++ leBytes 4 nch ++ leBytes 8 rawLen ++ leBytes 8 idxOff ++ leBytes 8 0

/-- Whether a stream header is well formed (R256). -/
def streamOk (hdr : List (BitVec 8)) : Bool := fieldAt hdr 0 4 == pk1Magic && fieldAt hdr 24 8 == 0

end Sys2Proof.Machine
end

