-- ==== Sys2Proof/Machine/Sync.lean ====
section
/-! DEFINITION. FENCE, timelines, stages, and what a strand does at a barrier, at DMSET and at QUIESCE (spec/11,
R274-R293). -/
namespace Sys2Proof.Machine

/-- Whether the accesses that happen before the strand's next event have been performed: all but the REDs of the core are
performed as they issue, and tokens carry those to every strand of the core (R219, R222; log entry 2). -/
def At.settled (v : At) (s : State) : Bool := !s.redsPending v.c

/-- An instruction of format Y without a register result. -/
def syncOp (h : Hdr) (body : At → State → Res) (s : State) : Host.Outcome State Fault Refusal :=
  s.issueWord h 1 noEarly noAgain body

/-- What FENCE, WAITT, STGACQ and STGREL of the M strand do as they issue, as any M instruction does (R162, R180; log entry
58). -/
def At.asM (v : At) (s : State) : State := if v.e == .m then s.updCore v.ci Core.abandon else s

/-- FENCE (R274). -/
def execFence (h : Hdr) (_f : FmtY) (s : State) :=
  syncOp h (fun v s => if v.settled s then .done (v.asM s) 0 else .wait .home s) s

/-- The number that WAITT names (R275). -/
def waittN (f : FmtY) (v : At) (s : State) : Nat :=
  if f.ops.getLsbD 19 then bits f.ops.toNat 15 0 else (s.readS v f.sa).toNat

/-- Whether the strand is the only issuer of a timeline (R275). -/
def onlyIssuer (e : Eng) (k : Nat) : Bool :=
  match e with
  | .a => k ≤ 2 || k == 4
  | .m => k == 3
  | .v => false

/-- WAITT, the wait (R275). -/
def execWaitt (h : Hdr) (f : FmtY) (s : State) :=
  syncOp h (fun v s =>
    let k := f.idx.toNat
    let n := waittN f v s
    let t := v.c.tls.at' k
    if onlyIssuer v.e k && t.iss.toNat < n then .trap (illegalOp 0) s
    else if n ≤ t.comp.toNat then .done (v.asM s) 0
    else .wait (.timeline k n) s) s

/-- WAITT.take (R275). -/
def execWaittTake (h : Hdr) (f : FmtY) (s : State) : Host.Outcome State Fault Refusal :=
  s.issueWord h 1 (fun v _ => v.ownCheck f.sd) noAgain (fun v s =>
    let r := (((v.asM s).coreOr v.ci v.c)).takeNum f.idx.toNat
    .done (v.putS ((v.asM s).updCore v.ci (fun c => (c.takeNum f.idx.toNat).2)) f.sd (BitVec.ofNat 64 r.1) 2) 2)

/-- WAITT.sig (R275, R276). -/
def execWaittSig (h : Hdr) (f : FmtY) (s : State) :=
  syncOp h (fun v s =>
    let k := f.idx.toNat
    let n := waittN f v s
    let t := v.c.tls.at' k
    if t.iss.toNat < n then .trap (illegalOp 0) s
    else if !v.settled s then .wait .home s
    else .done ((v.asM s).updCore v.ci (fun c =>
      let t := c.tls.at' k
      { c with tls := c.tls.put k { t with comp := BitVec.ofNat 64 (Nat.max t.comp.toNat n) } })) 0) s

/-- Slots of a configured stage (R278). -/
def stageN (w : BitVec 64) : Nat := bits w.toNat 19 16 + 1

/-- The slot that a sequence number names (R280). -/
def stageSlot (w : BitVec 64) (q : Nat) : Nat := q % stageN w

/-- The window address of the slot of a sequence number (R280). -/
def stageAddr (w : BitVec 64) (q : Nat) : Nat := bits w.toNat 63 38 + stageSlot w q * bits w.toNat 37 20

/-- The counters of the slot of a sequence number (R280). -/
def Stage.at (x : Stage) (w : BitVec 64) (q : Nat) : StageSlot := x.slots.at' (stageSlot w q)

/-- STGREL.w on a stage; none is STAGE_FAULT (R280). -/
def Stage.relW (x : Stage) (q : Nat) : Option Stage :=
  match x.word with
  | none => none
  | some w =>
    let k := x.at w q
    if k.seq.toNat != q || k.pct == bits w.toNat 15 8 then none
    else some { x with slots := x.slots.put (stageSlot w q) { k with pct := k.pct + 1 } }

/-- STGREL.r on a stage; none is STAGE_FAULT (R280). -/
def Stage.relR (x : Stage) (q : Nat) : Option Stage :=
  match x.word with
  | none => none
  | some w =>
    let k := x.at w q
    if k.seq.toNat != q || k.pct < bits w.toNat 15 8 || k.cct == bits w.toNat 7 0 then none
    else
      let k1 : StageSlot :=
        if k.cct + 1 == bits w.toNat 7 0 then { seq := k.seq + BitVec.ofNat 64 (stageN w), pct := 0, cct := 0 }
        else { k with cct := k.cct + 1 }
      some { x with slots := x.slots.put (stageSlot w q) k1 }

/-- What an acquire finds: STAGE_FAULT, a wait, or the slot's window address (R280). -/
inductive Acq where
  | fault | wait | ok (a : Nat)

/-- STGACQ.w and STGACQ.r on a stage (R280). -/
def Stage.acquire (x : Stage) (q : Nat) (reader : Bool) : Acq :=
  match x.word with
  | none => .fault
  | some w =>
    let k := x.at w q
    let full := k.pct == bits w.toNat 15 8
    if q < k.seq.toNat || (!reader && q == k.seq.toNat && full) then .fault
    else if k.seq.toNat == q && (!reader || full) then .ok (stageAddr w q)
    else .wait

/-- STGACQ (R280, R293). -/
def stgacq (h : Hdr) (f : FmtY) (reader : Bool) (s : State) : Host.Outcome State Fault Refusal :=
  s.issueWord h 1 (fun v _ => if v.e == .m then none else v.ownCheck f.sd) noAgain (fun v s =>
    let k := f.idx.toNat
    let q := (s.readS v f.sa).toNat
    match (v.c.stages.at' k).acquire q reader with
    | .fault => .trap (stageFault k) s
    | .wait => .wait (.stage k q reader) s
    | .ok a => .done (if v.e == .m then v.asM s else v.putS s f.sd (BitVec.ofNat 64 a) 2) 2)

/-- STGACQ.w (R280). -/
def execStgacqW (h : Hdr) (f : FmtY) (s : State) := stgacq h f false s
/-- STGACQ.r (R280). -/
def execStgacqR (h : Hdr) (f : FmtY) (s : State) := stgacq h f true s

/-- STGREL (R280, R281): made once the strand's earlier accesses are performed. -/
def stgrel (h : Hdr) (f : FmtY) (rel : Stage → Nat → Option Stage) (s : State) : Host.Outcome State Fault Refusal :=
  syncOp h (fun v s =>
    let k := f.idx.toNat
    match rel (v.c.stages.at' k) (s.readS v f.sa).toNat with
    | none => .trap (stageFault k) s
    | some x =>
      if !v.settled s then .wait .home s
      else .done ((v.asM s).updCore v.ci (fun c => { c with stages := c.stages.put k x })) 0) s

/-- STGREL.w (R280). -/
def execStgrelW (h : Hdr) (f : FmtY) (s : State) := stgrel h f Stage.relW s
/-- STGREL.r (R280). -/
def execStgrelR (h : Hdr) (f : FmtY) (s : State) := stgrel h f Stage.relR s

/-- The stage that an accepted copy releases (R252). -/
def Copy.stage? (x : Copy) : Option Nat :=
  match x.kind with
  | .tcopy =>
    let e2 := (x.ext.getD 1 0).toNat
    if bitAt e2 19 then some (bits e2 18 16) else none
  | _ => none

/-- Every copy of a core that is accepted and not done. -/
def Core.copies (c : Core) : List Copy :=
  (List.range 4).flatMap (fun k => (c.chans.at' k).queue ++ (c.chans.at' k).ending)

/-- The slot whose core owns the stage that a TCOPY releases (R252). -/
def Copy.stageOwner (x : Copy) (s : State) (c : Core) : Nat :=
  match regionOf x.dw.base.toNat with
  | some .tiles => x.dw.base.toNat / Config.tileBytes
  | _ => s.slot c

/-- The accepted copies of a core that have still to make what they owe a stage (R252). -/
def Core.releasing (c : Core) : List Copy :=
  (List.range 4).flatMap (fun k => (c.chans.at' k).queue ++ (c.chans.at' k).ending.filter (fun x => x.owed))

/-- Whether an accepted copy of any core of the cluster is to release a stage of core number ci (R252, R279). -/
def State.releaseDue (s : State) (ci k : Nat) : Bool :=
  s.cores.any (fun c => c.releasing.any (fun x =>
    x.stage? == some k && (s.coreAt (s.phys c) (x.stageOwner s c)).any (fun o => o.1 == ci)))

/-- Whether a strand is held in STGACQ on a stage (R279). -/
def Strand.holdsStage (st : Strand) (k : Nat) : Bool :=
  match st.wait with
  | .stage j _ _ => j == k && st.held.isSome
  | _ => false

/-- STGCFG (R279). -/
def execStgcfg (h : Hdr) (f : FmtY) (e1 : BitVec 64) (s : State) : Host.Outcome State Fault Refusal :=
  s.issueWord h 2 noEarly noAgain (fun v s =>
    let k := f.idx.toNat
    let e := e1.toNat
    let base := bits e 63 38
    let last := base + stageN e1 * bits e 37 20 - 1
    if base % 16 != 0 || bits e 37 20 % 16 != 0 then .trap (alignFault base) s
    else if (regionOf base).isNone || regionOf base != regionOf last then .trap (windowFault base) s
    else if v.c.strands.any (fun st => st.holdsStage k) || s.releaseDue v.ci k then
      .trap (stageFault k) s
    else
      let x : Stage :=
        { word := some e1, slots := RegFile.tab 4 (fun i => { seq := BitVec.ofNat 64 i, pct := 0, cct := 0 }) }
      .done (s.updCore v.ci (fun c => { c with stages := c.stages.put k x })) 0)

/-- What a strand's arrival at a level finds (R284, R285): a trap, a wait for the core's previous arrival, or it is
executed. -/
inductive Arrival where
  | trap (t : TrapInfo)
  | wait
  | made (c : Core)

/-- A strand executes an arrival at a level (R284). -/
def Core.arriveAt (c : Core) (e : Eng) (lvl : Nat) (sync : Bool) (budget : Nat) : Arrival :=
  let b := c.bars.at' lvl
  if b.broken then .trap (barrierBroken lvl)
  else if b.made < b.by e then .wait
  else if b.done < b.made then .trap (domainFault lvl)
  else .made ({ c with bars := c.bars.put lvl { b.arrive e with sync := sync, budget := budget } }.makeArrival lvl)

/-- ARRIVE (R283, R284). -/
def execArrive (h : Hdr) (f : FmtY) (s : State) :=
  syncOp h (fun v s =>
    match v.c.arriveAt v.e f.idx.toNat false 0 with
    | .trap t => .trap t s
    | .wait => .wait (.barrier f.idx.toNat) s
    | .made c => .done (s.setCore v.ci c) 0) s

/-- WAITB (R284, R285). -/
def execWaitb (h : Hdr) (f : FmtY) (s : State) :=
  syncOp h (fun v s =>
    let lvl := f.idx.toNat
    let b := v.c.bars.at' lvl
    if b.broken then .trap (barrierBroken lvl) s
    else if b.by v.e == 0 then .trap (domainFault lvl) s
    else if b.by v.e ≤ b.done then .done s 0
    else .wait (.barrier lvl) s) s

/-- SYNC (R283, R284, R293): it arrives once, then waits for the episode. -/
def execSync (h : Hdr) (f : FmtY) (s : State) :=
  syncOp h (fun v s =>
    let lvl := f.idx.toNat
    let b := v.c.bars.at' lvl
    if v.st.synced == some lvl then
      if b.broken then .trap (barrierBroken lvl) s
      else if b.by v.e ≤ b.done then .done s 0
      else .wait (.barrier lvl) s
    else match v.c.arriveAt v.e lvl true (bits f.ops.toNat 15 0) with
      | .trap t => .trap t s
      | .wait => .wait (.barrier lvl) s
      | .made c =>
        .wait (.barrier lvl) (s.setCore v.ci (c.setStrand v.e { c.strand v.e with synced := some lvl }))) s

/-- DMSET (R286): the A strand reads the identifier and records the pending value; the other strands pass (log entry
15). -/
def execDmset (h : Hdr) (f : FmtY) (s : State) :=
  syncOp h (fun v s =>
    let lvl := f.idx.toNat
    if v.e != .a then .done s 0
    else if (List.range (lvl + 1)).any (fun l =>
        (v.c.bars.at' l).done < (v.c.bars.at' l).made || (v.c.bars.at' l).done < (v.c.bars.at' l).by .a) then
      .trap (domainFault lvl) s
    else
      let x := (s.readS v f.sa).toNat % 2 ^ 16 + (if f.ops.getLsbD 0 then 2 ^ 16 else 0)
      .done (s.updCore v.ci (fun c => { c with dmNext := c.dmNext.put (lvl - 1) (some (BitVec.ofNat 64 x)) })) 0) s

/-- A strand that waits in an instruction is done with it, as its event completes it (R284, R292). -/
def Strand.leave (st : Strand) : Strand :=
  { st.advance 1 with rsn := st.rsn + 1, wait := .none, busy := false, synced := none, fillBad := false }

/-- The strands that an event lets go, now the issue clk of the core's die: that clk is their issue clk, after which the V
strand may issue again from the next one (R63, R293). -/
def Core.letGo (c : Core) (now : Nat) (p : Strand → Bool) : Core :=
  { c.mapStrands (fun st => if p st then st.leave else st) with vnext := if p c.strandV then now + 1 else c.vnext }

/-- The three strands of a core leave QUIESCE, the flag written (R292, R301). -/
def Core.leaveQuiesce (c : Core) (n : Nat) (r : Bool) (now : Nat) : Core :=
  { (c.writeFlag n r).letGo now (fun _ => true) with quiet := none }

/-- QUIESCE (R292): a strand waits for the decision, and then for the flag. -/
def execQuiesce (h : Hdr) (f : FmtY) (s : State) : Host.Outcome State Fault Refusal :=
  let n := bits f.ops.toNat 2 0
  match s.at? with
  | none => .next s
  | some v =>
    match v.c.quiet with
    | some r =>
      if v.c.flagFree n then .next (s.updCore v.ci (fun c => c.leaveQuiesce n (r == 1) (s.iclk c)))
      else .next (s.waitOn v.ci v.e (.flag n))
    | none => syncOp h (fun _ s => .wait (.quiesce f.idx.toNat) s) s

end Sys2Proof.Machine
end

