-- ==== Sys2Proof/Machine/Copies.lean ====
section
/-! DEFINITION. The copy instructions at their issue: acceptance, captured operands and the checks made there (spec/10,
R235-R239, R247-R264). -/
namespace Sys2Proof.Machine

/-- The format-C fields of a copy's leading word. -/
def Copy.f (x : Copy) : FmtC := FmtC.ofBits (bodyBits x.lead)
/-- OPS of a copy. -/
def Copy.o (x : Copy) : Nat := x.f.ops.toNat
/-- Extension word i of a copy, counted from 0. -/
def Copy.e (x : Copy) (i : Nat) : Nat := (x.ext.getD i 0).toNat

/-- The extension word of a copy that holds DPKG, DCL, PH and SLOT (R247, R249). -/
def Copy.te (x : Copy) : Nat := if x.kind == .tcopy then x.e 1 else x.e 0

/-- DPKG (R238). -/
def Copy.dpkg (x : Copy) : Nat := bits x.te 63 44
/-- DCL (R238). -/
def Copy.dcl (x : Copy) : Nat := bits x.te 43 38
/-- PH (R239). -/
def Copy.ph (x : Copy) : Bool := if x.kind == .coll then false else if x.kind == .tcopy then bitAt x.te 32 else bitAt x.te 29
/-- SLOT (R239). -/
def Copy.slotClk (x : Copy) : Nat := if x.kind == .tcopy then bits x.te 31 20 else bits x.te 28 17

/-- Whether DPKG names this package (R238). -/
def Copy.here (x : Copy) (s : State) : Bool := x.kind == .coll || x.dpkg == 0xFFFFF || x.dpkg == s.mgmt.pkg.toNat

/-- The task cluster index that is the target (R238). -/
def Copy.cluster (x : Copy) (s : State) (c : Core) : Nat :=
  if x.kind == .coll || x.dcl == 0x3F then s.cidx c else x.dcl

/-- Whether the target is the issuing core's cluster (R238). -/
def Copy.local (x : Copy) (s : State) (c : Core) : Bool := x.here s && x.cluster s c == s.cidx c

/-- The physical cluster of a task cluster index of a core's task (R26). -/
def State.physOf (s : State) (c : Core) (cl : Nat) : Nat :=
  match s.task? c.task with
  | some t => t.phys cl
  | none => 0

/-- Source kind of a copy: 0 VA, 1 window, 2 welt port (R247, R254, R260, R262). -/
def Copy.sk (x : Copy) : Nat :=
  match x.kind with
  | .coll => bits (x.e 0) 52 51
  | _ => bits x.o 15 14
/-- Destination kind of a copy. -/
def Copy.dk (x : Copy) : Nat :=
  match x.kind with
  | .coll => bits (x.e 0) 50 49
  | _ => bits x.o 13 12

/-- The first source byte: a VA, or a window address (R247). -/
def Copy.srcBase (x : Copy) : Nat := if x.sk == 1 then x.sw.base.toNat + x.src.toNat else x.src.toNat
/-- The first destination byte: a VA, or a window address (R247). -/
def Copy.dstBase (x : Copy) : Nat := if x.dk == 1 then x.dw.base.toNat + x.dst.toNat else x.dst.toNat

/-- The target checks of R238; weltPort says that an end of the copy is a welt port. -/
def Copy.targetBad (x : Copy) (s : State) (c : Core) (weltPort : Bool) : Bool :=
  let need := if !x.here s then 4 else if x.cluster s c != s.cidx c then 3 else 0
  x.kind != .coll && ((x.dcl != 0x3F && s.nclus c ≤ x.dcl) || (786431 < x.dpkg && x.dpkg != 0xFFFFF)
    || x.f.scp.toNat < need || (weltPort && !x.local s c))

/-- The check of R121 over n window bytes in this cluster. -/
def rangeBad (s : State) (c : Core) (a n : Nat) : Option TrapInfo := (winBad (s.ppc c) a n).map windowFault

/-- A copy as captured at its issue (R237), before its numbers are taken. -/
def newCopy (kind : CopyKind) (lead : Word) (ext : List Word) (v : At) (s : State) : Copy :=
  let f := FmtC.ofBits (bodyBits lead)
  { kind := kind, lead := lead, ext := ext, dst := s.readS v f.sd, src := s.readS v f.sa, cnt := s.readS v f.sb,
    dw := Window.zero, sw := Window.zero, xw := Window.zero, desc := v.c.d.read f.dr, rseed := v.c.rseed, q := v.q,
    ty := 0, sm := 0, n0 := 0, n1 := 0, collNo := 0, ranks := [], before := 0, after := 0, prog := 0, total := 0,
    unit := 0, started := true, phase := none, openAt := none, late := false, keptR := none, keptW := none, part := [], out := [],
    codes := [], offs := [], taint := false, olds := [], uns := [], mixed := false, cover := [], sent := [], got := [], wrote := [],
    fault := none, fillBad := [], did0 := false, did1 := false, owed := false }

/-- Acceptance (R235, R236, R239): the copy takes its numbers and joins its channel. -/
def Copy.accept (x : Copy) (c : Core) : Core :=
  let r0 := c.takeNum 0
  let r1 := r0.2.takeNum (if x.kind == .coll then 2 else 1)
  let y := { x with
    n0 := r0.1
    n1 := r1.1
    started := !x.ph
    phase := if x.ph then some x.f.scp.toNat else none
    owed := x.stage?.isSome }
  let ch := x.f.ch.toNat
  { r1.2 with chans := r1.2.chans.put ch { r1.2.chans.at' ch with queue := (r1.2.chans.at' ch).queue ++ [y] } }

/-- A copy instruction (R235-R237): it waits for a slot of its channel, is checked, and is accepted. -/
def copyIssue (h : Hdr) (f : FmtC) (len : Nat) (early : At → Option TrapInfo)
    (build : At → State → Except TrapInfo Copy) (s : State) : Host.Outcome State Fault Refusal :=
  s.issueWord h len (fun v _ => early v) noAgain (fun v s =>
    if 16 ≤ (v.c.chans.at' f.ch.toNat).queue.length then .wait (.channel f.ch.toNat) s
    else match build v s with
      | .error t => .trap t s
      | .ok x => .done (s.updCore v.ci x.accept) 0)

/-- No check of a copy before its pops. -/
def noCheck (_ : At) : Option TrapInfo := none

/-- COPY (R247, R248). -/
def copyBuild (h : Hdr) (f : FmtC) (e1 : BitVec 64) (v : At) (s : State) : Except TrapInfo Copy :=
  let x := newCopy .copy (leadWord h 0x083 1 f.toBits) [e1] v s
  let n := if f.ops.getLsbD 10 then x.cnt.toNat else bits e1.toNat 16 0
  let y := { x with
    dw := s.readW v (e1.extractLsb' 34 4)
    sw := s.readW v (e1.extractLsb' 30 4)
    total := n }
  if 2 ^ 36 < n || y.targetBad s v.c (y.sk == 2 || y.dk == 2) then .error (illegalOp 0)
  else match (if y.sk == 1 then rangeBad s v.c y.srcBase n else none).or
      (if y.dk == 1 && y.local s v.c then rangeBad s v.c y.dstBase n else none) with
    | some t => .error t
    | none => .ok y

/-- COPY (R247, R248). -/
def execCopy (h : Hdr) (f : FmtC) (e1 : BitVec 64) (s : State) : Host.Outcome State Fault Refusal :=
  copyIssue h f 2 noCheck (copyBuild h f e1) s

/-- Box sizes of a TCOPY (R249). -/
def Copy.box (x : Copy) : List Nat :=
  [bits (x.e 0) 63 52 + 1, bits (x.e 0) 51 40 + 1, bits (x.e 0) 39 32 + 1, bits (x.e 0) 31 24 + 1, bits (x.e 0) 23 16 + 1]

/-- Size of a box dimension. -/
def Copy.b (x : Copy) (i : Nat) : Nat := x.box.getD i 1
/-- TR of a TCOPY. -/
def Copy.tr (x : Copy) : Bool := bitAt x.o 15
/-- DIR of a TCOPY: true stores the tile into the tensor. -/
def Copy.dir (x : Copy) : Bool := bitAt (x.e 1) 33
/-- WELT of a TCOPY. -/
def Copy.welt (x : Copy) : Bool := bitAt (x.e 1) 11
/-- Columns of a TCOPY's tile (R250). -/
def Copy.tileCols (x : Copy) : Nat := if x.tr then x.b 1 else x.b 0
/-- Rows of a TCOPY's tile (R250). -/
def Copy.tileRows (x : Copy) : Nat := (if x.tr then x.b 0 else x.b 1) * x.b 2 * x.b 3 * x.b 4

/-- The box index of an element, i0 fastest (R250). -/
def Copy.boxIx (x : Copy) (e : Nat) : List Nat :=
  let b0 := x.b 0
  let b1 := b0 * x.b 1
  let b2 := b1 * x.b 2
  let b3 := b2 * x.b 3
  [e % b0, e / b0 % x.b 1, e / b1 % x.b 2, e / b2 % x.b 3, e / b3]

/-- The tile row and column of a box element (R250). -/
def Copy.tileRC (x : Copy) (e : Nat) : Nat × Nat :=
  let i := x.boxIx e
  let h := i.getD 2 0 + x.b 2 * (i.getD 3 0 + x.b 3 * i.getD 4 0)
  if x.tr then (i.getD 0 0 + x.b 0 * h, i.getD 1 0) else (i.getD 1 0 + x.b 1 * h, i.getD 0 0)

/-- The tensor coordinates of a box element (R249, R250). -/
def Copy.coords (x : Copy) (e : Nat) : List Int :=
  let i := x.boxIx e
  let o := [toSigned 32 (bits x.src.toNat 31 0), toSigned 32 (bits x.src.toNat 63 32), toSigned 21 (bits x.cnt.toNat 20 0),
    toSigned 21 (bits x.cnt.toNat 41 21), toSigned 21 (bits x.cnt.toNat 62 42)]
  tabulate 5 (fun j => o.getD j 0 + (i.getD j 0 : Nat))

/-- Bytes of a tensor element (R245). -/
def Copy.tensorBytes (x : Copy) : Nat := (fmtOf (descTy x.desc.toNat)).bits / 8

/-- The VA of the tensor element of a box element, none outside the tensor (R245, R250). -/
def Copy.tensorVa (x : Copy) (e : Nat) : Option Nat :=
  let d := x.desc.toNat
  let cs := x.coords e
  if (List.range (descDims d)).all (fun j => decide (0 ≤ cs.getD j 0) && decide (cs.getD j 0 < (descExt d j : Nat))) then
    let sum := (List.range (descDims d)).foldl (fun a j =>
      a + (cs.getD j 0).toNat * (if j == 0 then x.tensorBytes else descStr d j)) (bits (descWord d 0) 51 0)
    some (sum % 2 ^ 52)
  else none

/-- The unified addresses of the bytes of a window element in a physical cluster, all in one region (R121). -/
def elemAddrsIn (phys ppc j : Nat) (w : Window) (t : Fmt) (r c : Nat) : Except TrapInfo (List Nat) :=
  let bs := w.bytesOf t r c
  let as := bs.filterMap (windowAddr phys ppc j)
  if as.length == bs.length && bs.all (fun b => regionOf b == regionOf (bs.headD 0)) then .ok as
  else .error (windowFault (bs.headD 0))

/-- The traps of R250 and R251 on the windows of a TCOPY whose target is this cluster: over the elements that it accesses,
of a tile that it stores those whose coordinates lie in the tensor (R237, R250). -/
def Copy.tileBad (x : Copy) (s : State) (v : At) (sw : Window) : Option TrapInfo :=
  let rows := x.tileRows
  let cols := x.tileCols
  let fit := fun (w : Window) (ty need : Nat) (bad : TrapInfo) =>
    match v.winTy w true with
    | .error t => some t
    | .ok t =>
      if t != ty then some bad
      else if w.rows < rows || w.cols < need then some (windowFault w.base.toNat) else none
  let each := fun (w : Window) (t : Fmt) (need per : Nat) =>
    if !x.local s v.c then none
    else if x.dir then firstTrap (List.range x.total) (fun e =>
      if (x.tensorVa e).isNone then none else s.checkWrite v.c w t (x.tileRC e).1 ((x.tileRC e).2 / per))
    else firstTrap (List.range (rows * need)) (fun k => s.checkWrite v.c w t (k / need) (k % need))
  ((if x.welt then none else (fit x.dw x.ty cols (illegalOp 7)).or (each x.dw (fmtOf x.ty) cols 1)).or
    (if x.sm != 2 then none else (fit sw 9 (ceilDiv cols 32) (windowFault sw.base.toNat)).or (each sw .uint8 (ceilDiv cols 32) 32)))

/-- TCOPY (R249-R253). -/
def tcopyBuild (h : Hdr) (f : FmtC) (e1 e2 e3 : BitVec 64) (v : At) (s : State) : Except TrapInfo Copy :=
  let x := newCopy .tcopy (leadWord h 0x084 3 f.toBits) [e1, e2, e3] v s
  let r := v.resolve (bits e3.toNat 63 60) true
  let ty := v.ty (bits e3.toNat 63 60)
  let sm := ((r.bind (fun p => p.2)).getD (bits f.ops.toNat 12 11))
  let sr := f.ops.getLsbD 13
  let d := x.desc.toNat
  let y := { x with
    dw := s.readW v (e2.extractLsb' 34 4)
    xw := s.readW v (e2.extractLsb' 12 4)
    ty := ty
    sm := sm
    total := x.b 0 * x.b 1 * x.b 2 * x.b 3 * x.b 4 }
  if (sr && y.dir && !srTarget (descTy d)) || x.cnt.getLsbD 63
      || (List.range 5).any (fun i => descDims d ≤ i && x.b i != 1)
      || y.targetBad s v.c y.welt || (y.welt && 64 < y.tileRows)
      || (y.stage?.isSome && (y.dir || y.welt || !y.local s v.c)) then .error (illegalOp 0)
  else match y.tileBad s v y.xw with
    | some t => .error t
    | none => .ok y

/-- The type check of TCOPY that needs the format table (R44, R111). -/
def tcopyEarly (i : Instr) (v : At) : Option TrapInfo := v.tyCheck i

/-- TCOPY (R249-R253). -/
def execTcopy (h : Hdr) (f : FmtC) (e1 e2 e3 : BitVec 64) (s : State) : Host.Outcome State Fault Refusal :=
  copyIssue h f 4 (tcopyEarly (.tcopy h f e1 e2 e3)) (tcopyBuild h f e1 e2 e3) s

/-- Bytes of a data element of SCOPY (R254). -/
def Copy.esz (x : Copy) : Nat := 2 ^ bits (x.e 0) 11 8
/-- SCAT (R254). -/
def Copy.scat (x : Copy) : Bool := bitAt (x.e 0) 12

/-- The index elements of an SCOPY and its consecutive side, checked under R121 (R237, R255). -/
def Copy.scopyBad (x : Copy) (s : State) (v : At) : Option TrapInfo :=
  let n := x.total
  let w := x.xw
  match v.winTy w false with
  | .error t => some t
  | .ok t =>
    if t != 11 then some (illegalOp 7)
    else (firstTrap (List.range n) (fun k =>
        if w.rows ≤ k / w.cols then some (windowFault (w.base.toNat + k / w.cols * w.stride.toNat))
        else s.checkWrite v.c w .int32 (k / w.cols) (k % w.cols))).or
      (if x.scat then (if x.sk == 1 then rangeBad s v.c x.srcBase (n * x.esz) else none)
       else if x.dk == 1 && x.local s v.c then rangeBad s v.c x.dstBase (n * x.esz) else none)

/-- SCOPY (R254, R255). -/
def scopyBuild (h : Hdr) (f : FmtC) (e1 : BitVec 64) (v : At) (s : State) : Except TrapInfo Copy :=
  let x := newCopy .scopy (leadWord h 0x085 1 f.toBits) [e1] v s
  let y := { x with
    dw := s.readW v (e1.extractLsb' 34 4)
    sw := s.readW v (e1.extractLsb' 30 4)
    xw := s.readW v (e1.extractLsb' 13 4)
    total := x.cnt.toNat }
  if 2 ^ 32 ≤ y.total || y.targetBad s v.c false then .error (illegalOp 0)
  else match y.scopyBad s v with
    | some t => .error t
    | none => .ok y

/-- SCOPY (R254, R255). -/
def execScopy (h : Hdr) (f : FmtC) (e1 : BitVec 64) (s : State) : Host.Outcome State Fault Refusal :=
  copyIssue h f 2 noCheck (scopyBuild h f e1) s

/-- Chunks of n raw bytes (R256). -/
def chunksOf (n : Nat) : Nat := ceilDiv n 4096

/-- Source bytes of a decoding as its issue finds them, with their poison: window bytes are checked under R121; none where
they cannot be told, by VA through a page that is not there (R237). -/
def Copy.peek (x : Copy) (s : State) (c : Core) (off n : Nat) : Except TrapInfo (Option (List (BitVec 8 × Bool))) :=
  let marked := fun (as : List Nat) => as.map (fun a => (readByte s.mem a, s.poisoned a))
  if x.sk == 1 then
    match rangeBad s c (x.srcBase + off) n with
    | some t => .error t
    | none =>
      let as := tabulate n (fun i => (s.winAddr c (x.srcBase + off + i)).getD 0)
      .ok (some (marked as))
  else
    let as := (List.range n).filterMap (fun i => match s.xlateCore c .load ((x.srcBase + off + i) % 2 ^ 52) with
      | .ok _ _ a => some a
      | _ => none)
    .ok (if as.length != n then none else some (marked as))

/-- The bytes that a decoding of chunk k writes, as its issue finds them (R237, R241, R258); idx and nch are the stream's. -/
def Copy.peekChunk (x : Copy) (s : State) (c : Core) (idx nch k : Nat) : Except TrapInfo (Option Nat) :=
  if nch ≤ k then .ok (some 4096)
  else match x.peek s c (idx + 8 * k) 8 with
    | .error t => .error t
    | .ok none => .ok none
    | .ok (some em) =>
      let off := leNat (em.map Prod.fst)
      let stray := off % 8 != 0 || off < 32 || idx < off + 16
      if em.any Prod.snd || (stray && idx + 8 * nch < off + 4) then .ok (some 4096)
      else match x.peek s c off (if stray then 4 else 16) with
        | .error t => .error t
        | .ok none => .ok none
        | .ok (some cm) =>
          let ch := cm.map Prod.fst
          let clen := fieldAt ch 4 4
          let lost := (cm.take 8).any Prod.snd || (fieldAt ch 0 1 != 0 && cm.any Prod.snd)
          match (if stray || lost || x.sk != 1 || idx < off + 16 + clen then none else rangeBad s c (x.srcBase + off + 16) clen) with
          | some t => .error t
          | none => .ok (some (if (cm.take 4).any Prod.snd then 4096 else chunkSize ch))

/-- The bytes that a decoding of n chunks from the k-th on writes: 4,096, the most, for a chunk that its issue cannot find
(R237). -/
def Copy.peekChunks (x : Copy) (s : State) (c : Core) (idx nch : Nat) : Nat → Nat → Except TrapInfo Nat
  | 0, _ => .ok 0
  | n + 1, k =>
    match x.peekChunk s c idx nch k, x.peekChunks s c idx nch n (k + 1) with
    | .error t, _ => .error t
    | _, .error t => .error t
    | .ok m, .ok r => .ok (m.getD 4096 + r)

/-- The check of R121 over what a CCOPY.dec reads in this cluster, and the bytes it writes (R237; log entry 22). -/
def Copy.decPeek (x : Copy) (s : State) (c : Core) : Except TrapInfo Nat :=
  if x.total == 0 then .ok 0
  else match x.peek s c 0 32 with
    | .error t => .error t
    | .ok none => .ok (4096 * x.total)
    | .ok (some hm) =>
      let hd := hm.map Prod.fst
      if hm.any Prod.snd || !streamOk hd then .ok (4096 * x.total)
      else x.peekChunks s c (fieldAt hd 16 8) (fieldAt hd 4 4) x.total (bits x.cnt.toNat 31 0)

/-- CCOPY (R260): the bytes that a decoding reads and writes depend on its stream, which its issue looks at (R237). -/
def ccopyBuild (h : Hdr) (f : FmtC) (e1 : BitVec 64) (enc : Bool) (v : At) (s : State) : Except TrapInfo Copy :=
  let x := newCopy (if enc then .enc else .dec) (leadWord h 0x086 1 f.toBits) [e1] v s
  let y := { x with
    dw := s.readW v (e1.extractLsb' 34 4)
    sw := s.readW v (e1.extractLsb' 30 4)
    total := if enc then x.cnt.toNat else bits x.cnt.toNat 63 32 }
  if (enc && 2 ^ 36 < y.total) || y.targetBad s v.c false then .error (illegalOp 0)
  else
    let writes := if !enc then y.decPeek s v.c
      else match (if y.sk == 1 then rangeBad s v.c y.srcBase y.total else none) with
        | some t => .error t
        | none => .ok (32 + chunksOf y.total * 4120)
    match writes with
    | .error t => .error t
    | .ok n =>
      match (if y.dk == 1 && y.local s v.c then rangeBad s v.c y.dstBase n else none) with
      | some t => .error t
      | none => .ok y

/-- CCOPY.dec (R260). -/
def execCcopyDec (h : Hdr) (f : FmtC) (e1 : BitVec 64) (s : State) : Host.Outcome State Fault Refusal :=
  copyIssue h f 2 noCheck (ccopyBuild h f e1 false) s

/-- CCOPY.enc (R260). -/
def execCcopyEnc (h : Hdr) (f : FmtC) (e1 : BitVec 64) (s : State) : Host.Outcome State Fault Refusal :=
  copyIssue h f 2 noCheck (ccopyBuild h f e1 true) s

/-- PREF (R261): a prefetch into device memory may queue the fills of its range, and a free value decides; one into the
memory-side caches changes nothing that a program reads. -/
def execPref (h : Hdr) (f : FmtC) (s : State) : Host.Outcome State Fault Refusal :=
  s.issueWord h 1 noEarly noAgain (fun v s =>
    let n := (s.readS v f.sb).toNat
    let a := (s.readS v f.sa).toNat
    if n == 0 || 2 ^ 40 < n || bits f.ops.toNat 1 0 != 0 || s.free (freeKey 12 0 0) % 2 == 0 then .done s 0
    else .done ((List.range ((a % 2 ^ 16 + n + 2 ^ 16 - 1) / 2 ^ 16)).foldl (fun t i =>
      match t.xlateCore v.c .load ((a / 2 ^ 16 * 2 ^ 16 + 2 ^ 16 * i) % 2 ^ 52) with
      | .hold x => t.wantFill x
      | _ => t) s) 0)

/-- KIND of a COLL: 0 reduce-scatter, 1 all-gather, 2 all-reduce (R262). -/
def Copy.ckind (x : Copy) : Nat := bits x.o 12 11
/-- OP of a COLL (R262). -/
def Copy.cop (x : Copy) : Nat := bits x.o 10 8
/-- STY of a COLL (R262). -/
def Copy.sty (x : Copy) : Nat := bits (x.e 0) 63 60
/-- DTY of a COLL (R262). -/
def Copy.dty (x : Copy) : Nat := bits (x.e 0) 59 56
/-- Ranks of a COLL (R262). -/
def Copy.rcount (x : Copy) : Nat := x.before + x.ranks.length + x.after
/-- N of a COLL (R262). -/
def Copy.n (x : Copy) : Nat := x.cnt.toNat

/-- Bytes that n elements of a type take, with the scales of types 5 and 7 after them (R262). -/
def dataBytes (ty n : Nat) : Nat :=
  let m := ceilDiv (n * (fmtOf ty).bits) 8
  if ty == 5 || ty == 7 then ceilDiv m 16 * 16 + ceilDiv n 32 else m

/-- Elements that a rank of a COLL writes (R263). -/
def Copy.collTotal (x : Copy) : Nat :=
  if x.ckind == 0 then x.n / x.rcount else if x.ckind == 1 then x.n * x.rcount else x.n

/-- Whether a core has exited without having issued the n-th COLL of a level, and so is none of its ranks (R262, R285). -/
def Core.leftColl (c : Core) (lvl n : Nat) : Bool := c.exited && !c.killed && c.colls.at' (lvl - 1) ≤ n

/-- COLL (R262, R263). The ranks are those of the core's domain at its issue, without cores that have left it (R285, log
entry 69); how many ranks peer tasks bring is a free value (log entry 3). -/
def collBuild (h : Hdr) (f : FmtC) (e1 e2 : BitVec 64) (v : At) (s : State) : Except TrapInfo Copy :=
  let x := newCopy .coll (leadWord h 0x088 2 f.toBits) [e1, e2] v s
  let far := if s.needsPeers v.c x.lvl then Config.peerRanks v.c.task (v.c.colls.at' (x.lvl - 1)) else (0, 0)
  let y := { x with
    dw := s.readW v (e1.extractLsb' 41 4)
    sw := s.readW v (e1.extractLsb' 45 4)
    collNo := v.c.colls.at' (x.lvl - 1)
    ranks := (((s.domain x.lvl v.c).filterMap s.core?).filter (fun (d : Core) =>
      !(d.killed && d.shrinks x.lvl) && !d.leftColl x.lvl (v.c.colls.at' (x.lvl - 1)))).map Core.vcore
    before := far.1
    after := far.2 }
  let z := { y with total := y.collTotal }
  let blocks := x.cop == 3 || x.sty == 5 || x.sty == 7
  if x.ckind == 0 && (y.n % y.rcount != 0 || (blocks && (y.n / y.rcount) % 32 != 0)) then .error (illegalOp 0)
  else match (if y.sk == 1 then rangeBad s v.c y.srcBase (dataBytes y.sty y.n) else none).or
      (if y.dk == 1 then rangeBad s v.c y.dstBase (dataBytes y.dty z.total) else none) with
    | some t => .error t
    | none => .ok z

/-- COLL (R262, R263): it takes its place among the core's COLLs of the level. -/
def execColl (h : Hdr) (f : FmtC) (e1 e2 : BitVec 64) (s : State) : Host.Outcome State Fault Refusal :=
  s.issueWord h 3 noEarly noAgain (fun v s =>
    if 16 ≤ (v.c.chans.at' f.ch.toNat).queue.length then .wait (.channel f.ch.toNat) s
    else match collBuild h f e1 e2 v s with
      | .error t => .trap t s
      | .ok x => .done (s.updCore v.ci (fun c =>
          { x.accept c with colls := c.colls.put (x.lvl - 1) (x.collNo + 1) })) 0)

/-- Whether every copy of a channel is done (R229). -/
def Channel.empty (x : Channel) : Bool := x.queue.isEmpty && x.ending.isEmpty

/-- DRAIN (R229, R264). -/
def execDrain (h : Hdr) (f : FmtC) (s : State) : Host.Outcome State Fault Refusal :=
  s.issueWord h 1 noEarly noAgain (fun v s =>
    if (v.c.chans.at' f.ch.toNat).empty then .done s 0 else .wait (.drain f.ch.toNat) s)

end Sys2Proof.Machine
end

