-- ==== Sys2Proof/Machine/CopyRun.lean ====
section
/-! DEFINITION. The copy engine at work: the elements of each kind of copy, faults, completion and stage releases
(spec/10, R235, R236, R239-R242, R248-R263). -/
namespace Sys2Proof.Machine

/-- What one element of a copy comes to: it is made, it must wait, it is held for a fill, or it faults (R235, R240,
R266). -/
inductive Elem where
  | ok (s : State) (x : Copy)
  | wait (s : State) (x : Copy)
  | hold (f : Fill) (write : Bool) (s : State) (x : Copy)
  | fault (f : CopyFault) (s : State) (x : Copy)

/-- What reaching bytes gives: their places, a hold or a fault. -/
inductive Reach where
  | ok (ps : List Place) (s : State) (x : Copy)
  | hold (f : Fill) (s : State)
  | fault (t : TrapInfo) (fillErr : Bool) (s : State)

/-- The parts of n bytes from a VA, page by page (R214); fuel counts pages. -/
def pageSpans : Nat → Nat → Nat → List (Nat × Nat)
  | 0, _, _ => []
  | k + 1, va, n =>
    let room := 2 ^ 16 - va % 2 ^ 16
    if n ≤ room then [(va, n)] else (va, room) :: pageSpans k ((va + room) % 2 ^ 52) (n - room)

/-- The parts of n bytes from a VA; no byte is reached where n is 0 (R260). -/
def spansOf (va n : Nat) : List (Nat × Nat) := if n == 0 then [] else pageSpans (n / 2 ^ 16 + 2) (va % 2 ^ 52) n

/-- The translation that a copy keeps for a kind of access, where it stands for a VA (R376). -/
def Copy.keptFor (x : Copy) (k : AccessKind) (asid va : Nat) : Option Tlb :=
  (if k == .load then x.keptR else x.keptW).filter (fun t => t.asid == asid && decide (t.va ≤ va) && decide (va < t.va + t.size))

/-- A copy keeps a translation until it enters another page (R376). -/
def Copy.keep (x : Copy) (k : AccessKind) (t : Tlb) : Copy :=
  if k == .load then { x with keptR := some t } else { x with keptW := some t }

/-- Translates an access of a copy: through the translation that it keeps, else through the core's TLBs, which then hold
what was used (R376). -/
def Copy.xlate (x : Copy) (ci : Nat) (c : Core) (s : State) (k : AccessKind) (va : Nat) : Xlate × State × Copy :=
  let asid := (s.ctx c).asid
  match x.keptFor k asid va with
  | some t => (s.xlateKept c t k va, s, x)
  | none =>
    match s.xlateCore c k va with
    | .ok e lvl a => (.ok e lvl a, s.holdTlb ci e lvl va, x.keep k (tlbOf asid e lvl va))
    | .trap t => (.trap t, s.holdFault ci t, x)
    | .hold f => (.hold f, s.holdWalk ci va, x)

/-- Reaches bytes by VA, page by page, each under its own page's kind (R214). -/
def reachVa (ci : Nat) (k : AccessKind) : List (Nat × Nat) → State → Copy → Reach
  | [], s, x => .ok [] s x
  | (va, n) :: rest, s, x =>
    match s.core? ci with
    | none => .ok [] s x
    | some c =>
      match x.xlate ci c s k va with
      | (.trap t, s1, _) => .fault t false s1
      | (.hold f, s1, _) => if x.fillBad.contains f.va then .fault (pageFault 6 va) true s1 else .hold f s1
      | (.ok e _ a, s1, x1) =>
        match reachVa ci k rest s1 x1 with
        | .ok ps s2 x2 =>
          .ok (tabulate n (fun i => { addr := a + i, va := some ((va + i) % 2 ^ 52), un := e.ord == 2 }) ++ ps) s2 x2
        | r => r

/-- Places of window bytes: they are of no page. -/
def winPlaces (as : List Nat) : List Place := as.map (fun a => { addr := a, va := none, un := false })

/-- Reaches n bytes from a window address in a task cluster of the core's task (R210, R238). -/
def reachWin (c : Core) (cl a n : Nat) (s : State) (x : Copy) : Reach :=
  match winBad (s.ppc c) a n with
  | some b => .fault (windowFault b) false s
  | none => .ok (winPlaces (tabulate n (fun i => (windowAddr (s.physOf c cl) (s.ppc c) (s.slot c) (a + i)).getD 0))) s x

/-- Reaches n source bytes from an offset. -/
def Copy.reachSrc (x : Copy) (ci : Nat) (c : Core) (s : State) (off n : Nat) : Reach :=
  if x.sk == 1 then reachWin c (s.cidx c) (x.srcBase + off) n s x
  else reachVa ci .load (spansOf (x.srcBase + off) n) s x

/-- Reaches n destination bytes of this package from an offset. -/
def Copy.reachDst (x : Copy) (ci : Nat) (c : Core) (s : State) (off n : Nat) : Reach :=
  if x.dk == 1 then reachWin c (x.cluster s c) (x.dstBase + off) n s x
  else reachVa ci .store (spansOf (x.dstBase + off) n) s x

/-- Goes on with what was reached; a read is an access that is no write to a UN page (R224). -/
def Reach.go (r : Reach) (write : Bool) (x : Copy) (k : List Place → State → Copy → Elem) : Elem :=
  match r with
  | .ok ps s1 x1 => k ps s1 { x1 with mixed := x1.mixed || (!write && !ps.isEmpty) }
  | .hold f s1 => .hold f write s1 x
  | .fault t fe s1 => .fault { info := t, write := write, fillErr := fe } s1 x

/-- The bytes at places; one of a poisoned granule is an unspecified value (R241). -/
def State.copyBytes (s : State) (ps : List Place) : List (BitVec 8 × Bool) :=
  ps.map (fun p => if s.poisoned p.addr then (BitVec.ofNat 8 (s.free (wideKey 1 p.addr)), true) else (readByte s.mem p.addr, false))

/-- Whether a copy has read the byte at an address for the element that it is making. -/
def Copy.hasRead (x : Copy) (a : Nat) : Bool := x.got.any (fun g => g.1 == a)

/-- The bytes at places: those which a copy has read for its element as it found them, the others as they stand. -/
def Copy.bytesAt (x : Copy) (s : State) (ps : List Place) : List (BitVec 8 × Bool) :=
  (List.zip ps (s.copyBytes ps)).map (fun p => ((x.got.find? (fun g => g.1 == p.1.addr)).map (fun g => g.2)).getD p.2)

/-- The bytes at places as a copy reads them: its accesses are byte accesses (R213), so it may have read some of an element's
bytes before others; a free value says whether it goes on now or has read only some of them yet. -/
def Copy.takeBytes (x : Copy) (s : State) (ps : List Place) (k : List (BitVec 8 × Bool) → Copy → Elem) : Elem :=
  let bs := x.bytesAt s ps
  if ps.length ≤ 1 || ps.all (fun p => x.hasRead p.addr) || s.free (wideKey 17 ((ps.map Place.addr).headD 0)) % 2 == 0 then k bs x
  else .wait s { x with got := x.got ++ ((List.zip ps bs).filter (fun p =>
    s.free (wideKey 18 p.1.addr) % 2 == 0 && !x.hasRead p.1.addr)).map (fun p => (p.1.addr, p.2)) }

/-- The bytes without their marks. -/
def plain (bs : List (BitVec 8 × Bool)) : List (BitVec 8) := bs.map (fun b => b.1)
/-- Whether a byte is marked. -/
def anyPsn (bs : List (BitVec 8 × Bool)) : Bool := bs.any (fun b => b.2)
/-- Bytes without marks. -/
def unmarked (bs : List (BitVec 8)) : List (BitVec 8 × Bool) := bs.map (fun b => (b, false))

/-- A window address as another cluster reads it: the own-tile range names the tile of the issuing core's slot (R238). -/
def State.sentAddr (s : State) (c : Core) (a : Nat) : Nat :=
  if regionOf a == some .own then s.slot c * Config.tileBytes + (a - 0x3000000) else a

/-- How an access to the target on another package may fail (R238): where no peer context is resident, and as its window
space or its translation gives; none where it does not. Which holds is a free value (log entry 3). -/
def remoteFaults (win : Bool) (a : Nat) : List (Option (TrapInfo × Bool)) :=
  [none, some (domainFault 7, false)] ++
    (if win then [some (windowFault a, false)]
     else [some (pageFault 0 a, false), some (pageFault 1 a, false), some (pageFault 2 a, false), some (pageFault 6 a, true),
       some (permFault 3 a, false), some (permFault 4 a, false)])

/-- What an access to the target on another package comes to. A task of no job has no peer context there (R238, R355), and an
address outside every window space never succeeds (R210). -/
def State.remoteBad (s : State) (c : Core) (win : Bool) (a : Nat) : Option (TrapInfo × Bool) :=
  let l := (remoteFaults win a).filter (fun r => r.isSome || !win || (regionOf a).isSome)
  if !s.needsPeers c 4 then some (domainFault 7, false) else (l[s.free (wideKey 3 a) % l.length]?).getD none

/-- Messages to another package (R238), each with its kind, address, poison and data: kind 0 window bytes, 1 VA bytes, 2 a
window element by its first bit; 4 more where the data are poisoned (R241). All of them fail together, as one element. Whether
a VA there lies on a UN page, so that the access orders no later write to such a page (R224), is that package's: a free value
(log entry 3). -/
def Copy.send (x : Copy) (c : Core) (s : State) (msgs : List (Nat × Nat × Bool × List (BitVec 8))) : Elem :=
  let at' := fun (kind a : Nat) =>
    if kind == 0 then s.sentAddr c a else if kind == 2 then 8 * s.sentAddr c (a / 8) + a % 8 else a
  match msgs.findSome? (fun m => s.remoteBad c (m.1 != 1) (if m.1 == 2 then m.2.1 / 8 else m.2.1)) with
  | some f => .fault { info := f.1, write := true, fillErr := f.2 } s x
  | none => .ok { s with outbox := s.outbox ++ msgs.map (fun m =>
      { pkg := x.dpkg, kind := m.1 + (if m.2.2.1 then 4 else 0), cl := x.cluster s c, addr := at' m.1 m.2.1, data := m.2.2.2 }) }
    { x.posts (msgs.flatMap msgBytes) with
      mixed := x.mixed || msgs.any (fun m => m.1 != 1 || s.free (wideKey 19 m.2.1) % 2 == 0) }
where
  /-- The destination bytes of a message, kept apart from those of this package. -/
  msgBytes (m : Nat × Nat × Bool × List (BitVec 8)) : List Nat :=
    if m.1 == 2 then tabulate ((m.2.1 + fieldAt m.2.2.2 0 1 + 7) / 8 - m.2.1 / 8) (fun i => 2 ^ 57 + m.2.1 / 8 + i)
    else tabulate m.2.2.2.length (fun i => 2 ^ (57 + m.1) + m.2.1 + i)

/-- Writes bytes at an offset of the destination, a window or a VA. -/
def Copy.putDst (x : Copy) (ci : Nat) (c : Core) (s : State) (off : Nat) (bs : List (BitVec 8 × Bool)) : Elem :=
  if !x.here s then x.send c s [(if x.dk == 1 then 0 else 1, x.dstBase + off, anyPsn bs, plain bs)]
  else (x.reachDst ci c s off bs.length).go true x (fun ps s1 x1 => .ok s1 (x1.sendBytes ps bs))

/-- Whether a copy's destination is port CO. -/
def Copy.usesCo (x : Copy) : Bool :=
  match x.kind with
  | .copy => x.dk == 2
  | .tcopy => x.welt
  | _ => false

/-- The other channels whose copy is in the middle of its beats to CO, and holds that port (R321). -/
def Core.coHolder (c : Core) (ch : Nat) : List Nat :=
  (List.range 4).filter (fun k => k != ch && (match (c.chans.at' k).queue with
    | x :: _ => x.usesCo && x.unit != 0
    | [] => false))

/-- Whether a copy of another channel is in the middle of its beats to CO (R321). -/
def Core.coBusy (c : Core) (ch : Nat) : Bool := !(c.coHolder ch).isEmpty

/-- A beat enters the route of the core's port CO, or waits for room (R321, R333). -/
def Copy.sendBeat (x : Copy) (c : Core) (s : State) (b : Beat) : Option State :=
  match s.routeFrom (s.phys c) (5 * 64 + s.slot c) with
  | none => none
  | some (ri, rt, r) =>
    if r.canEmit 1 && !c.coBusy x.f.ch.toNat then some (s.updRoute ri rt (fun r => r.emit b)) else none

/-- A beat of 256 bytes; missing bytes are 0 (R248, R320). -/
def beatOf (bs : List (BitVec 8)) (psn : Bool) : Beat :=
  { lanes := RegFile.tab 6 (fun j => BitVec.ofNat 32 (fieldAt bs (4 * j) 4)), psn := psn }

/-- The 256 bytes of a beat (R320). -/
def Beat.bytes (b : Beat) : List (BitVec 8) := (List.range 64).flatMap (fun j => leBytes 4 (b.lanes.at' j).toNat)

/-- The number of bytes by which a COPY's destination lies above its source, or below it, where both are of one kind and
overlap (R248). -/
def Copy.gap (x : Copy) (s : State) (c : Core) (below : Bool) : Option Nat :=
  if bitAt x.o 11 || x.sk != x.dk then none
  else
    let ends := if x.sk == 1 then
        ((windowAddr (s.phys c) (s.ppc c) (s.slot c) x.srcBase).getD 0,
          (windowAddr (s.physOf c (x.cluster s c)) (s.ppc c) (s.slot c) x.dstBase).getD 0)
      else (x.srcBase % 2 ^ 52, x.dstBase % 2 ^ 52)
    let d := (if below then ends.1 + 2 ^ 52 - ends.2 else ends.2 + 2 ^ 52 - ends.1) % 2 ^ 52
    if x.here s && 0 < d && d < x.total then some d else none

/-- The source byte of an overlapping COPY (R248): a destination byte in the overlap receives the byte's value before the
copy or the value the copy wrote there, and a free value decides; outside the overlap it is the value before the copy. -/
def Copy.overlapByte (x : Copy) (s : State) (c : Core) (b : Nat) (now : BitVec 8) : BitVec 8 :=
  match x.gap s c false, x.olds.find? (fun p => p.1 == b) with
  | some d, some p => if b + d < x.total && s.free (wideKey 4 b) % 2 == 0 then now else p.2
  | _, _ => now

/-- The same where the destination lies below the source (R248): the value that the copy writes to the source byte is that of
an element still to come, j gaps on, and those between receive it too. A free value says how many. -/
def Copy.belowByte (x : Copy) (ci : Nat) (c : Core) (s : State) (b : Nat) (now : BitVec 8 × Bool) : (BitVec 8 × Bool) × Copy :=
  match x.gap s c true with
  | none => (now, x)
  | some d =>
    match x.olds.find? (fun p => p.1 == b) with
    | some p => ((p.2, false), { x with olds := x.olds.filter (fun q => q.1 != b) })
    | none =>
      let j := if d ≤ b then s.free (wideKey 20 b) % ((x.total - 1 - b) / d + 1) else 0
      if j == 0 then (now, x)
      else match x.reachSrc ci c s (b + j * d) 1 with
        | .ok ps _ _ =>
          match s.copyBytes ps with
          | [(v, false)] => ((v, false), { x with olds := x.olds ++ tabulate j (fun i => (b + (i + 1) * d, v)) })
          | _ => (now, x)
        | _ => (now, x)

/-- Keeps the value that a byte of the source had before the copy wrote there. -/
def Copy.keepOld (x : Copy) (s : State) (c : Core) (b : Nat) (ps : List Place) : Copy :=
  match x.gap s c false with
  | none => x
  | some d =>
    { x with olds := (if b + d < x.total then [(b + d, readByte s.mem ((ps.map Place.addr).headD 0))] else [])
        ++ x.olds.filter (fun p => p.1 != b) }

/-- The port CI gives a COPY its next beat (R248, R322, R336). -/
def Copy.takeBeat (x : Copy) (c : Core) (s : State) : Elem :=
  match s.portIn c 4 with
  | .empty => .wait s x
  | .zeros => .ok s { x with part := unmarked Beat.zero.bytes }
  | .beat b ri rt d => .ok (s.takePort ri rt d) { x with
      part := if b.psn then tabulate 256 (fun i => (BitVec.ofNat 8 (s.free (freeKey 14 0 (x.prog + i))), true)) else unmarked b.bytes }

/-- A byte of COPY's source: of the fill pattern, the beat at CI, or the source range (R248). -/
def Copy.srcByte (x : Copy) (ci : Nat) (c : Core) (s : State) (k : BitVec 8 × Bool → State → Copy → Elem) : Elem :=
  let b := x.prog
  if bitAt x.o 11 then k (x.src.extractLsb' (8 * (b % 8)) 8, false) s x
  else if x.sk == 2 then
    match (if x.part.isEmpty then x.takeBeat c s else .ok s x) with
    | .ok s1 x1 => k (x1.part.headD (0, false)) s1 x1
    | r => r
  else (x.reachSrc ci c s b 1).go false x (fun ps s1 x1 =>
    let r := (s1.copyBytes ps).headD (0, false)
    let y := x1.belowByte ci c s1 b (x1.overlapByte s1 c b r.1, r.2)
    k y.1 s1 y.2)

/-- The bytes of a copy's next beat to CO, among the destination bytes that it notes (R236). -/
def Copy.beatKeys (x : Copy) : List Nat := tabulate 256 (fun i => 2 ^ 60 + 256 * x.unit + i)

/-- Whether a COPY to CO holds a beat that is formed (R248). -/
def Copy.beatReady (x : Copy) : Bool := x.out.length == 256 || (x.total ≤ x.prog && !x.out.isEmpty)

/-- One byte of a COPY, or one beat that it has formed for CO (R248). -/
def copyElem (ci : Nat) (c : Core) (s : State) (x : Copy) : Elem :=
  let b := x.prog
  let next := fun (y : Copy) => { y with prog := b + 1, part := y.part.tail }
  if x.beatReady then
    match x.sendBeat c s (beatOf (plain x.out) (anyPsn x.out)) with
    | none => .wait s x
    | some s1 => .ok s1 { x.posts x.beatKeys with out := [], unit := x.unit + 1 }
  else x.srcByte ci c s (fun v s1 x1 =>
    if x.dk == 2 then .ok s1 { next x1 with out := x1.out ++ [v] }
    else if !x.here s then
      match x1.putDst ci c s1 b [v] with
      | .ok s2 x2 => .ok s2 (next x2)
      | r => r
    else (x1.reachDst ci c s1 b 1).go true x1 (fun ps s2 x2 =>
      .ok s2 (next ((x2.keepOld s2 c b ps).sendBytes ps [v]))))

/-- The random bits of a TCOPY element, where it rounds stochastically (R107, R251). -/
def Copy.rnd (x : Copy) (r c : Nat) : Option Nat :=
  if bitAt x.o 13 then some (srbits x.rseed.toNat x.q ((r * x.tileCols + c) % 2 ^ 20) 0) else none

/-- TSCALE (R249). -/
def Copy.tscale (x : Copy) : FNum := f32 (bits (x.e 2) 31 0)
/-- Rounding mode of a TCOPY. -/
def Copy.rm (x : Copy) : Rm := Rm.ofField (BitVec.ofNat 2 (bits x.o 10 9))
/-- SAT of a TCOPY. -/
def Copy.sat (x : Copy) : Bool := bitAt x.o 14

/-- An element going into the tile without a chosen scale (R251). -/
def Copy.toTile (x : Copy) (r c : Nat) (scale : Nat) (v : FNum) : Nat :=
  let y := if x.sm == 1 then v.div x.tscale
    else if x.sm == 2 then (if scale == 0xFF then .nan else v.shift (127 - (scale : Int))) else v
  cvtRnd (fmtOf x.ty) x.rm x.sat (x.rnd r c) y

/-- An element coming out of the tile (R251). -/
def Copy.toTensor (x : Copy) (r c : Nat) (scale code : Nat) : Nat :=
  let t := fmtOf x.ty
  let v := if x.sm == 1 then (decodeNum t code).mul x.tscale
    else if x.sm == 2 then decodeScaled t scale code else decodeNum t code
  cvtRnd (fmtOf (descTy x.desc.toNat)) x.rm x.sat (x.rnd r c) v

/-- Reaches the bytes of a tile-side window element (R121, R238). -/
def Copy.reachElem (x : Copy) (c : Core) (s : State) (w : Window) (t : Fmt) (r col : Nat) : Reach :=
  match elemAddrsIn (s.physOf c (x.cluster s c)) (s.ppc c) (s.slot c) w t r col with
  | .error e => .fault e false s
  | .ok as => .ok (winPlaces as) s x

/-- The window element that bytes give: its code and whether it is poisoned. -/
def tileElem (w : Window) (t : Fmt) (r c : Nat) (bs : List (BitVec 8 × Bool)) : Nat × Bool :=
  (leNat (plain bs) / 2 ^ (w.bitPos t r c % 8) % 2 ^ t.bits, anyPsn bs)

/-- A copy sends a window element to its bytes (R6, R92, R213). -/
def Copy.sendElem (x : Copy) (s : State) (w : Window) (t : Fmt) (r c code : Nat) (psn : Bool) (ps : List Place) : Copy :=
  let p := w.bitPos t r c % 8
  let v := if psn then s.free (wideKey 5 (w.bitPos t r c)) % 2 ^ t.bits else code
  x.sendBits s ps (w.topBit t c p ps.length) p (v % 2 ^ t.bits) psn

/-- An element for the tile: window, type, row, column, code, poison. -/
abbrev TileItem := Window × Fmt × Nat × Nat × Nat × Bool

/-- The tile takes elements, all of them or none: into the window, or to another package (R251). -/
def Copy.putItems (x : Copy) (c : Core) (s : State) (l : List TileItem) : Elem :=
  if !x.here s then
    x.send c s (l.map (fun (w, t, r, col, code, psn) =>
      let p := w.bitPos t r col % 8
      (2, w.bitPos t r col, psn, leBytes 5 (code * 256 + (w.topBit t col p (w.bytesOf t r col).length + 1 - p)))))
  else
    match firstTrap l (fun (w, t, r, col, _, _) => match x.reachElem c s w t r col with
        | .fault e _ _ => some e
        | _ => none) with
    | some e => .fault { info := e, write := true, fillErr := false } s x
    | none => .ok s (l.foldl (fun y (w, t, r, col, code, psn) =>
        match y.reachElem c s w t r col with
        | .ok ps _ _ => y.sendElem s w t r col code psn ps
        | _ => y) x)

/-- The tile takes elements: to the beats of CO with their codes, or as putItems gives. -/
def Copy.putTile (x : Copy) (c : Core) (s : State) (l : List TileItem) (welt : Bool) : Elem :=
  if welt then .ok s { x with codes := x.codes ++ l.map (fun (_, t, r, col, code, psn) =>
      (if psn then s.free (freeKey 15 r col) % 2 ^ t.bits else code, psn)) }
  else x.putItems c s l

/-- Reads a tile-side element: its code and poison. On another package it is a free value, as the read may fail there
(R238, R249; log entry 3). -/
def Copy.tileRead (x : Copy) (c : Core) (s : State) (w : Window) (t : Fmt) (r col : Nat) (k : Nat → Bool → Elem) : Elem :=
  if !x.here s then
    match s.remoteBad c true (w.bitPos t r col / 8) with
    | some f => .fault { info := f.1, write := false, fillErr := f.2 } s x
    | none => k (s.free (wideKey 8 (w.bitPos t r col)) % 2 ^ t.bits) (s.free (wideKey 10 (w.bitPos t r col)) % 2 == 1)
  else (x.reachElem c s w t r col).go false x (fun ps _ _ => x.takeBytes s ps (fun bs _ =>
    let e := tileElem w t r col bs
    k e.1 e.2))

/-- The scale byte that a TCOPY reads for a tile element, and whether it is poisoned (R251). -/
def Copy.withScale (x : Copy) (c : Core) (s : State) (r col : Nat) (k : Nat → Bool → Elem) : Elem :=
  if x.sm != 2 then k 127 false else x.tileRead c s x.xw .uint8 r (col / 32) k

/-- The tensor element of a box element as read, or the fill element (R250). -/
def Copy.tensorRead (x : Copy) (ci : Nat) (s : State) (e : Nat) (k : FNum → Bool → State → Copy → Elem) : Elem :=
  let d := x.desc.toNat
  let t := fmtOf (descTy d)
  match x.tensorVa e with
  | none => k (decodeNum t (bits (descWord d 1) 63 32 % 2 ^ t.bits)) false s x
  | some va => (reachVa ci .load (spansOf va x.tensorBytes) s x).go false x (fun ps s1 x1 => x1.takeBytes s1 ps (fun bs x2 =>
      k (decodeNum t (leNat (plain bs))) (anyPsn bs) s1 x2))

/-- One element of a TCOPY into a tile, without a chosen scale (R250, R251). -/
def tcopyLoad (ci : Nat) (c : Core) (s : State) (x : Copy) : Elem :=
  let p := x.tileRC x.prog
  x.tensorRead ci s x.prog (fun v psn s1 x1 =>
    x1.withScale c s1 p.1 p.2 (fun b bad =>
      match x1.putTile c s1 [(x1.dw, fmtOf x1.ty, p.1, p.2, x1.toTile p.1 p.2 b v, psn || bad)] x1.welt with
      | .ok s2 x2 => .ok s2 { x2 with prog := x2.prog + 1 }
      | r => r))

/-- One element of a TCOPY out of a tile (R250, R251). -/
def tcopyStore (ci : Nat) (c : Core) (s : State) (x : Copy) : Elem :=
  let p := x.tileRC x.prog
  let t := fmtOf x.ty
  let next := fun (y : Copy) => { y with prog := y.prog + 1 }
  match x.tensorVa x.prog with
  | none => .ok s (next x)
  | some va =>
    x.tileRead c s x.dw t p.1 p.2 (fun code psn =>
      x.withScale c s p.1 p.2 (fun b bad =>
        (reachVa ci .store (spansOf va x.tensorBytes) s { x with mixed := true }).go true x (fun ps s1 x1 =>
          let bs := if psn || bad then ps.map (fun q => (BitVec.ofNat 8 (s1.free (wideKey 6 q.addr)), true))
            else unmarked (leBytes x.tensorBytes (x.toTensor p.1 p.2 b code))
          .ok s1 (next (x1.sendBytes ps bs)))))

/-- An element of a slab as read: tile row and column, value, poison. -/
abbrev SlabItem := Nat × Nat × FNum × Bool

/-- Reads the elements of a slab in box order (R251). -/
def slabRead (ci : Nat) (k : List SlabItem → State → Copy → Elem) : List Nat → List SlabItem → State → Copy → Elem
  | [], acc, s, x => k acc s x
  | e :: es, acc, s, x =>
    x.tensorRead ci s e (fun v psn s1 x1 =>
      slabRead ci k es (acc ++ [((x.tileRC e).1, (x.tileRC e).2, v, psn)]) s1 x1)

/-- One slab of a TCOPY that chooses its scales (R251): it is read whole, and then its elements and scales are written, all
or none. Elements and scale of a block with a poisoned element depend on it (R241). -/
def tcopySlab (ci : Nat) (c : Core) (s : State) (x : Copy) : Elem :=
  let n := x.b 0 * x.b 1
  slabRead ci (fun items s1 x1 =>
    let block := fun (r b : Nat) => items.filter (fun i => i.1 == r && i.2.1 / 32 == b)
    let scale := fun (r b : Nat) => chooseScale (fmtOf x.ty) ((block r b).map (fun i => i.2.2.1))
    let bad := fun (r b : Nat) => (block r b).any (fun i => i.2.2.2)
    let els : List TileItem := items.map (fun i => (x1.dw, fmtOf x.ty, i.1, i.2.1,
      storeCode (fmtOf x.ty) x.rm x.sat (some (scale i.1 (i.2.1 / 32))) (x.rnd i.1 i.2.1) i.2.2.1, bad i.1 (i.2.1 / 32)))
    let firsts := items.filter (fun i => i.2.1 % 32 == 0)
    let scs : List TileItem := firsts.map (fun i =>
      (x1.xw, .uint8, i.1, i.2.1 / 32, scale i.1 (i.2.1 / 32), bad i.1 (i.2.1 / 32)))
    let next := fun (y : Copy) => { y with prog := y.prog + n }
    match x1.putItems c s1 (if x.welt then scs else els ++ scs) with
    | .ok s2 x2 =>
      if x.welt then
        match x2.putTile c s2 els true with
        | .ok s3 x3 => .ok s3 (next x3)
        | r => r
      else .ok s2 (next x2)
    | r => r) (tabulate n (fun i => x.prog + i)) [] s x

/-- Beats of a TCOPY to CO (R253). -/
def Copy.beatCount (x : Copy) : Nat := ceilDiv (x.tileCols * (fmtOf x.ty).bits) 32

/-- A tile element that a TCOPY to CO has converted: its code and poison. -/
def Copy.tileCode (x : Copy) (r c : Nat) : Nat × Bool :=
  let h := if x.tr then r / x.b 0 else r / x.b 1
  let l := if x.tr then r % x.b 0 + x.b 0 * c else c + x.b 0 * (r % x.b 1)
  x.codes.getD (l + x.b 0 * x.b 1 * h) (0, false)

/-- Beat t of a TCOPY to CO: bytes 4 t to 4 t + 3 of each packed tile row (R253). -/
def Copy.tileBeat (x : Copy) (t : Nat) : Beat :=
  let w := (fmtOf x.ty).bits
  let cols := (List.range x.tileCols).filter (fun c => c * w < 32 * (t + 1) && 32 * t < (c + 1) * w)
  let lane := fun (j : Nat) => cols.foldl (fun a c =>
    a ||| ((x.tileCode j c).1 * 2 ^ (c * w) / 2 ^ (32 * t))) 0
  { lanes := RegFile.tab 6 (fun j => if j < x.tileRows then BitVec.ofNat 32 (lane j) else 0)
    psn := (List.range x.tileRows).any (fun j => cols.any (fun c => (x.tileCode j c).2)) }

/-- One element, slab or beat of a TCOPY (R250-R253). -/
def tcopyElem (ci : Nat) (c : Core) (s : State) (x : Copy) : Elem :=
  if x.prog < x.total then
    if x.dir then tcopyStore ci c s x
    else if x.sm == 2 && (x.ty == 5 || x.ty == 7) then tcopySlab ci c s x
    else tcopyLoad ci c s x
  else match x.sendBeat c s (x.tileBeat x.unit) with
    | none => .wait s x
    | some s1 => .ok s1 { x.posts x.beatKeys with unit := x.unit + 1 }

/-- One element of an SCOPY (R255): the index is read, then z bytes are copied. An element whose index is poisoned, or
whose source is, is unspecified (R241). -/
def scopyElem (ci : Nat) (c : Core) (s : State) (x : Copy) : Elem :=
  let k := x.prog
  let z := x.esz
  match elemAddrsIn (s.phys c) (s.ppc c) (s.slot c) x.xw .int32 (k / x.xw.cols) (k % x.xw.cols) with
  | .error t => .fault { info := t, write := false, fillErr := false } s x
  | .ok ia =>
    x.takeBytes s (winPlaces ia) (fun ib y =>
      let ix := tileElem x.xw .int32 (k / x.xw.cols) (k % x.xw.cols) ib
      let from' := if x.scat then k * z else ix.1 * z
      let to' := if x.scat then ix.1 * z else k * z
      (y.reachSrc ci c s from' z).go false y (fun ps s1 x1 => x1.takeBytes s1 ps (fun bs x2 =>
        match x2.putDst ci c s1 to' (bs.map (fun b => (b.1, b.2 || ix.2))) with
        | .ok s2 x3 => .ok s2 { x3 with prog := k + 1 }
        | r => r)))

/-- Reads n source bytes of a stream at an offset. -/
def Copy.readAt (x : Copy) (ci : Nat) (c : Core) (s : State) (off n : Nat)
    (k : List (BitVec 8 × Bool) → State → Copy → Elem) : Elem :=
  (x.reachSrc ci c s off n).go false x (fun ps s1 x1 => x1.takeBytes s1 ps (fun bs x2 => k bs s1 x2))

/-- Unspecified poisoned bytes of a chunk (R241, R258). -/
def Copy.lostBytes (x : Copy) (s : State) (n : Nat) : List (BitVec 8 × Bool) :=
  tabulate n (fun i => (BitVec.ofNat 8 (s.free (wideKey 14 (x.prog + i))), true))

/-- A chunk's raw bytes, from the byte at which the copy goes on (R392). -/
def Copy.takeChunk (x : Copy) (s : State) (raw : List (BitVec 8 × Bool)) : Elem :=
  .ok s { x with unit := x.unit + 1, part := raw.drop (x.prog - 4096 * x.unit) }

/-- A malformed chunk of n raw bytes (R258). -/
def Copy.badChunk (x : Copy) (s : State) (n : Nat) : Elem := x.takeChunk s (x.lostBytes s n)

/-- A chunk that lies outside its stream or at no multiple of 8 (R258): its RAWLEN counts where the stream holds it. -/
def Copy.strayChunk (x : Copy) (ci : Nat) (c : Core) (s : State) (off size : Nat) : Elem :=
  if size < off + 4 then x.badChunk s 4096
  else x.readAt ci c s off 4 (fun ch s1 x1 => x1.badChunk s1 (if anyPsn ch then 4096 else chunkSize (plain ch)))

/-- The marks of a chunk's raw bytes, from those of its payload (R241): a stored byte depends on itself; in a coded chunk an
element depends on the raw section's bytes that hold its field, and everything on the code section. -/
def chunkMarks (ct n : Nat) (pl : List (BitVec 8 × Bool)) : Nat → Bool :=
  if ct == 0 then fun i => (pl.getD i (0, false)).2
  else
    let w := rawWidth ct
    let k := n / elemBytes ct
    fun i =>
      let e := i / elemBytes ct
      anyPsn (pl.drop (ceilDiv (k * w) 8))
        || ((List.range (ceilDiv ((e + 1) * w) 8)).drop (e * w / 8)).any (fun j => (pl.getD j (0, false)).2)

/-- CCOPY.dec takes its next chunk, located through the index (R256-R258, R260). -/
def loadChunk (ci : Nat) (c : Core) (s : State) (x : Copy) : Elem :=
  let k := bits x.cnt.toNat 31 0 + x.unit
  x.readAt ci c s 0 32 (fun hd s1 x1 =>
    let idx := fieldAt (plain hd) 16 8
    let nch := fieldAt (plain hd) 4 4
    if anyPsn hd || !streamOk (plain hd) || nch ≤ k then x1.badChunk s1 4096
    else x1.readAt ci c s1 (idx + 8 * k) 8 (fun en s2 x2 =>
      let off := leNat (plain en)
      if anyPsn en then x2.badChunk s2 4096
      else if off % 8 != 0 || off < 32 || idx < off + 16 then x2.strayChunk ci c s2 off (idx + 8 * nch)
      else x2.readAt ci c s2 off 16 (fun ch s3 x3 =>
        let clen := fieldAt (plain ch) 4 4
        let size := if anyPsn (ch.take 4) then 4096 else chunkSize (plain ch)
        let lost := anyPsn (ch.take 8) || (fieldAt (plain ch) 0 1 != 0 && anyPsn ch)
        if lost || idx < off + 16 + clen then x3.badChunk s3 size
        else x3.readAt ci c s3 (off + 16) clen (fun pl s4 x4 =>
          match decodeChunk (plain ch) (plain pl) with
          | none => x4.badChunk s4 size
          | some raw =>
            let bad := chunkMarks (fieldAt (plain ch) 0 1) raw.length pl
            let lost := x4.lostBytes s4 raw.length
            x4.takeChunk s4 (raw.zipIdx.map (fun b => if bad b.2 then lost.getD b.2 (0, true) else (b.1, false)))))))

/-- One raw byte of a CCOPY.dec (R260). -/
def decElem (ci : Nat) (c : Core) (s : State) (x : Copy) : Elem :=
  match (if x.part.isEmpty then loadChunk ci c s x else .ok s x) with
  | .ok s1 x1 =>
    match x1.part with
    | [] => .ok s1 x1
    | v :: rest =>
      match x1.putDst ci c s1 x1.prog [v] with
      | .ok s2 x2 => .ok s2 { x2 with prog := x2.prog + 1, part := rest }
      | r => r
  | r => r

/-- FMT of a CCOPY (R260). -/
def Copy.fmt (x : Copy) : Nat := bits x.o 10 9

/-- Whether a chunk of n raw bytes is stored whatever they hold (R259). -/
def Copy.stores (x : Copy) (n : Nat) : Bool := x.fmt == 0 || (x.fmt != 3 && n % 2 != 0)

/-- The bytes of an encoded chunk with their marks (R241): a chunk that is stored whatever its bytes passes each byte's mark
on; any other chunk of poisoned bytes depends on them whole, and so does everything that comes after it in the stream. -/
def Copy.chunkOut (x : Copy) (s : State) (at' : Nat) (raw : List (BitVec 8 × Bool)) : List (BitVec 8 × Bool) :=
  let bs := encodeChunk x.fmt (plain raw)
  let all := x.taint || (!x.stores raw.length && anyPsn raw)
  bs.zipIdx.map (fun b =>
    if all then (BitVec.ofNat 8 (s.free (wideKey 15 (at' + b.2))), true)
    else (b.1, x.stores raw.length && 16 ≤ b.2 && (raw.getD (b.2 - 16) (0, false)).2))

/-- One chunk of a CCOPY.enc; once all are written, the index and then the header (R259, R260). -/
def encElem (ci : Nat) (c : Core) (s : State) (x : Copy) : Elem :=
  let offs := if x.offs.isEmpty then [32] else x.offs
  let at' := offs.getLastD 32
  let lost := fun (a : Nat) (bs : List (BitVec 8)) => bs.zipIdx.map (fun b =>
    if x.taint then (BitVec.ofNat 8 (s.free (wideKey 15 (a + b.2))), true) else (b.1, false))
  if x.prog < x.total then
    let n := Nat.min 4096 (x.total - x.prog)
    x.readAt ci c s x.prog n (fun raw s1 x1 =>
      let bs := x1.chunkOut s1 at' raw
      match x1.putDst ci c s1 at' bs with
      | .ok s2 x2 => .ok s2 { x2 with
          prog := x2.prog + n, unit := x2.unit + 1, offs := offs ++ [at' + bs.length]
          taint := x2.taint || (!x2.stores raw.length && anyPsn raw) }
      | r => r)
  else
    let nch := chunksOf x.total
    let hd := streamHeader nch x.total at'
    match x.putDst ci c s at' (lost at' ((offs.take nch).flatMap (leBytes 8))) with
    | .ok s1 x1 =>
      match x1.putDst ci c s1 0 (unmarked (hd.take 16) ++ lost 16 ((hd.drop 16).take 8) ++ unmarked (hd.drop 24)) with
      | .ok s2 x2 => .ok s2 { x2 with unit := nch + 1 }
      | r => r
    | r => r

/-- Whether a copy has made every element, slab, beat and chunk; a COLL, also one of no elements, only with its other ranks
(R262). -/
def Copy.made (x : Copy) : Bool :=
  match x.kind with
  | .copy => decide (x.total ≤ x.prog) && x.out.isEmpty
  | .tcopy => decide (x.total ≤ x.prog) && (!x.welt || decide (x.beatCount ≤ x.unit))
  | .scopy => decide (x.total ≤ x.prog)
  | .dec => decide (x.total ≤ x.unit) && x.part.isEmpty
  | .enc => decide (chunksOf x.total < x.unit)
  | .coll => decide (x.total ≤ x.prog) && x.unit != 0

/-- Whether a copy has made all its reads (R228, R236). -/
def Copy.readAll (x : Copy) : Bool :=
  match x.kind with
  | .copy => bitAt x.o 11 || decide (x.total ≤ x.prog)
  | .dec => decide (x.total ≤ x.unit)
  | .coll => x.made
  | _ => decide (x.total ≤ x.prog)

/-- Whether every access of a copy has been performed. -/
def Copy.complete (x : Copy) : Bool := x.made && x.sent.isEmpty

/-- One element of a copy other than COLL. -/
def oneElem (ci : Nat) (c : Core) (s : State) (x : Copy) : Elem :=
  match x.kind with
  | .copy => copyElem ci c s x
  | .tcopy => tcopyElem ci c s x
  | .scopy => scopyElem ci c s x
  | .dec => decElem ci c s x
  | .enc => encElem ci c s x
  | .coll => .wait s x

/-- Up to n elements of a copy, in its element order (R235). -/
def runElems (ci : Nat) (c : Core) : Nat → State → Copy → Elem
  | 0, s, x => .ok s x
  | n + 1, s, x =>
    if x.made then .ok s x
    else match oneElem ci c s x with
      | .ok s1 x1 => runElems ci c n s1 { x1 with fillBad := [], got := [] }
      | r => r

/-- Changes a channel of a core. -/
def State.updChan (s : State) (ci ch : Nat) (f : Channel → Channel) : State :=
  s.updCore ci (fun c => { c with chans := c.chans.put ch (f (c.chans.at' ch)) })

/-- Replaces the head copy of a channel. -/
def Channel.setHead (x : Channel) (y : Copy) : Channel := { x with queue := y :: x.queue.tail }

/-- The head copy's accesses are all performed: it leaves the queue, and the UN bytes it wrote stay known to the next, those
of earlier copies only where it has made no other access, which would order them (R224, R227, R228). -/
def Channel.finish (x : Channel) : Channel :=
  match x.queue with
  | [] => x
  | y :: rest => { x with
      queue := modifyAt rest 0 (fun z => { z with uns := if y.mixed then y.uns.filter (fun q => q.2.1 == y.n0) else y.uns })
      ending := x.ending ++ [{ y with keptR := none, keptW := none, uns := [], olds := [], cover := [], codes := [], part := [], got := [] }]
      fill := none }

/-- The latest tl0 number that the core at a place has taken. -/
def State.lastCopy (s : State) (ci : Nat) : Nat := ((s.core? ci).map Core.lastCopy).getD 0

/-- What a copy has sent is performed, but for the last few bytes, and it leaves once every access is (R242). -/
def State.landHead (s : State) (ci ch left : Nat) (x : Copy) : State :=
  let p := x.perform (s.lastCopy ci) (x.sent.length - left) s
  let s1 := p.1.updChan ci ch (fun k => { k.setHead p.2 with fill := none })
  if p.2.complete then s1.updChan ci ch Channel.finish else s1

/-- A copy stops at a fault (R240): what it has sent is performed, the core freezes, and the entry stays with the copy. -/
def State.copyFault (s : State) (ci ch : Nat) (f : CopyFault) (x : Copy) : State :=
  let p := x.perform (s.lastCopy ci) x.sent.length s
  (p.1.updChan ci ch (fun k => k.setHead { p.2 with fault := some f, keptR := none, keptW := none, fillBad := [] })).takeTrap ci
    (3 + ch) none { f.info with addr := 0 }

/-- What a run of elements leaves in the state; left: how many of the bytes sent stay on their way. -/
def copyEnd (ci ch left : Nat) (r : Elem) : State :=
  match r with
  | .ok t x => t.landHead ci ch left x
  | .wait t x => t.landHead ci ch left x
  | .hold f w t x => ((t.landHead ci ch left x).updChan ci ch (fun k => { k with fill := some (f.va, w) })).wantFill f
  | .fault f t x => t.copyFault ci ch f x

/-- The place, channel and copy of each rank's matching COLL, where it is the next copy of its channel and can run; none
while some rank's is not (R262). -/
def State.collHeads (s : State) (task : Nat) (x : Copy) : List Nat → Option (List (Nat × Nat × Copy))
  | [] => some []
  | vc :: rest =>
    match s.place (task, vc) with
    | none => none
    | some ci =>
      match s.core? ci with
      | none => none
      | some c =>
        if c.leftColl x.lvl x.collNo then s.collHeads task x rest
        else
        let found := (List.range 4).findSome? (fun ch =>
          match (c.chans.at' ch).queue with
          | y :: _ => if y.kind == .coll && y.lvl == x.lvl && y.collNo == x.collNo then some (ci, ch, y) else none
          | [] => none)
        match found with
        | none => none
        | some h =>
          if c.halted || h.2.2.fault.isSome || s.redsPending c then none
          else (s.collHeads task x rest).map (fun l => h :: l)

/-- Whether two matched COLLs agree (R262). -/
def Copy.collSame (x y : Copy) : Bool :=
  x.ckind == y.ckind && x.cop == y.cop && x.sty == y.sty && x.dty == y.dty && x.n == y.n && bits (x.e 1) 63 32 == bits (y.e 1) 63 32

/-- The offset and bit of element i of data of a type (R262). -/
def dataBit (ty i : Nat) : Nat := i * (fmtOf ty).bits

/-- Bytes that hold element i: offset and count. -/
def dataSpan (ty i : Nat) : Nat × Nat :=
  let b := dataBit ty i
  (b / 8, (b + (fmtOf ty).bits - 1) / 8 - b / 8 + 1)

/-- Offset of the scale byte of element i among n elements (R262). -/
def scaleOff (ty n i : Nat) : Nat := ceilDiv (ceilDiv (n * (fmtOf ty).bits) 8) 16 * 16 + i / 32

/-- What a rank's source element gives: code, scale byte, poison. -/
abbrev CollItem := Nat × Nat × Bool

/-- How reading the elements of several ranks ends: all read, or a rank's channel stops. -/
inductive CollRes where
  | ok (items : List CollItem) (s : State)
  | stop (ci ch : Nat) (r : Elem)

/-- The next copy of a channel as it stands now, with what it keeps (R376). -/
def State.headNow (s : State) (ci ch : Nat) (x : Copy) : Copy :=
  ((s.core? ci).bind (fun c => (c.chans.at' ch).queue.head?)).getD x

/-- Reads element i of a rank's source and its scale byte, and goes on with the item and the copy. -/
def collRead (ci : Nat) (c : Core) (s : State) (x : Copy) (i : Nat) (k : CollItem → State → Copy → Elem) : Elem :=
  let sp := dataSpan x.sty i
  let blocks := x.sty == 5 || x.sty == 7
  x.readAt ci c s sp.1 sp.2 (fun e s1 x1 =>
    x1.readAt ci c s1 (scaleOff x.sty x.n i) (if blocks then 1 else 0) (fun sb s2 x2 =>
      k (leNat (plain e) / 2 ^ (dataBit x.sty i % 8) % 2 ^ (fmtOf x.sty).bits,
        if blocks then leNat (plain sb) else 127, anyPsn e || anyPsn sb) s2 x2))

/-- Reads element i of each listed rank, (place, channel, copy, i), in rank order; each rank keeps the translation that its
read used (R376). -/
def collReads : List (Nat × Nat × Copy × Nat) → State → List CollItem → CollRes
  | [], s, acc => .ok acc s
  | (ci, ch, x, i) :: rest, s, acc =>
    match s.core? ci with
    | none => .ok acc s
    | some c =>
      match collRead ci c s (s.headNow ci ch x) i (fun it s1 x1 => .ok s1 { x1 with codes := [(it.1 * 256 + it.2.1, it.2.2)] }) with
      | .ok s1 x1 =>
        collReads rest (s1.updChan ci ch (fun k => k.setHead { x1 with codes := [] }))
          (acc ++ x1.codes.map (fun it => (it.1 / 256, it.1 % 256, it.2)))
      | r => .stop ci ch r

/-- Element i of the source of a rank on another package: a free value (log entry 3). -/
def Copy.farItem (x : Copy) (s : State) (rank i : Nat) : CollItem :=
  (s.free (wideKey 11 (rank * 2 ^ 32 + i)) % 2 ^ (fmtOf x.sty).bits,
    if x.sty == 5 || x.sty == 7 then s.free (wideKey 12 (rank * 2 ^ 32 + i / 32)) % 256 else 127,
    s.free (wideKey 13 (rank * 2 ^ 32 + i)) % 2 == 1)

/-- Removes element i of a list. -/
def pick {α : Type} (l : List α) (i : Nat) (d : α) : α × List α := (l.getD i d, l.eraseIdx i)

/-- Combines values by some binary tree, rounding each node into FP32: free values choose the tree (R263). -/
def treeSum (s : State) : Nat → List FNum → FNum
  | 0, l => l.headD (.zero false)
  | _ + 1, [] => .zero false
  | _ + 1, [a] => a
  | k + 1, l =>
    let p := pick l (s.free (freeKey 17 0 k) % l.length) (.zero false)
    let q := pick p.2 (s.free (freeKey 17 1 k) % p.2.length) (.zero false)
    treeSum s k (f32 (rneF (FNum.add .rne p.1 q.1)) :: q.2)

/-- The exact sum of integers (R263). -/
def intSum (l : List FNum) : FNum := l.foldl (FNum.add .rne) (.zero false)

/-- red of R263 for one element position, operators 0 to 2; SAT acts on the conversion of .add, .max and .min, and not on
that of .ag (log entry 30). -/
def Copy.collRed (x : Copy) (s : State) (items : List CollItem) : Nat :=
  let t := fmtOf x.sty
  let vs := items.map (fun i => if x.sty == 5 || x.sty == 7 then decodeScaled t i.2.1 i.1 else decodeNum t i.1)
  let rm := Rm.ofField (BitVec.ofNat 2 (bits (x.e 0) 55 54))
  let y := match x.cop with
    | 0 => if x.ckind == 1 then vs.headD (.zero false) else if t.isInt then intSum vs else treeSum s vs.length vs
    | 1 => (vs.tail).foldl FNum.max (vs.headD (.zero false))
    | _ => (vs.tail).foldl FNum.min (vs.headD (.zero false))
  cvt (fmtOf x.dty) rm (x.ckind != 1 && bitAt (x.e 0) 53) y

/-- The 32 results of a block in exact-integer mode, and its scale (R208, R209): rows holds each rank's elements; the
conversion rounds to nearest even without SAT (log entry 30). -/
def Copy.collExact (x : Copy) (rows : List (List CollItem)) : List Nat × Nat :=
  let t := fmtOf x.sty
  let e := (rows.map (fun r => collScale t ((r.map (fun i => i.2.1)).headD 127) (r.map (fun i => i.1)))).foldl Nat.max 0
  let n := (rows.map List.length).foldl Nat.max 0
  let outs := tabulate n (fun j => collOut t e (rows.map (fun r =>
    let i := r.getD j (0, 127, false)
    collElem t i.2.1 i.1)))
  let d := fmtOf x.dty
  if x.dty == 5 || x.dty == 7 then
    let sc := chooseScale d outs
    (outs.map (cvtScaled d .rne false sc), sc)
  else (outs.map (cvt d .rne false), 127)

/-- A rank writes codes to destination elements i, i + 1, …, and their scale where the type has one (R262); the unused bits of
the last byte are written zero (R6, R92). -/
def Copy.collWrite (x : Copy) (ci : Nat) (c : Core) (psn : Bool) : List Nat → Nat → Nat → State → Elem
  | [], i, sc, s =>
    if x.dty == 5 || x.dty == 7 then x.putDst ci c s (scaleOff x.dty x.total (i - 1)) [(BitVec.ofNat 8 sc, psn)] else .ok s x
  | v :: vs, i, sc, s =>
    let sp := dataSpan x.dty i
    match x.reachDst ci c s sp.1 sp.2 with
    | .ok ps s1 x1 =>
      let p := dataBit x.dty i % 8
      let w := (fmtOf x.dty).bits
      let code := if psn then s.free (wideKey 7 (ci * 2 ^ 40 + i)) % 2 ^ w else v
      (x1.sendBits s1 ps (if i + 1 == x.total then 8 * ps.length - 1 else p + w - 1) p code psn).collWrite ci c psn vs (i + 1) sc s1
    | .hold f s1 => .hold f true s1 x
    | .fault t fe s1 => .fault { info := t, write := true, fillErr := fe } s1 x

/-- Whether every rank's destination of a unit can be reached; the first that cannot stops its channel. -/
def collReady (n : Nat) : List (Nat × Nat × Copy) → State → CollRes
  | [], s => .ok [] s
  | (ci, ch, x) :: rest, s =>
    match s.core? ci with
    | none => collReady n rest s
    | some c =>
      let spans := (tabulate n (fun k => dataSpan x.dty (x.prog + k))) ++
        (if x.dty == 5 || x.dty == 7 then [(scaleOff x.dty x.total x.prog, 1)] else [])
      let bad := spans.findSome? (fun sp =>
        match x.reachDst ci c s sp.1 sp.2 with
        | .ok _ _ _ => none
        | .hold f s1 => some (Elem.hold f true s1 x)
        | .fault t fe s1 => some (Elem.fault { info := t, write := true, fillErr := fe } s1 x))
      match bad with
      | some r => .stop ci ch r
      | none => collReady n rest s

/-- The source elements, (place, channel, copy, i), of this package's ranks that results e of rank p depend on (R263). -/
def collSources (heads : List (Nat × Nat × Copy)) (x : Copy) (p e : Nat) : List (Nat × Nat × Copy × Nat) :=
  if x.ckind == 1 then
    (match heads[e / x.n - x.before]? with
      | some h => if e / x.n < x.before then [] else [(h.1, h.2.1, h.2.2, e % x.n)]
      | none => [])
  else heads.map (fun h => (h.1, h.2.1, h.2.2, if x.ckind == 0 then p * (x.n / x.rcount) + e else e))

/-- Every rank's items for results e of rank p in rank order, from those of this package's ranks (R262, R263). -/
def Copy.allItems (x : Copy) (s : State) (p e : Nat) (mine : List CollItem) : List CollItem :=
  if x.ckind == 1 then (if mine.isEmpty then [x.farItem s (e / x.n) (e % x.n)] else mine)
  else
    let i := if x.ckind == 0 then p * (x.n / x.rcount) + e else e
    tabulate x.before (fun q => x.farItem s q i) ++ mine
      ++ tabulate x.after (fun q => x.farItem s (x.before + mine.length + q) i)

/-- Elements of a unit of a COLL: a block in exact-integer mode, else one. -/
def Copy.collUnit (x : Copy) : Nat := if x.cop == 3 then Nat.min 32 (x.total - x.prog) else 1

/-- The results of a unit for rank p: codes, scale and poison. -/
inductive UnitRes where
  | ok (codes : List Nat) (scale : Nat) (psn : Bool) (s : State)
  | stop (ci ch : Nat) (r : Elem)

/-- Reads the elements of a unit, position by position. -/
def unitReads (heads : List (Nat × Nat × Copy)) (x : Copy) (p : Nat) : Nat → Nat → State → List (List CollItem) → UnitRes ⊕ (List (List CollItem) × State)
  | 0, _, s, acc => .inr (acc, s)
  | k + 1, j, s, acc =>
    match collReads (collSources heads x p (x.prog + j)) s [] with
    | .ok items s1 => unitReads heads x p k (j + 1) s1 (acc ++ [x.allItems s p (x.prog + j) items])
    | .stop ci ch r => .inl (.stop ci ch r)

/-- The results of a unit for rank p (R263). -/
def unitResult (heads : List (Nat × Nat × Copy)) (x : Copy) (p : Nat) (s : State) : UnitRes :=
  match unitReads heads x p x.collUnit 0 s [] with
  | .inl r => r
  | .inr (cols, s1) =>
    let psn := cols.any (fun l => l.any (fun i => i.2.2))
    if x.cop == 3 then
      let r := x.collExact (tabulate ((cols.map List.length).foldl Nat.max 0) (fun q => cols.map (fun l => l.getD q (0, 127, false))))
      .ok r.1 r.2 psn s1
    else .ok (cols.map (x.collRed s)) 127 psn s1

/-- Every rank's results of a unit: the ranks of .ag and .ar share theirs. -/
def unitResults (heads : List (Nat × Nat × Copy)) (x : Copy) : List Nat → State → List (List Nat × Nat × Bool) →
    UnitRes ⊕ (List (List Nat × Nat × Bool) × State)
  | [], s, acc => .inr (acc, s)
  | p :: ps, s, acc =>
    match unitResult heads x p s with
    | .ok codes sc psn s1 => unitResults heads x ps s1 (acc ++ [(codes, sc, psn)])
    | r => .inl r

/-- Every rank writes its results of a unit, and its progress advances (R240, R263). -/
def unitWrites (n left : Nat) : List ((Nat × Nat × Copy) × (List Nat × Nat × Bool)) → State → State
  | [], s => s
  | ((ci, ch, y), (codes, sc, psn)) :: rest, s =>
    match s.core? ci with
    | none => unitWrites n left rest s
    | some c =>
      let x := s.headNow ci ch y
      match (if codes.isEmpty then .ok s x else x.collWrite ci c psn codes x.prog sc s) with
      | .ok s1 x1 =>
        unitWrites n left rest (s1.landHead ci ch left { x1 with prog := x1.prog + n, unit := 1, mixed := true, fillBad := [], got := [] })
      | r => unitWrites n left rest (copyEnd ci ch left r)

/-- The results, (rank, element), that a unit's items of this package's ranks are sent for: with .rs those of the ranks on
other packages, else the unit's own (R263). -/
def Copy.shipped (x : Copy) (mine : Nat) : List (Nat × Nat) :=
  let es := tabulate x.collUnit (fun j => x.prog + j)
  if x.before + x.after == 0 then []
  else if x.ckind == 0 then
    (tabulate x.before id ++ tabulate x.after (fun q => x.before + mine + q)).flatMap (fun p => es.map (fun e => (p, e)))
  else es.map (fun e => (0, e))

/-- What this package's ranks send to those on other packages (R23, R263; log entry 3): kind 12, each item with its code,
scale byte and poison. The messages leave together, once every element has been read. -/
def collShip (heads : List (Nat × Nat × Copy)) (x : Copy) : List (Nat × Nat) → List Msg → State → CollRes
  | [], out, s => .ok [] { s with outbox := s.outbox ++ out }
  | (p, e) :: rest, out, s =>
    match collReads (collSources heads x p e) s [] with
    | .ok items s1 =>
      collShip heads x rest (out ++ (if items.isEmpty then [] else
        [{ pkg := 0xFFFFF, kind := 12, cl := p, addr := e
           data := items.flatMap (fun i => leBytes 4 i.1 ++ leBytes 1 i.2.1 ++ leBytes 1 (if i.2.2 then 1 else 0)) }])) s1
    | r => r

/-- Every matched COLL fails (R262). -/
def State.collFail (s : State) (heads : List (Nat × Nat × Copy)) (t : TrapInfo) : State :=
  heads.foldl (fun s h => s.copyFault h.1 h.2.1 { info := t, write := false, fillErr := false } h.2.2) s

/-- One unit of a COLL for all its ranks together (R262, R263): false when nothing could be done. -/
def collStep (task left : Nat) (x : Copy) (s : State) : State × Bool :=
  match s.collHeads task x x.ranks with
  | none => (s, false)
  | some heads =>
    match heads with
    | [] => (s, false)
    | h :: _ =>
      let y := h.2.2
      if heads.any (fun g => !g.2.2.collSame y) then (s.collFail heads (domainFault 7), false)
      else if y.total ≤ y.prog then (unitWrites 0 left (heads.map (fun g => (g, ([], 127, false)))) s, false)
      else
        let ps := if y.ckind == 0 then tabulate heads.length (fun i => y.before + i) else [0]
        match unitResults heads y ps s [] with
        | .inl (.stop ci ch r) => (copyEnd ci ch left r, false)
        | .inl _ => (s, false)
        | .inr (rs, s1) =>
          match collReady y.collUnit heads s1, collShip heads y (y.shipped heads.length) [] s1 with
          | .stop ci ch r, _ => (copyEnd ci ch left r, false)
          | _, .stop ci ch r => (copyEnd ci ch left r, false)
          | .ok _ _, .ok _ s2 =>
            (unitWrites y.collUnit left (heads.zipIdx.map (fun g => (g.1, if y.ckind == 0 then rs.getD g.2 ([], 127, false)
              else rs.headD ([], 127, false)))) s2, true)

/-- Up to n units of a COLL. -/
def collRun (task left : Nat) (x : Copy) : Nat → State → State
  | 0, s => s
  | n + 1, s =>
    match collStep task left x s with
    | (s1, true) => collRun task left x n s1
    | (s1, false) => s1

/-- Whether a rank of a COLL has been killed (R262). -/
def State.collBroken (s : State) (task : Nat) (x : Copy) : Bool :=
  x.ranks.any (fun vc => match s.peerCore task vc with
    | some c => c.killed
    | none => false)

/-- A bound on the elements, slabs, beats and chunks of a copy. -/
def Copy.bound (x : Copy) : Nat := 4097 * x.total + (if x.kind == .tcopy then x.beatCount else 0) + 2

/-- Whether a phase copy makes its first access now, after its slot, and has not been counted (R29, R239). -/
def Copy.lateNow (x : Copy) (clk : Nat) : Bool :=
  match x.openAt with
  | some t => x.prog == 0 && x.unit == 0 && !x.late && decide (t + x.slotClk < clk)
  | none => false

/-- Whether a copy of a trapped core may still fault on the clk of the trap (R389). -/
def Copy.mayJoin (x : Copy) (s : State) (c : Core) : Bool :=
  !c.freeze && !c.killed && (c.trapped.map (fun h => h.clk == s.clk)).getD false && x.started && x.fault.isNone && !s.redsPending c

/-- COPY_RUN (R235, R242): channel ch of the core at ci makes up to n elements of its next copy, all of them for n = 0; of
the bytes that the copy has sent the last few, left, stay on their way. A channel of a frozen core, or one that may not go
on, only performs what is sent; on the clk of the core's trap a fault of its next element is recorded too (R389). -/
def execCopyRun (ci ch : Nat) (w : CopyWork) (s : State) : Host.Outcome State Fault Refusal :=
  match s.core? ci with
  | none => .next s
  | some c =>
    match (c.chans.at' ch).queue with
    | [] => .next s
    | x :: _ =>
      let k := if w.elems == 0 then x.bound else w.elems
      let waits := c.halted || s.redsPending c || x.fault.isSome || !x.started
      let rest := Host.Outcome.next (if x.sent.isEmpty && !x.made then s else s.landHead ci ch w.left x)
      if waits || x.made then
        if x.mayJoin s c && !x.made then
          match oneElem ci c s x with
          | .fault f t y => .next (t.copyFault ci ch f y)
          | _ => rest
        else rest
      else if x.kind == .coll then
        if s.collBroken c.task x then
          .next (s.copyFault ci ch { info := barrierBroken x.lvl, write := false, fillErr := false } x)
        else .next (collRun c.task w.left x k s)
      else
        let s1 := if x.lateNow s.clk then s.addLate c.task 1 else s
        .next (copyEnd ci ch w.left (runElems ci c k s1 { x with late := x.late || x.lateNow s.clk }))

/-- PHASE_COPY_SLOT (R239): the slot of the channel's head copy has elapsed since the release that opened its phase; that
release orders the copy after what earlier copies of the channel wrote to UN pages (R225, R226). -/
def execPhaseCopySlot (ci ch : Nat) (s : State) : Host.Outcome State Fault Refusal :=
  match s.core? ci with
  | none => .next s
  | some c =>
    match (c.chans.at' ch).queue with
    | [] => .next s
    | x :: _ =>
      match x.openAt with
      | none => .next s
      | some t =>
        if x.started || c.halted || s.clk < t + x.slotClk then .next s
        else
          let late := t + x.slotClk < s.clk
          let s1 := s.updChan ci ch (fun k => k.setHead { x with started := true, late := late, uns := [] })
          .next (if late then s1.addLate c.task 1 else s1)

/-- Whether a finished copy still has a number of a timeline to complete (R228). -/
def Copy.owes (x : Copy) (tl : Nat) : Bool :=
  (tl == 0 && !x.did0) || (!x.did1 && (if x.kind == .coll then tl == 2 else tl == 1))

/-- Whether a finished copy is done in every respect. -/
def Copy.settled (x : Copy) : Bool := x.did0 && x.did1 && !x.owed && x.fault.isNone

/-- Whether a COLL still waits for another rank's writes (R263). -/
def State.collWaits (s : State) (task : Nat) (x : Copy) : Bool :=
  x.kind == .coll && s.cores.any (fun d => d.task == task && x.ranks.contains d.vcore && (List.range 4).any (fun k =>
    (d.chans.at' k).queue.any (fun y => y.kind == .coll && y.lvl == x.lvl && y.collNo == x.collNo)))

/-- The operations of a core's channel that may become done on a timeline (R228, R236), each with its place among those whose
accesses are all performed, none for the next copy: that one may once it has made all its reads, on timeline 0. One that
accesses nothing waits for every earlier copy of its channel. -/
def State.doneCands (s : State) (c : Core) (tl ch : Nat) : List (Option Nat × Copy) :=
  let q := c.chans.at' ch
  let heads := if tl == 0 then
      (q.queue.take 1).filter (fun x => !x.did0 && x.started && x.readAll && (x.total != 0 || x.kind == .enc))
    else []
  heads.map (fun x => (none, x)) ++ ((q.ending.zipIdx).filter (fun p =>
    p.1.owes tl && (tl == 0 || !s.collWaits c.task p.1) && (p.1.total != 0 || p.1.kind == .enc
      || (q.ending.take p.2).all (fun y => y.did0 && y.did1)))).map (fun p => (some p.2, p.1))

/-- A channel with a copy's numbers noted as done: the next copy, or one whose accesses are all performed. -/
def Channel.note (q : Channel) (i : Option Nat) (y : Copy) : Channel :=
  match i with
  | none => q.setHead y
  | some i => { q with ending := (q.ending.set i y).filter (fun z => !z.settled) }

/-- TIMELINE_COMPLETE (R228, R236): one operation numbered on timeline 0, 1 or 2 of the core becomes done; a free value
says which of those that can. One done on timeline 1 or 2 posts the number of destination bytes that it wrote. -/
def execTimelineComplete (ci tl : Nat) (s : State) : Host.Outcome State Fault Refusal :=
  match s.core? ci with
  | none => .next s
  | some c =>
    let cands := (List.range 4).flatMap (fun ch => (s.doneCands c tl ch).map (fun p => (ch, p.1, p.2)))
    match cands[s.free (freeKey 20 0 0) % cands.length]? with
    | none => .next s
    | some (ch, i, x) =>
      let y := if tl == 0 then { x with did0 := true } else { x with did1 := true }
      .next ((s.updCore ci (fun c => c.doneNum tl (if tl == 0 then x.n0 else x.n1))).updChan ci ch (fun k =>
        { k.note i y with count := if tl == 0 then k.count else x.wrote.length }))

/-- TCOPY_STAGE_RELEASE (R252, R280): the first finished TCOPY of the channel that owes its release makes it; where the
checks fail the release is not made and the issuing core traps. -/
def execTcopyStageRelease (ci ch : Nat) (s : State) : Host.Outcome State Fault Refusal :=
  match s.core? ci with
  | none => .next s
  | some c =>
    match (c.chans.at' ch).ending.findIdx? (fun x => x.owed) with
    | none => .next s
    | some i =>
      match (c.chans.at' ch).ending[i]? with
      | none => .next s
      | some x =>
        let k := x.stage?.getD 0
        let put := fun (y : Copy) (t : State) => t.updChan ci ch (fun q =>
          { q with ending := (q.ending.set i y).filter (fun z => !z.settled) })
        let bad := (put { x with owed := false, fault := some { info := stageFault k, write := true, fillErr := false } } s).takeTrap
          ci (3 + ch) none (stageFault k)
        if c.halted then .next s
        else match s.coreAt (s.phys c) (x.stageOwner s c) with
          | none => .next bad
          | some (oi, o) =>
            match (o.stages.at' k).relW x.dst.toNat with
            | none => .next bad
            | some st =>
              .next (put { x with owed := false } (s.updCore oi (fun o => { o with stages := o.stages.put k st })))

end Sys2Proof.Machine
end

