-- ==== Sys2Proof/Machine/Homes.lean ====
section
/-! DEFINITION. Atomics at their home slice, merge buffers and the migration of homes (spec/11, R269-R273; spec/09, R231,
R232). -/
namespace Sys2Proof.Machine

/-- A strand of a core, as an instruction's body sees it. -/
def State.atOf (s : State) (ci : Nat) (e : Eng) : Option At :=
  (s.core? ci).map (fun c => { ci := ci, e := e, c := c, st := c.strand e, budget := 0 })

/-- The instruction that a strand holds retires, with a result bound; in a core that has frozen meanwhile its results land
and its pushes are made at once (R67, R300). -/
def State.finishHeld (s : State) (ci : Nat) (e : Eng) (lat : Nat) : State :=
  match s.atOf ci e with
  | none => s
  | some v =>
    let t := v.retire (Hdr.ofWord ((v.st.current e).headD 0)) 1 lat s
    if v.c.halted then t.updCore ci Core.landAll else t

/-- The scalar register that the atomic held by the A strand writes. -/
def atomDest (ws : List Word) : Option (BitVec 5) :=
  match decode ws with
  | .ok (.atom _ f) => some f.sd
  | .ok (.cas _ f) => some f.sd
  | _ => none

/-- The home of a region counts an atomic; the first one takes the entry's home (R269). -/
def State.countHome (s : State) (r : HomeReq) : State :=
  if 2 ^ 39 ≤ r.addr then s
  else
    let g := r.addr / 2 ^ 21
    let bump := fun (l : List (Nat × Nat)) =>
      if l.any (fun p => p.1 == r.die) then l.map (fun p => if p.1 == r.die then (p.1, p.2 + 1) else p)
      else l ++ [(r.die, 1)]
    if s.homes.any (fun x => x.region == g) then
      { s with homes := s.homes.map (fun x =>
          if x.region == g then { x with counts := bump x.counts, lock := r.lock, big := r.big } else x) }
    else { s with homes := s.homes ++ [{ region := g, die := r.home, lock := r.lock, big := r.big, counts := [(r.die, 1)] }] }

/-- The value that an atomic leaves at its location (R271). -/
def homeNew (r : HomeReq) (old : Nat) : Nat :=
  match r.kind with
  | .cas => if old == r.cmp then r.val else old
  | _ => aopApply r.aop r.ty old r.val

/-- The old value as ATOM and CAS return it: sign-extended for INT32, zero-extended for FP32 (R271). -/
def homeOld (ty old : Nat) : Word := if ty == 11 then sext64 32 old else BitVec.ofNat 64 old

/-- Whether a request must wait for one that stands before it (R218, R223). -/
def State.mustWait (s : State) (i : Nat) : Bool :=
  match s.reqs[i]? with
  | none => false
  | some r => (s.reqs.take i).any r.follows

/-- HOME_ATOMIC (R231, R271, R272): request i is performed indivisibly, once those it follows have been (R218, R223). A RED
must have left the merge buffers. -/
def execHomeAtomic (i : Nat) (s : State) : Host.Outcome State Fault Refusal :=
  match s.reqs[i]? with
  | none => .next s
  | some r =>
    let z := atomBytes r.ty
    let old := readNat s.mem r.addr z
    let bad := s.poisoned r.addr
    let s1 := { s with reqs := s.reqs.eraseIdx i }.countHome r
    let wrote := if bad then s1 else s1.storeNat r.addr z (homeNew r old)
    if !r.sent || s.mustWait i then .next s
    else match r.kind with
      | .red => .next wrote
      | _ =>
        match (r.cores.head?).bind s.place with
        | none => .next wrote
        | some ci =>
          if bad then .next ((s1.unissue ci .a).takeTrap ci 0 (some .a) (poisonTrap 0 r.va))
          else match wrote.atOf ci .a with
            | none => .next wrote
            | some v =>
              match atomDest (v.st.current .a) with
              | none => .next wrote
              | some sd => .next ((v.putS wrote sd (homeOld r.ty old) 0).finishHeld ci .a 0)

/-- MERGE_BUFFER_FORWARD (R232, R273): entry i leaves its merge buffer; on its way it may still meet another entry that it
may join, and a free value says whether and which. -/
def execMergeBufferForward (i : Nat) (s : State) : Host.Outcome State Fault Refusal :=
  match s.reqs[i]? with
  | none => .next s
  | some r =>
    let l := mergeable s.reqs r i
    if r.sent then .next s
    else match l[s.free (freeKey 11 0 0) % (l.length + 1)]? with
      | some j => .next { s with reqs := (modifyAt s.reqs j (fun q => q.join r)).eraseIdx i }
      | none => .next { s with reqs := modifyAt s.reqs i (fun q => { q with sent := true }) }

/-- The home of a region after a window (R269). -/
def Home.migrate (x : Home) : Home :=
  let total := (x.counts.map (fun p => p.2)).sum
  match x.counts.find? (fun p => p.1 != x.die && 3 * total ≤ 4 * p.2) with
  | some p => { x with die := if !x.lock && !x.big && 256 ≤ total then p.1 else x.die, counts := [] }
  | none => { x with counts := [] }

/-- HOME_MIGRATION_WINDOW (R269): the end of a window of 2^20 clk. -/
def execHomeMigrationWindow (s : State) : Host.Outcome State Fault Refusal :=
  if s.clk % 2 ^ 20 == 0 then .next { s with homes := s.homes.map Home.migrate } else .next s

end Sys2Proof.Machine
end

