-- ==== Sys2Proof/Machine/Lists.lean ====
section
/-! DEFINITION. Work lists, the decision of QUIESCE and the release of barriers (spec/11, R284-R292). -/
namespace Sys2Proof.Machine

/-- A work-list descriptor as it stands in memory (R287). -/
structure ListDesc where
  table : Nat
  raw : Nat

/-- Word i of a descriptor. -/
def ListDesc.word (d : ListDesc) (i : Nat) : Nat := bits d.raw (64 * i + 63) (64 * i)
/-- RBASE (R287). -/
def ListDesc.rbase (d : ListDesc) : Nat := bits (d.word 0) 51 0
/-- ANCHOR (R287). -/
def ListDesc.anchor (d : ListDesc) : Nat := bits (d.word 1) 63 48
/-- VALID (R287). -/
def ListDesc.valid (d : ListDesc) : Bool := bitAt (d.word 1) 35
/-- LVL (R287). -/
def ListDesc.lvl (d : ListDesc) : Nat := bits (d.word 1) 34 32
/-- CAP (R287). -/
def ListDesc.cap (d : ListDesc) : Nat := bits (d.word 1) 31 0
/-- HEAD (R287). -/
def ListDesc.head (d : ListDesc) : Nat := d.word 2
/-- TAIL (R287). -/
def ListDesc.tail (d : ListDesc) : Nat := d.word 3

/-- The descriptor at an address. -/
def State.descAt (s : State) (a : Nat) : ListDesc := { table := a, raw := readNat s.mem a 64 }

/-- The descriptor of list n of a core's context, where its VA translates (R287). -/
def State.listOf (s : State) (c : Core) (n : Nat) : Option ListDesc :=
  match s.xlateCore c .load ((c.wlt.toNat + 64 * n) % 2 ^ 52) with
  | .ok _ _ a => some (s.descAt a)
  | _ => none

/-- The checks of R289 on a list's descriptor. -/
def listBad (s : State) (c : Core) (d : ListDesc) : Bool :=
  !d.valid || !rsv (d.word 0) 63 52 || !rsv (d.word 1) 47 36 || bits d.raw 511 256 != 0 || d.rbase % 32 != 0
    || d.cap == 0 || !(1 ≤ d.lvl && d.lvl ≤ 4) || s.nclus c * s.ppc c ≤ d.anchor
    || (List.range ((d.rbase % 2 ^ 16 + 32 * d.cap + 2 ^ 16 - 1) / 2 ^ 16)).any (fun i =>
      match s.xlateCore c .store (d.rbase / 2 ^ 16 * 2 ^ 16 + 2 ^ 16 * i) with
      | .ok _ _ _ => false
      | _ => true)

/-- LIST_FAULT (R388). -/
def listFault (n : Nat) : TrapInfo := trapOf 0x11 (n % 256) 0

/-- APPEND and WLPOP at their issue: the checks of R289, then the request to the list's home (R291). -/
def listBody (f : FmtY) (pop : Bool) (v : At) (s : State) : Res :=
  let n := (s.readS v f.sa).toNat
  if 256 ≤ n then .trap (listFault n) s
  else if s.redsPending v.c then .wait .home s
  else match s.access v .load ((v.c.wlt.toNat + 64 * n) % 2 ^ 52) 64 with
    | .trap t => .trap t (s.holdFault v.ci t)
    | .hold x => .wait (.fill x.va false) (s.holdFill v.ci x)
    | .ok as _ _ t =>
      let d := t.descAt (as.headD 0)
      if listBad t v.c d then .trap (listFault n) s
      else
        let r := s.readV v (f.ops.extractLsb' 0 5)
        .hold (.list n) { t with lists := t.lists ++
          [{ core := v.c.key, pop := pop, ctx := s.ctxNo v.c, list := n, va := (v.c.wlt.toNat + 64 * n) % 2 ^ 52, table := d.table,
             words := d.raw % 2 ^ 128,
             dedup := !pop && f.ops.getLsbD 5, key := (s.readS v f.sb).toNat, reg := (f.ops.extractLsb' 0 5).toNat,
             item := if pop then [] else (List.range 8).flatMap (fun i => leBytes 4 (r.at' i).toNat) }] }

/-- APPEND (R288, R289, R291). -/
def execAppend (h : Hdr) (f : FmtY) (s : State) : Host.Outcome State Fault Refusal :=
  s.issueWord h 1 (fun v _ => v.ownCheck f.sd) noAgain (listBody f false)

/-- WLPOP (R288, R290, R291). -/
def execWlpop (h : Hdr) (f : FmtY) (s : State) : Host.Outcome State Fault Refusal :=
  s.issueWord h 1 (fun v _ => v.ownCheck f.sd) noAgain (listBody f true)

/-- A status word (R288). -/
def listStatus (st slot : Nat) : Nat := st * 2 ^ 62 + slot

/-- The descriptor that a request works with at its home: the array it found at its issue, so that it touches no record
outside the old or the new one (R287), with HEAD and TAIL as they stand. -/
def State.descFor (s : State) (r : ListReq) : ListDesc :=
  { table := r.table, raw := r.words + (s.descAt r.table).raw / 2 ^ 128 * 2 ^ 128 }

/-- The table entries that the walker of a request's core holds (R377). -/
def State.walksFor (s : State) (r : ListReq) : List Tlb :=
  (((s.place r.core).bind s.core?).map s.walksOf).getD []

/-- The unified address of a record slot, where its VA translates. -/
def State.recordAt (s : State) (r : ListReq) (d : ListDesc) (slot : Nat) : Option Nat :=
  match s.xlate r.ctx [] (s.walksFor r) .store (d.rbase + 32 * slot) with
  | .ok _ _ a => some a
  | _ => none

/-- Whether a key is that of an unpopped record which a list holds in the slot where it was entered (R289). -/
def ListDesc.holds (d : ListDesc) (k : ListKey) : Bool :=
  decide (d.head ≤ k.index) && decide (k.index < d.tail) && k.slot == k.index % d.cap

/-- The keys of a list whose record the append at its tail does not replace (R287, R289). -/
def State.keysBelow (s : State) (r : ListReq) (tail : Nat) : List ListKey :=
  s.keys.filter (fun k => !(k.ctx == r.ctx && k.list == r.list && decide (tail ≤ k.index)))

/-- An APPEND at its home (R289): the status and the state. -/
def State.appendAt (s : State) (r : ListReq) : Option (Nat × State) :=
  let d := s.descFor r
  let mine := fun (k : ListKey) => k.ctx == r.ctx && k.list == r.list && k.key == r.key && d.holds k
  match (if r.dedup then s.keys.find? mine else none) with
  | some k =>
    (s.recordAt r d k.slot).map (fun a =>
      (listStatus 2 k.slot, s.storeNat (a + 28) 4
        (rneF (FNum.add .rne (f32 (readNat s.mem (a + 28) 4)) (f32 (fieldAt r.item 28 4))))))
  | none =>
    if (d.tail + 2 ^ 64 - d.head) % 2 ^ 64 == d.cap then some (listStatus 1 0, s)
    else
      let slot := d.tail % d.cap
      (s.recordAt r d slot).map (fun a =>
        let s1 := (s.storeBytes a r.item).storeNat (r.table + 24) 8 (d.tail + 1)
        let old := s1.keysBelow r d.tail
        (listStatus 0 slot, { s1 with keys := if r.dedup then
          old ++ [{ ctx := r.ctx, list := r.list, key := r.key, slot := slot, index := d.tail }] else old }))

/-- A WLPOP at its home (R290): the status, the record popped, and the state. -/
def State.popAt (s : State) (r : ListReq) : Option (Nat × Option (List (BitVec 8)) × State) :=
  let d := s.descFor r
  if d.head == d.tail then some (listStatus 3 0, none, s)
  else
    let slot := d.head % d.cap
    (s.recordAt r d slot).map (fun a =>
      let s1 := s.storeNat (r.table + 16) 8 (d.head + 1)
      (listStatus 0 slot, some (readBytes s.mem a 32),
        { s1 with keys := s1.keys.filter (fun k => !(k.ctx == r.ctx && k.list == r.list && k.index == d.head)) }))

/-- The scalar register that the list instruction held by the V strand writes. -/
def listDest (ws : List Word) : Option (BitVec 5) :=
  match decode ws with
  | .ok (.append _ f) => some f.sd
  | .ok (.wlpop _ f) => some f.sd
  | _ => none

/-- The status, and the record of a WLPOP, return to the core, and its V strand goes on (R290, R291). -/
def State.listReturn (s : State) (ci : Nat) (r : ListReq) (st : Nat) (item : Option (List (BitVec 8))) : State :=
  match s.atOf ci .v with
  | none => s
  | some v =>
    match listDest (v.st.current .v) with
    | none => s
    | some sd =>
      let s1 := v.putS s sd (BitVec.ofNat 64 st) 2
      let s2 := match item with
        | none => s1
        | some bs => v.putV s1 (BitVec.ofNat 5 r.reg) 0xFF (fun i => BitVec.ofNat 32 (fieldAt bs (4 * i) 4)) 2
      s2.finishHeld ci .v 2

/-- HOME_LIST_OP (R289-R291): request i is performed at its home. A record page that no longer translates traps
LIST_FAULT. -/
def execHomeListOp (i : Nat) (s : State) : Host.Outcome State Fault Refusal :=
  match s.lists[i]? with
  | none => .next s
  | some r =>
    let s1 := { s with lists := s.lists.eraseIdx i }
    let done := fun (st : Nat) (item : Option (List (BitVec 8))) (t : State) =>
      match t.place r.core with
      | none => Host.Outcome.next t
      | some ci => .next (t.listReturn ci r st item)
    let bad := match s1.place r.core with
      | none => Host.Outcome.next s1
      | some ci => .next ((s1.unissue ci .v).takeTrap ci 2 (some .v) (listFault r.list))
    if r.pop then
      match s1.popAt r with
      | some (st, item, t) => done st item t
      | none => bad
    else
      match s1.appendAt r with
      | some (st, t) => done st none t
      | none => bad

/-- Whether a list belongs to the level-L domain of a core (R287). -/
def State.listIn (s : State) (c : Core) (lvl : Nat) (d : ListDesc) : Bool :=
  d.valid && d.lvl == lvl && (match s.peerCore c.task d.anchor with
    | some a => s.sameDomain lvl c a
    | none => false)

/-- The lists that belong to a core's level-L domain, with their numbers (R287, R292). -/
def State.domainLists (s : State) (c : Core) (lvl : Nat) : List (Nat × ListDesc) :=
  (List.range 256).filterMap (fun n =>
    match s.listOf c n with
    | some d => if s.listIn c lvl d then some (n, d) else none
    | none => none)

/-- Whether a core is in QUIESCE at a level, and with which flag (R292). -/
def Core.inQuiesce (c : Core) (lvl : Nat) : Option Nat :=
  if !c.halted && c.quiet.isNone && c.strands.all (fun st => st.wait == .quiesce lvl && st.held.isSome) then
    some (bits ((c.strandA.held.getD []).headD 0).toNat 2 0)
  else none

/-- A core's QUIESCE ends with an outcome: at once where its flag is free, else once it is (R292, R301). -/
def State.endQuiesce (s : State) (ci lvl r : Nat) : State :=
  s.updCore ci (fun c =>
    match c.inQuiesce lvl with
    | none => c
    | some n => if c.flagFree n then c.leaveQuiesce n (r == 1) (s.iclk c) else { c with quiet := some r })

/-- QUIESCE_DECISION (R292): work for this member, or termination for all. remote is what the members on other packages
report (log entry 3): a list that belongs to the domain holds a record there, or all of them are in QUIESCE with their
lists empty and nothing in flight. -/
def execQuiesceDecision (ci : Nat) (q : QuiesceNews) (s : State) : Host.Outcome State Fault Refusal :=
  match s.core? ci with
  | none => .next s
  | some c =>
    match c.inQuiesce q.lvl with
    | none => .next s
    | some _ =>
      let ls := s.domainLists c q.lvl
      let places := s.domain q.lvl c
      let peers := s.needsPeers c q.lvl
      if ls.any (fun d => d.2.head != d.2.tail) || peers && q.remote == some false then .next (s.endQuiesce ci q.lvl 0)
      else if (!peers || q.remote == some true) && places.all (fun j => match s.core? j with
          | some d => d.gone || (d.inQuiesce q.lvl).isSome
          | none => true)
        && !s.lists.any (fun r => !r.pop && r.ctx == s.ctxNo c && ls.any (fun d => d.1 == r.list)) then
        .next (places.foldl (fun s j => s.endQuiesce j q.lvl 1) s)
      else .next s

/-- Keys of lists whose domain has completed a SYNC at their level or above are forgotten (R289). -/
def State.forgetKeys (s : State) (c : Core) (lvl : Nat) : State :=
  { s with keys := s.keys.filter (fun k =>
      !(k.ctx == s.ctxNo c && (match s.listOf c k.list with
        | some d => d.lvl ≤ lvl && (match s.peerCore c.task d.anchor with
          | some a => s.sameDomain lvl c a
          | none => false)
        | none => false))) }

/-- The smallest nonzero budget among the SYNCs that close a phase, in clk (R284). -/
def phaseLimit (cores : List Core) (lvl : Nat) : Option Nat :=
  let l := (cores.map (fun c => (c.bars.at' lvl))).filter (fun b => b.sync && b.budget != 0)
  (l.map (fun b => 16 * b.budget)).min?

/-- Whether a phase copy of a core that a SYNC of the level opened is not yet done (R29, R239). -/
def Core.openCopies (c : Core) (lvl : Nat) : Bool := c.copies.any (fun x => x.phase == some lvl && x.openAt.isSome)

/-- A channel's phase copies of a level are opened at a clk (R239). -/
def Channel.openPhase (x : Channel) (lvl clk : Nat) : Channel :=
  { x with queue := x.queue.map (fun y =>
      if y.phase == some lvl && y.openAt.isNone then { y with openAt := some clk } else y) }

/-- What a release does to one member (R29, R239, R284): the episode is done; a SYNC starts the next phase, opens the phase
copies where that is a communication phase, one of odd number, and lets the strands go that wait in it. -/
def Core.release (c : Core) (lvl clk now : Nat) (closing : Bool) : Core :=
  let b := c.bars.at' lvl
  let b1 := { b with done := b.made }
  let b2 := if closing then { b1 with phase := b.phase + 1, openClk := clk } else b1
  let c1 := { c with bars := c.bars.put lvl b2 }
  let c2 := if b.sync && b.phase % 2 == 0 then { c1 with chans := RegFile.tab 2 (fun k => (c.chans.at' k).openPhase lvl clk) } else c1
  if c.halted then c2
  else c2.letGo now (fun st => st.synced == some lvl && st.wait == .barrier lvl && st.held.isSome)

/-- Whether a member may not change its lower domains: an arrival at the level or below is not completed (R286). -/
def Core.arrivalOpen (c : Core) (lvl : Nat) : Bool :=
  (List.range (lvl + 1)).any (fun l => (c.bars.at' l).done < Nat.max (c.bars.at' l).made (c.bars.at' l).byA)

/-- The pending DMSETs of a released domain take effect, or trap (R286); far: a member on another package has an arrival that
is not completed. -/
def State.applyDmsets (s : State) (places : List Nat) (lvl : Nat) (far : Bool) : State :=
  let cores := places.filterMap (fun j => (s.core? j).map (fun c => (j, c)))
  let pend := cores.filter (fun p => (p.2.dmNext.at' (lvl - 1)).isSome)
  if pend.isEmpty then s
  else
    let drop := fun (s : State) => pend.foldl (fun s p =>
      s.updCore p.1 (fun c => { c with dmNext := c.dmNext.put (lvl - 1) none })) s
    if far || cores.any (fun p => !p.2.gone && p.2.arrivalOpen lvl) then
      pend.foldl (fun s p => s.takeTrap p.1 0 (some .a) (domainFault lvl)) (drop s)
    else
      let s1 := drop (pend.foldl (fun s p => s.updCore p.1 (fun c =>
        { c with dm := c.dm.put (lvl - 1) ((c.dmNext.at' (lvl - 1)).getD 0) })) s)
      cores.foldl (fun t p =>
        (List.range (lvl + 1)).foldl (fun t l =>
          match s1.core? p.1 with
          | none => t
          | some d =>
            if l == 0 || s.domain l p.2 == s1.domain l d then t
            else t.updCore p.1 (fun c => { c with bars := c.bars.put l Barrier.zero })) t) s1

/-- A draining task whose whole rest closed a phase stops (R360). -/
def State.drainStop (s : State) (task : Nat) (places : List Nat) : State :=
  match s.task? task with
  | none => s
  | some t =>
    let all := (s.cores.zipIdx).all (fun p => p.1.task != task || p.1.gone || places.contains p.2)
    match t.stage with
    | .draining _ =>
      if all then (s.updTask task (fun t => { t with stage := .stopping })).mapCores (fun c => c.task == task)
        (fun c => { c with stopped := true })
      else s
    | _ => s

/-- Whether an episode of a core's level-L domain can complete: every member that has not left has made its arrival, what
those arrivals cover is performed, and a closing SYNC finds its phase's copies visible (R225, R239, R284). -/
def State.canRelease (s : State) (lvl : Nat) (cores : List Core) : Bool :=
  let live := cores.filter (fun c => !c.gone)
  !live.isEmpty && live.all (fun c =>
      !(c.bars.at' lvl).broken && (c.bars.at' lvl).done < (c.bars.at' lvl).made)
    && cores.all (fun c => !s.redsPending c)
    && (!live.any (fun c => (c.bars.at' lvl).sync) || cores.all (fun c => !c.openCopies lvl))

/-- The least of two limits of a phase, where 0 and none set none (R284). -/
def minLimit (a : Option Nat) (b : Nat) : Option Nat :=
  if b == 0 then a else some (match a with
    | none => b
    | some n => Nat.min n b)

/-- BARRIER_RELEASE (R225, R284-R286, R360). remote is the news of the members on other packages (log entry 3): whether they
have arrived, whether one of them closes the phase with a SYNC and the smallest limit of those, whether an arrival of theirs
below the level is open, and whether one has been killed, which breaks the domain. -/
def execBarrierRelease (ci lvl : Nat) (remote : BarrierNews) (s : State) : Host.Outcome State Fault Refusal :=
  match s.core? ci with
  | none => .next s
  | some c =>
    let places := s.domain lvl c
    let cores := places.filterMap s.core?
    let peers := s.needsPeers c lvl
    if lvl < 5 && peers && remote.broken then .next (s.breakHereAt lvl c)
    else if 5 ≤ lvl || !s.canRelease lvl cores || (peers && !remote.arrived) then .next s
    else
      let live := cores.filter (fun c => !c.gone)
      let closing := live.any (fun c => (c.bars.at' lvl).sync) || (peers && remote.sync)
      let b := (live.headD c).bars.at' lvl
      let late := closing && b.phase != 0 && (match minLimit (phaseLimit live lvl) (if peers then 16 * remote.budget else 0) with
        | some n => b.openClk + n < s.clk
        | none => false)
      let s1 := if late then s.addLate c.task 1 else s
      let s2 := places.foldl (fun s j => s.updCore j (fun d => if d.gone then d else d.release lvl s.clk (s.iclk d) closing)) s1
      if !closing then .next s2
      else
        let s3 := (s2.forgetKeys c lvl)
        let s4 := if 2 ≤ lvl then s3.applyDmsets places (lvl - 1) (peers && remote.unfinished) else s3
        .next (s4.drainStop c.task places)

end Sys2Proof.Machine
end

