-- ==== Sys2Proof/Machine/Welt.lean ====
section
/-! DEFINITION. The welt: route registers, WLOAD, source and destination ports, transpose units and the end of a route
(spec/13, R320-R337, R342). -/
namespace Sys2Proof.Machine

/-- Whether another route than route rt of the core at ci satisfies a property in a physical cluster. -/
def State.otherRoute (s : State) (cl ci rt : Nat) (p : Route → Bool) : Bool :=
  (s.routesIn cl).any (fun x => !(x.1 == ci && x.2.1 == rt) && p x.2.2)

/-- The route that WROUTE's extension words describe (R333, R334). -/
def routeOf (e1 e2 : Nat) : Route :=
  let strips := tabulate (bits e1 54 52) (fun j => bits e1 (51 - 4 * j) (48 - 4 * j))
  let dests := tabulate (bits e2 9 7 + 1) (fun j => bits e2 (57 - 6 * j) (52 - 6 * j))
  { Route.zero with
    mode := .conf
    src := BitVec.ofNat 9 (bits e1 63 55)
    strips := strips
    sstg := bits e1 35 33
    sacc := bits e1 32 31
    dkind := bits e2 63 61
    dstg := bits e2 60 58
    dests := dests
    links := strips.map (fun _ => Link.empty)
    outs := dests.map (fun _ => Link.empty)
    dstSeq := dests.map (fun _ => 0)
    dstPos := dests.map (fun _ => 0) }

/-- Whether a list holds an element twice. -/
def hasTwice : List Nat → Bool
  | [] => false
  | x :: xs => xs.contains x || hasTwice xs

/-- The WELT_FAULT conditions of WROUTE (R334). -/
def Route.bindBad (r : Route) (s : State) (c : Core) (ci rt : Nat) : Bool :=
  let cl := s.phys c
  let busy := (c.routes.at' rt).mode
  busy == .run || busy == .drain || hasTwice r.strips
    || (r.srcKind < 6 && s.ppc c ≤ r.srcSlot) || (r.dkind < 6 && r.dests.any (fun d => s.ppc c ≤ d))
    || (6 ≤ r.dkind && r.srcKind == r.dkind)
    || s.otherRoute cl ci rt (fun x => x.src == r.src || x.strips.any (fun j => r.strips.contains j)
        || (x.dkind == r.dkind && (6 ≤ r.dkind || x.dests.any (fun d => r.dests.contains d))))

/-- Extension word 1 of WROUTE, with the chain taken from s[sb] where CHR says so (R334). -/
def chainWord (f : FmtW) (e1 : BitVec 64) (v : At) (s : State) : Nat :=
  if f.ops.getLsbD 17 then setBits e1.toNat 54 36 (bits (s.readS v f.sb).toNat 54 36) else e1.toNat

/-- WROUTE (R333, R334). -/
def execWroute (h : Hdr) (f : FmtW) (e1 e2 : BitVec 64) (s : State) : Host.Outcome State Fault Refusal :=
  s.issueWord h 3 (fun v s => if wrouteOk (chainWord f e1 v s) e2.toNat then none else some (illegalOp 6)) noAgain
    (fun v s =>
      let r := routeOf (chainWord f e1 v s) e2.toNat
      if r.bindBad s v.c v.ci f.rt.toNat then .trap (weltFault f.rt.toNat (r.strips.headD 0)) s
      else .done (s.updRoute v.ci f.rt.toNat (fun _ => r)) 0)

/-- WROUTE.free (R334). -/
def execWrouteFree (h : Hdr) (f : FmtW) (_e1 _e2 : BitVec 64) (s : State) : Host.Outcome State Fault Refusal :=
  s.issueWord h 3 noEarly noAgain (fun v s =>
    let m := (v.c.routes.at' f.rt.toNat).mode
    if m == .run || m == .drain then .trap (weltFault f.rt.toNat 0) s
    else .done (s.updRoute v.ci f.rt.toNat (fun _ => Route.zero)) 0)

/-- The operations of a strip's class (R324). -/
def classOps (ws : Nat) : List Nat :=
  if ws < 6 then [0, 1, 2, 3, 4, 5, 6, 7]
  else if ws < 10 then [0, 1, 5, 6, 8, 9]
  else if ws < 14 then [0, 1, 10, 11] else [0, 1, 12]

/-- Whether a strip may hold a strip instruction (R324, R326-R329). -/
def stripWordOk (ws : Nat) (w : BitVec 32) : Bool :=
  match decodeStrip w with
  | none => false
  | some i => fieldsOk i && (classOps ws).contains (w.extractLsb' 28 4).toNat

/-- Bytes of a strip image (R332). -/
def imageBytes (ws : Nat) : Nat := if 14 ≤ ws then 1668 else 640

/-- The strip state that an image gives (R325, R332). -/
def stripOf (ws n : Nat) (img : List (BitVec 8)) (old : Strip) : Strip :=
  { old with
    prog := tabulate n (fun i => BitVec.ofNat 32 (fieldAt img (4 * i) 4))
    c0 := RegFile.tab 6 (fun i => BitVec.ofNat 32 (fieldAt img (128 + 4 * i) 4))
    c1 := RegFile.tab 6 (fun i => BitVec.ofNat 32 (fieldAt img (384 + 4 * i) 4))
    table := if 14 ≤ ws then RegFile.tab 9 (fun i => BitVec.ofNat 32 (fieldAt img (640 + 4 * i) 4)) else old.table }

/-- WLOAD (R332). -/
def execWload (h : Hdr) (f : FmtW) (s : State) : Host.Outcome State Fault Refusal :=
  s.issueWord h 1 noEarly noAgain (fun v s =>
    let a := (s.readS v f.sa).toNat
    let ws := f.ws.toNat
    let n := bits f.ops.toNat 4 0 + 1
    let len := imageBytes ws
    let cl := s.phys v.c
    let as := (List.range len).filterMap (fun i => s.winAddr v.c (a + i))
    let img := as.map (readByte s.mem)
    let read := (as.zipIdx).filter (fun p => p.2 < 4 * n || 128 ≤ p.2)
    let x := stripOf ws n img ((s.clusters.at' cl).strips.at' ws)
    if a % 16 != 0 then .trap (alignFault a) s
    else if as.length != len || regionOf a != regionOf (a + len - 1) then .trap (windowFault a) s
    else if read.any (fun p => s.poisoned p.1) then .trap (poisonTrap 0 a) s
    else match s.stripRoute cl ws with
      | some (ci, rt, r, _) =>
        if r.mode == .run || r.mode == .drain || ci != v.ci then .trap (weltFault rt ws) s
        else load x ws cl s
      | none => load x ws cl s)
where
  /-- The last check of WLOAD and its effect. -/
  load (x : Strip) (ws cl : Nat) (s : State) : Res :=
    if x.prog.any (fun w => !stripWordOk ws w) then .trap (weltFault 0 ws) s
    else .done (s.updCluster cl (fun k => { k with strips := k.strips.put ws x.restart })) 0

/-- The cores whose stages a route's VI or VO ports use, with the stage (R320, R321, R322). -/
def Route.stages (r : Route) : List (Nat × Nat) :=
  (if r.srcKind == 3 then [(r.srcSlot, r.sstg)] else []) ++ (if r.dkind == 2 then r.dests.map (fun d => (d, r.dstg)) else [])

/-- Whether a stage's SLOT suits a port (R322). -/
def State.portStageOk (s : State) (cl : Nat) (p : Nat × Nat) : Bool :=
  match s.coreAt cl p.1 with
  | none => true
  | some (_, c) =>
    match (c.stages.at' p.2).word with
    | none => true
    | some w => bits w.toNat 37 20 % 256 == 0

/-- What a route's MO port finds in its accumulator as the route starts (R321). -/
def State.moSeen (s : State) (cl : Nat) (r : Route) : List Acc :=
  if r.srcKind != 0 then [] else ((s.coreAt cl r.srcSlot).map (fun p => p.2.acc.at' r.sacc)).toList

/-- WSTART (R335). What happens before it happens before every access of the route (R337), so it waits for the core's REDs
(log entry 2). -/
def execWstart (h : Hdr) (f : FmtW) (s : State) : Host.Outcome State Fault Refusal :=
  s.issueWord h 1 noEarly noAgain (fun v s =>
    let rt := f.rt.toNat
    let r := v.c.routes.at' rt
    let cl := s.phys v.c
    let n := (s.readS v f.sb).toNat
    if !v.settled s then .wait .home s
    else if r.mode != .conf || r.strips.any (fun j => ((s.clusters.at' cl).strips.at' j).prog.isEmpty)
        || r.stages.any (fun p => !s.portStageOk cl p) then .trap (weltFault rt 0) s
    else
      let num := v.c.takeNum 4
      let s1 := (s.setCore v.ci num.2).updRoute v.ci rt (fun r => { r.clearLinks with
        mode := .run, left := if n == 0 then none else some n, ended := false, spl := false, psn := false, beats := 0,
        num := num.1, faults := [], seen := s.moSeen cl r })
      .done (s1.updCluster cl (fun k =>
        let k1 := { k with strips := r.strips.foldl (fun t j => t.put j (t.at' j).restart) k.strips }
        if r.dkind < 6 then k1
        else { k1 with units := k1.units.put (r.dkind - 6) { k1.units.at' (r.dkind - 6) with ended := false } })) 0)

/-- WSTOP (R335). -/
def execWstop (h : Hdr) (f : FmtW) (s : State) : Host.Outcome State Fault Refusal :=
  s.issueWord h 1 noEarly noAgain (fun v s =>
    let rt := f.rt.toNat
    match (v.c.routes.at' rt).mode with
    | .free => .trap (weltFault rt 0) s
    | .conf => .done s 0
    | .run => .done (if f.ops.getLsbD 0 then s.discardRoute v.ci rt else s.updRoute v.ci rt Route.endSource) 0
    | .drain => .done (if f.ops.getLsbD 0 then s.discardRoute v.ci rt else s) 0)

/-- The value that WSTAT reads (R335). -/
def Route.status (r : Route) : Nat :=
  (match r.mode with
    | .free => 0
    | .conf => 1
    | .run => 2
    | .drain => 3) * 2 ^ 62 + (if r.spl then 2 ^ 61 else 0) + (if r.psn then 2 ^ 60 else 0) + r.beats % 2 ^ 48

/-- WSTAT (R335). -/
def execWstat (h : Hdr) (f : FmtW) (s : State) : Host.Outcome State Fault Refusal :=
  s.scalarOp h f.sd 0 (fun v _ => BitVec.ofNat 64 (v.c.routes.at' f.rt.toNat).status)

/-- A stage check failed at a VI or VO port, named as Route.faults does: the route's owner traps and the port makes no
further access (R322). The record's SRC names no code for a port, so its value is free. -/
def State.portFault (s : State) (ci rt port k : Nat) : State :=
  (s.updRoute ci rt (fun r => { r with faults := port :: r.faults })).takeTrap ci (8 + s.free (freeKey 21 0 0) % 256) none (stageFault k)

/-- The accumulators that a MITER or MPOLY in progress names (R173, R174). -/
def Core.inProgress (c : Core) : List (BitVec 2) :=
  if !c.strandM.busy then []
  else match decode (c.strandM.current .m) with
    | .ok (.miter _ f) => [f.acd, f.acs] ++ (if miterForm f == 2 then [miterA f] else [])
    | .ok (.mpoly _ f) => [f.acd, f.acs]
    | _ => []

/-- Whether a MITER or MPOLY, in progress or suspended, holds an accumulator (R182). -/
def Core.reserves (c : Core) (a : Nat) : Bool :=
  (c.its.getLsbD 63 && (bits c.its.toNat 57 56 == a || bits c.its.toNat 55 54 == a
      || (bits c.its.toNat 62 61 == 2 && c.invA.any (fun i => i.toNat == a))))
    || c.inProgress.any (fun i => i.toNat == a)

/-- One of the values that an unordered write leaves open: each is old or new, and a free value says which (R321). -/
def State.anyOf {α : Type} (s : State) (key : Nat) (d : α) (l : List α) : α := l.getD (s.free key % l.length) d

/-- The beat of a row of an accumulator, of which the MO port has seen the values vs while its route ran (R321). -/
def State.moRow (s : State) (row : Nat) (vs : List Acc) : Beat :=
  let one := fun (j : Nat) => vs.map (fun a => a.elems.at' (64 * row + j))
  { lanes := RegFile.tab 6 (fun j => s.anyOf (freeKey 31 row j) 0 (one j))
    psn := s.anyOf (freeKey 31 row 64) false (vs.map (fun a => a.psn)) }

/-- MO_BEAT (R182, R321): the route's MO port forms the beat of the next row. An M instruction that has written the
accumulator since WSTART is ordered with no read of the route, so each element carries an old value or the new one. -/
def execMoBeat (ci rt : Nat) (s : State) : Host.Outcome State Fault Refusal :=
  match s.core? ci with
  | none => .next s
  | some c =>
    let r := c.routes.at' rt
    match s.coreAt (s.phys c) r.srcSlot with
    | none => .next s
    | some (_, o) =>
      if r.srcKind != 0 || !r.canEmit 1 || o.halted || o.exited || o.reserves r.sacc then .next s
      else
        let a := o.acc.at' r.sacc
        let vs := if r.seen.contains a then r.seen else a :: r.seen
        .next (s.updRoute ci rt (fun r => { r with seen := vs }.emit (s.moRow (r.beats % 64) vs)))

/-- Unified address of a window address in the tile or pool of a core. -/
def State.portAddr (s : State) (o : Core) (a : Nat) : Nat := (s.winAddr o a).getD 0

/-- The beat that 256 bytes of a slot give; poisoned bytes are unspecified (R321). -/
def State.slotBeat (s : State) (o : Core) (a : Nat) : Beat :=
  let bs := s.copyBytes (winPlaces (tabulate 256 (fun i => s.portAddr o (a + i))))
  beatOf (plain bs) (anyPsn bs)

/-- Beats of a stage's slot. -/
def slotBeats (w : BitVec 64) : Nat := Nat.max 1 (bits w.toNat 37 20 / 256)

/-- A VO port emits beats of its slot while there is room, and releases the slot after the last (R321). -/
def voLoop (ci rt oi : Nat) : Nat → State → State
  | 0, s => s
  | n + 1, s =>
    match s.core? ci, s.core? oi with
    | some c, some o =>
      let r := c.routes.at' rt
      let st := o.stages.at' r.sstg
      if !r.canEmit 1 then s
      else match st.acquire r.srcSeq true with
        | .fault => s.portFault ci rt 0 r.sstg
        | .wait => s
        | .ok a =>
          let s1 := s.updRoute ci rt (fun r => { r.emit (s.slotBeat o (a + 256 * r.srcPos)) with srcPos := r.srcPos + 1 })
          if r.srcPos + 1 < slotBeats (st.word.getD 0) then voLoop ci rt oi n s1
          else match st.relR r.srcSeq with
            | none => s1.portFault ci rt 0 r.sstg
            | some st1 =>
              (s1.updCore oi (fun o => { o with stages := o.stages.put r.sstg st1 })).updRoute ci rt
                (fun r => { r with srcSeq := r.srcSeq + 1, srcPos := 0 })
    | _, _ => s

/-- VO_SLOT (R321): the port moves on through its slot. -/
def execVoSlot (ci rt : Nat) (s : State) : Host.Outcome State Fault Refusal :=
  match s.core? ci with
  | none => .next s
  | some c =>
    let r := c.routes.at' rt
    match s.coreAt (s.phys c) r.srcSlot with
    | none => .next s
    | some (oi, o) =>
      if r.srcKind != 3 || o.exited then .next s
      else .next (voLoop ci rt oi (slotBeats ((o.stages.at' r.sstg).word.getD 0)) s)

/-- A VI port writes 256 bytes of its slot; a poisoned beat poisons its granules (R241, R322). -/
def State.putSlot (s : State) (o : Core) (a : Nat) (b : Beat) : State :=
  let as := tabulate 256 (fun i => s.portAddr o (a + i))
  let s1 := s.store (List.zip as b.bytes)
  if b.psn then as.foldl State.mark s1 else s1

/-- The VI port of destination d writes the beats at its head into its slot and releases it after the last; at the end
mark it completes a slot it has begun with zero bytes (R322, R336). -/
def viLoop (ci rt d oi : Nat) : Nat → State → State
  | 0, s => s
  | n + 1, s =>
    match s.core? ci, s.core? oi with
    | some c, some o =>
      let r := c.routes.at' rt
      let q := r.dstSeq.getD d 0
      let pos := r.dstPos.getD d 0
      let st := o.stages.at' r.dstg
      match (r.outs.getD d Link.empty).head? with
      | none => s
      | some x =>
        if x.isNone && pos == 0 then s
        else match st.acquire q false with
          | .fault => s.portFault ci rt (d + 1) r.dstg
          | .wait => s
          | .ok a =>
            let s1 := s.putSlot o (a + 256 * pos) (x.getD Beat.zero)
            let s2 := s1.updRoute ci rt (fun r =>
              let r1 := if x.isNone then r else r.takeOut d
              { r1 with dstPos := r1.dstPos.set d (pos + 1) })
            if pos + 1 < slotBeats (st.word.getD 0) then viLoop ci rt d oi n s2
            else match st.relW q with
              | none => s2.portFault ci rt (d + 1) r.dstg
              | some st1 =>
                (s2.updCore oi (fun o => { o with stages := o.stages.put r.dstg st1 })).updRoute ci rt
                  (fun r => { r with dstSeq := r.dstSeq.set d (q + 1), dstPos := r.dstPos.set d 0 })
    | _, _ => s

/-- VI_SLOT (R322): destination dst of the route moves on through its slot. -/
def execViSlot (ci rt dst : Nat) (s : State) : Host.Outcome State Fault Refusal :=
  match s.core? ci with
  | none => .next s
  | some c =>
    let r := c.routes.at' rt
    match s.coreAt (s.phys c) (r.dests.getD dst 64) with
    | none => .next s
    | some (oi, o) =>
      if r.dkind != 2 || r.faults.contains (dst + 1) || !(r.mode == .run || r.mode == .drain) || o.halted || o.exited then .next s
      else .next (viLoop ci rt dst oi (slotBeats ((o.stages.at' r.dstg).word.getD 0)) s)

/-- The 64 beats that a transpose unit makes of a block (R323). -/
def transposed (bs : List Beat) : List Beat :=
  let psn := bs.any (fun b => b.psn)
  tabulate 64 (fun i => { lanes := RegFile.tab 6 (fun j => (bs.getD j Beat.zero).lanes.at' i), psn := psn })

/-- Changes a transpose unit of a cluster. -/
def State.updUnit (s : State) (cl u : Nat) (f : TransUnit → TransUnit) : State :=
  s.updCluster cl (fun k => { k with units := k.units.put u (f (k.units.at' u)) })

/-- The end mark of the input route's run comes in: a block that is begun is filled with zero beats, and the mark follows it
(R323). -/
def TransUnit.mark (x : TransUnit) : TransUnit :=
  if x.ended then x
  else if x.coming.isEmpty then { x with going := x.going ++ [none], ended := true }
  else { x with
    coming := x.coming ++ List.replicate (64 - x.coming.length) Beat.zero, marks := x.marks + 1, ended := true }

/-- The unit takes the beats that have arrived, up to a block, and notes the end mark behind them (R323). -/
def unitTake (cl u : Nat) : Nat → State → State
  | 0, s => s
  | n + 1, s =>
    let x := (s.clusters.at' cl).units.at' u
    match s.routeTo cl (6 + u) 0 with
    | none => s
    | some (ci, rt, r, d) =>
      match (r.outs.getD d Link.empty).head? with
      | none => s
      | some none => s.updUnit cl u TransUnit.mark
      | some (some b) =>
        if 64 ≤ x.coming.length then s
        else unitTake cl u n ((s.updRoute ci rt (fun r => r.takeOut d)).updUnit cl u (fun x =>
          { x with coming := x.coming ++ [b] }))

/-- A complete block is turned once the block before it has left (R323). -/
def TransUnit.turn (x : TransUnit) : TransUnit :=
  if x.coming.length == 64 && x.going.all (fun y => y.isNone) then
    { x with coming := [], marks := 0, going := x.going ++ (transposed x.coming).map some ++ List.replicate x.marks none }
  else x

/-- The unit emits the beats of its block, and the end marks, into its output route while that runs and there is room
(R323). -/
def unitEmit (cl u : Nat) : Nat → State → State
  | 0, s => s
  | n + 1, s =>
    let x := (s.clusters.at' cl).units.at' u
    match x.going, s.routeFrom cl ((6 + u) * 64) with
    | y :: rest, some (ci, rt, r) =>
      let left := fun (s : State) => s.updUnit cl u (fun x => { x with going := rest })
      match y with
      | some b => if r.canEmit 1 then unitEmit cl u n (left (s.updRoute ci rt (fun r => r.emit b))) else s
      | none => if r.mode == .run then left (s.updRoute ci rt Route.endSource) else s
    | _, _ => s

/-- TRANSPOSE_BLOCK (R323): unit u of a physical cluster takes beats, turns a complete block and emits what it can. -/
def execTransposeBlock (cl u : Nat) (s : State) : Host.Outcome State Fault Refusal :=
  if 2 ≤ u then .next s
  else .next (unitEmit cl u 65 ((unitTake cl u 65 s).updUnit cl u TransUnit.turn))

/-- Whether a transpose unit to which a route delivers has noted the end mark that stands at its input (R323, R336). -/
def State.unitEnded (s : State) (cl : Nat) (r : Route) : Bool :=
  decide (r.dkind < 6) || ((s.clusters.at' cl).units.at' (r.dkind - 6)).ended

/-- ROUTE_DONE (R336): every destination has taken its beats and the end mark is at the head of every destination link. -/
def execRouteDone (ci rt : Nat) (s : State) : Host.Outcome State Fault Refusal :=
  match s.core? ci with
  | none => .next s
  | some c =>
    let s0 := s.sweep (s.phys c)
    match s0.core? ci with
    | none => .next s
    | some c1 =>
      let r := c1.routes.at' rt
      if r.mode == .drain && r.outs.all (fun l => l.head? == some none) && r.dstPos.all (fun p => p == 0)
          && s.unitEnded (s.phys c) r then
        .next (s0.updCore ci (fun c => { c.doneNum 4 r.num with routes := c.routes.put rt { r with mode := .conf } }))
      else .next s0

end Sys2Proof.Machine
end

