-- ==== Sys2Proof/Machine/Strips.lean ====
section
/-! DEFINITION. Strip instructions and the end mark at a strip (spec/13, R325-R331). -/
namespace Sys2Proof.Machine

/-- A strip at its move: cluster, strip, issue clk, its state, its route with core and number, and its place in the
chain. -/
structure StripAt where
  cl : Nat
  ws : Nat
  now : Nat
  strip : Strip
  ci : Nat
  rt : Nat
  r : Route
  k : Nat

/-- A strip of a cluster whose route runs or drains (R325). -/
def State.stripOn (s : State) (cl ws : Nat) : Option StripAt :=
  match s.stripRoute cl ws with
  | none => none
  | some (ci, rt, r, k) =>
    if r.mode == .run || r.mode == .drain then
      some { cl := cl, ws := ws, now := (s.dies.at' (cl / Config.clustersPerDie)).iclk,
             strip := (s.clusters.at' cl).strips.at' ws, ci := ci, rt := rt, r := r, k := k }
    else none

/-- The strip that the step's actor names, where it may take a step now (R330). -/
def State.stripNow (s : State) : Option StripAt :=
  match s.actor with
  | .strip cl ws =>
    match s.stripOn cl ws with
    | none => none
    | some x => if x.strip.ended || x.now < x.strip.busyTo then none else some x
  | _ => none

/-- Clk that a step of a strip takes (R79, R330). -/
def State.stripClk (s : State) (cl ws : Nat) : Nat := if (s.clusters.at' cl).sig.getLsbD (32 + ws) then 2 else 1

/-- Replaces a strip. -/
def State.putStrip (s : State) (cl ws : Nat) (x : Strip) : State :=
  s.updCluster cl (fun k => { k with strips := k.strips.put ws x })

/-- Steps of a strip instruction (R326). -/
def stripSteps (w : BitVec 32) : Nat := bits w.toNat 11 0 + 1

/-- One step of the current instruction is over; after the last the next instruction follows (R325, R327). -/
def Strip.stepped (x : Strip) (busyTo : Nat) : Strip :=
  if 1 < x.left then { x with left := x.left - 1, busyTo := busyTo }
  else
    let p := if x.pos + 1 < x.prog.length then x.pos + 1 else 0
    { x with pos := p, left := stripSteps (x.prog.getD p 0), idle := none, busyTo := busyTo }

/-- The operand a selector names: lanes and poison; an empty acc reads as +0 (R326, R327). -/
def Strip.operand (x : Strip) (b : Beat) (sel : BitVec 2) : Beat :=
  match sel.toNat with
  | 0 => b
  | 1 => x.acc.getD Beat.zero
  | 2 => { lanes := x.c0, psn := false }
  | _ => { lanes := x.c1, psn := false }

/-- The input beat of a strip, if one is at the head of its link. -/
def StripAt.input (x : StripAt) : Option Beat :=
  match (x.r.links.getD x.k Link.empty).head? with
  | some (some b) => some b
  | _ => none

/-- A step that takes a beat and puts one on the output, with the strip's new state before the step is counted. -/
def StripAt.pass (x : StripAt) (s : State) (out : Option Beat) (y : Strip) : State :=
  let s1 := s.updRoute x.ci x.rt (fun r =>
    match out with
    | some b => (r.takeIn x.k).putOut x.k (some b)
    | none => r.takeIn x.k)
  s1.putStrip x.cl x.ws (y.stepped (x.now + s.stripClk x.cl x.ws))

/-- An operation that takes one beat and emits one per step (R327): f gives the result of a lane and ops the operands it
reads. -/
def laneStep (s : State) (ops : List (BitVec 2)) (f : List Nat → Nat) : Host.Outcome State Fault Refusal :=
  match s.stripNow with
  | none => .next s
  | some x =>
    match x.input with
    | none => .next s
    | some b =>
      if !x.r.outRoom x.k then .next s
      else
        let os := ops.map (x.strip.operand b)
        .next (x.pass s (some
          { lanes := RegFile.tab 6 (fun j => BitVec.ofNat 32 (f (os.map (fun o => (o.lanes.at' j).toNat))))
            psn := os.any (fun o => o.psn) }) x.strip)

/-- First, second and third operand of a lane. -/
def op0 (l : List Nat) : Nat := l.getD 0 0
/-- Second operand of a lane. -/
def op1 (l : List Nat) : Nat := l.getD 1 0
/-- Third operand of a lane. -/
def op2 (l : List Nat) : Nat := l.getD 2 0

/-- rm(x) into FP32 (R126). -/
def laneRound (x : FmtX) (v : FNum) : Nat := cvt .fp32 (Rm.ofField x.rm) false v

/-- Adding two lanes (R327). -/
def laneAdd (x : FmtX) (a b : Nat) : Nat :=
  if x.int == 1 then (a + b) % 2 ^ 32 else laneRound x (FNum.add (Rm.ofField x.rm) (f32 a) (f32 b))

/-- The larger lane (R132, R327). -/
def laneMax (int : BitVec 1) (a b : Nat) : Nat :=
  if int == 1 then (if toSigned 32 a < toSigned 32 b then b else a) else rneF ((f32 a).max (f32 b))

/-- The smaller lane (R132, R327). -/
def laneMin (int : BitVec 1) (a b : Nat) : Nat :=
  if int == 1 then (if toSigned 32 b < toSigned 32 a then b else a) else rneF ((f32 a).min (f32 b))

/-- X.PASS (R327). -/
def execXPass (_x : FmtX) (s : State) : Host.Outcome State Fault Refusal := laneStep s [0] op0

/-- X.ADD (R327). -/
def execXAdd (x : FmtX) (s : State) : Host.Outcome State Fault Refusal :=
  laneStep s [x.a, x.b] (fun l => laneAdd x (op0 l) (op1 l))

/-- X.MUL (R327). -/
def execXMul (x : FmtX) (s : State) : Host.Outcome State Fault Refusal :=
  laneStep s [x.a, x.b] (fun l =>
    if x.int == 1 then op0 l * op1 l % 2 ^ 32 else laneRound x ((f32 (op0 l)).mul (f32 (op1 l))))

/-- X.FMA (R327). -/
def execXFma (x : FmtX) (s : State) : Host.Outcome State Fault Refusal :=
  laneStep s [x.a, x.b, x.c] (fun l =>
    laneRound x (FNum.add (Rm.ofField x.rm) ((f32 (op0 l)).mul (f32 (op1 l))) (f32 (op2 l))))

/-- X.MAX (R327). -/
def execXMax (x : FmtX) (s : State) : Host.Outcome State Fault Refusal :=
  laneStep s [x.a, x.b] (fun l => laneMax x.int (op0 l) (op1 l))

/-- X.MIN (R327). -/
def execXMin (x : FmtX) (s : State) : Host.Outcome State Fault Refusal :=
  laneStep s [x.a, x.b] (fun l => laneMin x.int (op0 l) (op1 l))

/-- X.CMP (R327). -/
def execXCmp (x : FmtX) (s : State) : Host.Outcome State Fault Refusal :=
  laneStep s [x.a, x.b] (fun l =>
    if compareLanes (if x.int == 1 then 11 else 0) x.sub.toNat false (op0 l) (op1 l) then 0xFFFFFFFF else 0)

/-- X.SEL (R327). -/
def execXSel (x : FmtX) (s : State) : Host.Outcome State Fault Refusal :=
  laneStep s [x.a, x.b, x.c] (fun l => if op2 l != 0 then op0 l else op1 l)

/-- X.SCALE (R327). -/
def execXScale (x : FmtX) (s : State) : Host.Outcome State Fault Refusal :=
  laneStep s [x.a, x.b] (fun l =>
    let e := op1 l % 256
    let k : Int := if x.sub.getLsbD 0 then 127 - (e : Int) else (e : Int) - 127
    if e == 255 then nanCode .fp32 else laneRound x ((f32 (op0 l)).shift k))

/-- X.IDLE (R327, R330): it ends once N issue clk have passed since it began. -/
def execXIdle (x : FmtX) (s : State) : Host.Outcome State Fault Refusal :=
  match s.stripNow with
  | none => .next s
  | some y =>
    match y.strip.idle with
    | none => .next (s.putStrip y.cl y.ws { y.strip with idle := some (Nat.max y.strip.busyTo y.now + x.nm1.toNat + 1) })
    | some t => if y.now < t then .next s else .next (s.putStrip y.cl y.ws ({ y.strip with left := 1 }.stepped t))

/-- acc combined with a lane: SUB 0 add, 1 max, 2 min (R327). -/
def accCombine (x : FmtX) (a b : Nat) : Nat :=
  match x.sub.toNat with
  | 0 => laneAdd x a b
  | 1 => laneMax x.int a b
  | _ => laneMin x.int a b

/-- The identity of an accumulation (R327). -/
def accIdentity (x : FmtX) : Nat :=
  match x.sub.toNat with
  | 0 => 0
  | 1 => if x.int == 1 then 0x80000000 else 0xFF800000
  | _ => if x.int == 1 then 0x7FFFFFFF else 0x7F800000

/-- acc after it has absorbed a beat (R327). -/
def accAbsorb (x : FmtX) (acc : Option Beat) (a : Beat) : Beat :=
  match acc with
  | none => a
  | some y =>
    { lanes := RegFile.tab 6 (fun j => BitVec.ofNat 32 (accCombine x (y.lanes.at' j).toNat (a.lanes.at' j).toNat))
      psn := y.psn || a.psn }

/-- X.ACC (R327): with EMIT the last step emits acc. -/
def execXAcc (x : FmtX) (s : State) : Host.Outcome State Fault Refusal :=
  match s.stripNow with
  | none => .next s
  | some y =>
    match y.input with
    | none => .next s
    | some b =>
      let acc := accAbsorb x y.strip.acc (y.strip.operand b x.a)
      let emits := x.flg == 1 && y.strip.left == 1
      if emits && !y.r.outRoom y.k then .next s
      else .next (y.pass s (if emits then some acc else none) { y.strip with acc := if emits then none else some acc })

/-- The narrow type that SUB of X.CVT names (R328). -/
def cvtFmt (sub : BitVec 3) : Fmt :=
  match sub.toNat with
  | 0 => .fp32
  | 1 => .bf16
  | 2 => .fp16
  | 3 => .e4m3
  | 4 => .e5m2
  | 5 => .t8
  | _ => .int32

/-- The narrow code of a lane (R328). -/
def laneNarrow (x : FmtX) (a : Nat) : Nat :=
  cvt (cvtFmt x.sub) (Rm.ofField x.rm) (x.flg == 1) (decodeNum (if x.int == 1 then .int32 else .fp32) a)

/-- Elements of the narrow type per lane (R328). -/
def cvtElems (x : FmtX) : Nat := 32 / (cvtFmt x.sub).bits

/-- The beat that e input beats pack into; missing ones give zero codes (R328, R331). -/
def packBeats (x : FmtX) (bs : List Beat) : Beat :=
  let w := (cvtFmt x.sub).bits
  { lanes := RegFile.tab 6 (fun j => BitVec.ofNat 32 ((List.range (cvtElems x)).foldl (fun a m =>
      match bs[m]? with
      | some b => a + laneNarrow x (b.lanes.at' j).toNat * 2 ^ (w * m)
      | none => a) 0))
    psn := bs.any (fun b => b.psn) }

/-- The beats that one input beat unpacks into (R328). -/
def unpackBeat (x : FmtX) (b : Beat) : List Beat :=
  let t := cvtFmt x.sub
  tabulate (cvtElems x) (fun m =>
    { lanes := RegFile.tab 6 (fun j => BitVec.ofNat 32 (rneF (decodeNum t
        ((b.lanes.at' j).toNat / 2 ^ (t.bits * m) % 2 ^ t.bits))))
      psn := b.psn })

/-- One input beat of a packing step, which ends with the last of its beats: the clk that a step takes is charged once
(R328, R330). -/
def packStep (x : FmtX) (y : StripAt) (b : Beat) (s : State) : State :=
  let g := y.strip.gather ++ [y.strip.operand b x.a]
  if g.length < cvtElems x then
    (s.updRoute y.ci y.rt (fun r => r.takeIn y.k)).putStrip y.cl y.ws { y.strip with gather := g }
  else if !y.r.outRoom y.k then s
  else y.pass s (some (packBeats x g)) { y.strip with gather := [] }

/-- Strip j of a chain puts beats on its output while there is room: the route, and the beats that are left. -/
def putBeats (j : Nat) : List Beat → Route → Route × List Beat
  | [], r => (r, [])
  | b :: bs, r => if r.outRoom j then putBeats j bs (r.putOut j (some b)) else (r, b :: bs)

/-- Puts the beats of an unpacking step on the output while there is room; the last of them ends the step, for which its
clk are charged once (R328, R330). -/
def unpackStep (y : StripAt) (bs : List Beat) (take : Bool) (s : State) : State :=
  if !y.r.outRoom y.k then s
  else
    let put := fun (r : Route) => putBeats y.k bs (if take then r.takeIn y.k else r)
    let z := { y.strip with owed := (put y.r).2 }
    (s.updRoute y.ci y.rt (fun r => (put r).1)).putStrip y.cl y.ws
      (if z.owed.isEmpty then z.stepped (y.now + s.stripClk y.cl y.ws) else z)

/-- X.CVT (R328). -/
def execXCvt (x : FmtX) (s : State) : Host.Outcome State Fault Refusal :=
  if x.pk == 0 then laneStep s [x.a] (fun l => laneNarrow x (op0 l))
  else match s.stripNow with
    | none => .next s
    | some y =>
      if x.pk == 2 && !y.strip.owed.isEmpty then .next (unpackStep y y.strip.owed false s)
      else match y.input with
        | none => .next s
        | some b =>
          if x.pk == 1 then .next (packStep x y b s)
          else .next (unpackStep y (unpackBeat x (y.strip.operand b x.a)) true s)

/-- The looked-up value of a lane (R329). -/
def lutLane (t : RegFile 9 (BitVec 32)) (x c0 c1 : Nat) : Nat :=
  let u := f32 (rneF (FNum.add .rne ((f32 x).mul (f32 c0)) (f32 c1)))
  match (u.max (.zero false)).min (.ofInt 256) with
  | .fin y =>
    let i := Nat.min (roundInt .rdn y).toNat 255
    let f := FNum.add .rne (.fin y) (.ofInt (-(i : Int)))
    let lo := f32 (t.at' i).toNat
    let d := f32 (rneF (FNum.add .rne (f32 (t.at' (i + 1)).toNat) lo.negate))
    rneF (FNum.add .rne lo (f.mul d))
  | _ => nanCode .fp32

/-- X.LUT (R329). -/
def execXLut (_x : FmtX) (s : State) : Host.Outcome State Fault Refusal :=
  match s.stripNow with
  | none => .next s
  | some y => laneStep s [0, 2, 3] (fun l => lutLane y.strip.table (op0 l) (op1 l) (op2 l))

/-- What a strip emits for the end mark: an accumulation that has taken a beat, or a packing step begun (R331). -/
def Strip.endBeat (x : Strip) : Option Beat :=
  match (x.prog[x.pos]?).bind decodeStrip with
  | some (.xAcc f) => if f.flg == 1 && x.left < stripSteps (x.prog.getD x.pos 0) then
      some (x.acc.getD { lanes := RegFile.fill 6 (BitVec.ofNat 32 (accIdentity f)), psn := false }) else none
  | some (.xCvt f) => if f.pk == 1 && !x.gather.isEmpty then some (packBeats f x.gather) else none
  | _ => none

/-- Whether the strip's end-mark beat empties acc (R331). -/
def Strip.endAcc (x : Strip) : Option Beat :=
  match (x.prog[x.pos]?).bind decodeStrip with
  | some (.xAcc f) => if f.flg == 1 then none else x.acc
  | _ => x.acc

/-- STRIP_END_MARK (R331): the end mark is at a strip's input; what is owed of an unpacking step that waits for room is
dropped with the step. On a withheld clk the strips of the die make no progress (R385). -/
def execStripEndMark (cl ws : Nat) (s : State) : Host.Outcome State Fault Refusal :=
  match s.stripOn cl ws with
  | none => .next s
  | some x =>
    let ends := (x.r.links.getD x.k Link.empty).head? == some none
    let withheld := decide ((s.dies.at' (cl / Config.clustersPerDie)).duty ≤ s.clk % 64)
    if x.strip.ended || !ends || withheld then .next s
    else match x.strip.endBeat with
      | some b =>
        if !x.r.outRoom x.k then .next s
        else .next ((s.updRoute x.ci x.rt (fun r => ((r.takeIn x.k).putOut x.k (some b)).putOut x.k none)).putStrip cl ws
          { x.strip with acc := x.strip.endAcc, gather := [], owed := [], idle := none, ended := true })
      | none =>
        .next ((s.updRoute x.ci x.rt (fun r => (r.takeIn x.k).putOut x.k none)).putStrip cl ws
          { x.strip with gather := [], owed := [], idle := none, ended := true })

end Sys2Proof.Machine
end

