-- ==== Sys2Proof/Machine/Monitor.lean ====
section
/-! DEFINITION. The progress monitor: link growth, the wait-for graph and its reports (spec/13, R338-R341). -/
namespace Sys2Proof.Machine

/-- Cores of a context that are bound in a physical cluster, by place. -/
def State.coresIn (s : State) (ctx : Nat) (cl : Nat) : List (Nat × Core) :=
  ((s.cores.zipIdx).filter (fun p => s.ctxNo p.1 == ctx && s.phys p.1 == cl)).map (fun p => (p.2, p.1))

/-- The routes of a context's cores in a cluster: place, route number, register. -/
def State.ctxRoutes (s : State) (ctx cl : Nat) : List (Nat × Nat × Route) :=
  (s.routesIn cl).filter (fun x => match s.core? x.1 with
    | some c => s.ctxNo c == ctx
    | none => false)

/-- Every link of a route: strip links in order from the source, then destination links (R339). -/
def Route.allLinks (r : Route) : List Link := r.links ++ r.outs

/-- Whether a link is full (R339). -/
def Link.full (l : Link) : Bool := decide (l.cap ≤ l.count)

/-- Steps of 64 beats by which a link has grown (R338). -/
def Link.steps (l : Link) : Nat := (l.cap - linkBeats) / 64

/-- Steps of every link of a context (R338). -/
def State.spilled (s : State) (ctx : Nat) : Nat :=
  ((List.range 64).flatMap (fun cl => (s.ctxRoutes ctx cl).flatMap (fun x => x.2.2.allLinks.map Link.steps))).sum

/-- The full link of a cluster's routes with the smallest capacity: lowest route, then lowest link, on ties (R339); where
routes of one number of several cores tie in both, the core first in the list of bound cores (log entry 71). -/
def State.fullLink (s : State) (ctx cl : Nat) : Option (Nat × Nat × Nat × Nat) :=
  let all := (s.ctxRoutes ctx cl).flatMap (fun x =>
    ((x.2.2.allLinks.zipIdx).filter (fun p => p.1.full)).map (fun p => (x.1, x.2.1, p.2, p.1.cap)))
  all.foldl (fun best x =>
    match best with
    | none => some x
    | some b => if x.2.2.2 < b.2.2.2 || (x.2.2.2 == b.2.2.2 && (x.2.1 < b.2.1 || (x.2.1 == b.2.1 && x.2.2.1 < b.2.2.1)))
        then some x else some b) none

/-- Link i of a route, counted as allLinks does, is changed. -/
def Route.modLink (r : Route) (i : Nat) (f : Link → Link) : Route :=
  if i < r.links.length then { r with links := modifyAt r.links i f }
  else { r with outs := modifyAt r.outs (i - r.links.length) f }

/-- A party of the wait-for graph (R340, R341): task, vcore (none for strips and transpose units), cluster, kind and
number. -/
structure Party where
  task : Nat
  vcore : Option Nat
  cl : Nat
  kind : Nat
  num : Nat
  deriving DecidableEq, Repr

/-- The 32-bit code of a party (R341). -/
def Party.code (p : Party) : Nat := (p.vcore.getD 0xFFFF) * 2 ^ 16 + p.kind * 2 ^ 12 + p.num

/-- A wait: who waits, its KIND and OBJECT, and the parties that could end it (R340, R341). -/
structure Edge where
  waiter : Party
  kind : Nat
  object : Nat
  holders : List Party
  deriving DecidableEq, Repr

/-- A strand as a party. -/
def State.strandParty (s : State) (c : Core) (e : Eng) : Party :=
  { task := c.task, vcore := some c.vcore, cl := s.phys c, kind := e.tag, num := 0 }

/-- The strands of a core other than one. -/
def State.otherStrands (s : State) (c : Core) (e : Eng) : List Party :=
  ([Eng.a, .m, .v].filter (fun x => x != e)).map (s.strandParty c)

/-- Every strand of a core. -/
def State.strandParties (s : State) (c : Core) : List Party := [Eng.a, .m, .v].map (s.strandParty c)

/-- A channel as a party. -/
def State.chanParty (s : State) (c : Core) (ch : Nat) : Party :=
  { task := c.task, vcore := some c.vcore, cl := s.phys c, kind := 3, num := ch }

/-- A route as a party. -/
def State.routeParty (s : State) (c : Core) (rt : Nat) : Party :=
  { task := c.task, vcore := some c.vcore, cl := s.phys c, kind := 6, num := rt }

/-- A port of a slot as a party; the transpose units have no vcore. -/
def State.portParty (s : State) (c : Core) (kind slot : Nat) : Party :=
  { task := c.task, vcore := if 6 ≤ kind then none else some (s.cidx c * s.ppc c + slot), cl := s.phys c, kind := 4,
    num := kind * 64 + (if 6 ≤ kind then 0 else slot) }

/-- A strip as a party. -/
def State.stripParty (s : State) (c : Core) (ws : Nat) : Party :=
  { task := c.task, vcore := none, cl := s.phys c, kind := 5, num := ws }

/-- Strands a counter goes from and to (R298): from in bits [2:0], to in [5:3]. -/
def counterEnds (k : Nat) : Eng × Eng :=
  match k with
  | 0 => (.a, .m)
  | 1 => (.a, .v)
  | 2 => (.m, .a)
  | 3 => (.m, .v)
  | 4 => (.v, .a)
  | _ => (.v, .m)

/-- OBJECT of a token wait (R341). -/
def counterObject (k : Nat) : Nat := (counterEnds k).1.tag + 8 * (counterEnds k).2.tag

/-- Routes with a VO or VI port on a stage of a core (R320). -/
def State.stagePorts (s : State) (c : Core) (k : Nat) : List Party :=
  (s.routesIn (s.phys c)).flatMap (fun x => (x.2.2.stages.filter (fun p => p == (s.slot c, k))).map (fun p =>
    s.portParty c (if x.2.2.srcKind == 3 && x.2.2.srcSlot == p.1 then 3 else 2) p.1))

/-- Who could end a stage wait: the core's other strands, the channels with a copy that releases the stage, and ports
(R280). -/
def State.stageHolders (s : State) (c : Core) (e : Option Eng) (k : Nat) : List Party :=
  (match e with
    | some e => s.otherStrands c e
    | none => s.strandParties c)
  ++ ((s.cores.filter (fun d => d.task == c.task && s.phys d == s.phys c)).flatMap (fun d =>
      ((List.range 4).filter (fun ch => ((d.chans.at' ch).queue ++ (d.chans.at' ch).ending).any (fun x => x.stage? == some k))).map
        (s.chanParty d)))
  ++ s.stagePorts c k

/-- The members of a core's level-L domain that have not yet made the arrival waited for, by strand (R284). -/
def State.barrierHolders (s : State) (c : Core) (lvl : Nat) : List Party :=
  let n := (c.bars.at' lvl).done + 1
  ((s.domain lvl c).filterMap s.core?).flatMap (fun d =>
    ([Eng.a, .m, .v].filter (fun e => !d.arrived lvl n e)).map (s.strandParty d))

/-- The members on this package that a scan wait is for (R202): of a generation wait (kind 0) those a generation behind, of
a carry wait (1) the member before in scan order, of a join (2) the cores of the domain that have not arrived, and of a
wait for the total (3) the last member in scan order. A carry or a total that is on its way is the hardware's, and what
members on other packages owe is not in the graph: those waits have no holder. -/
def State.scanHolders (s : State) (c : Core) (g kind : Nat) : List Party :=
  let x := c.scans.at' g
  let ci := (s.place c.key).getD 0
  let late := fun (d : Core) => (d.scans.at' g).gen != (x.gen + 1) % 2 ^ 16
  let ds : List Core := match kind with
    | 0 => ((s.members g x).filterMap s.core?).filter (fun (d : Core) => !d.gone && ((d.scans.at' g).gen + 1) % 2 ^ 16 == x.gen)
    | 1 => if x.carryIn then [] else (((s.before g ci x).bind s.core?).toList).filter late
    | 2 => ((s.domain (x.join.getD 0) c).filterMap s.core?).filter (fun d => !d.gone && (d.scans.at' g).join != x.join)
    | _ =>
      if x.groupIn || x.groupDue || x.farAfter then []
      else ((((s.takers g x).getLast?).bind s.core?).toList).filter (fun d => (d.scans.at' g).gen != x.gen)
  (ds.filter (fun (d : Core) => d.key != c.key)).map (fun d => s.strandParty d .v)

/-- The A strands that could bind or start a route for a port of a core's cluster (R334, R335). -/
def State.binders (s : State) (c : Core) : List Party :=
  (s.cores.filter (fun d => d.task == c.task && s.phys d == s.phys c)).map (fun d => s.strandParty d .a)

/-- Who could end a wait on a route of a core: the route while it runs or drains, else the A strand that starts it. -/
def State.routeHolder (s : State) (o : Core) (rt : Nat) (r : Route) : Party :=
  if r.mode == .run || r.mode == .drain then s.routeParty o rt else s.strandParty o .a

/-- Whether a copy has a number on a timeline that a wait for number n is for (R228). -/
def Copy.owesNum (x : Copy) (k n : Nat) : Bool :=
  if k == 0 then decide (x.n0 ≤ n) && !x.did0 else decide (x.n1 ≤ n) && !x.did1

/-- Who could end a wait for number n of a timeline (R228, R275): the strand that takes the numbers where n is not taken,
else the channels, the strand or the routes whose operations hold numbers up to n. -/
def State.timelineHolders (s : State) (c : Core) (e : Eng) (k n : Nat) : List Party :=
  let taken := decide (n ≤ (c.tls.at' k).iss.toNat)
  if k ≤ 2 then
    if taken then ((List.range 4).filter (fun ch =>
      ((c.chans.at' ch).queue ++ (c.chans.at' ch).ending).any (fun x => x.owesNum k n))).map (s.chanParty c)
    else [s.strandParty c .a]
  else if k == 3 then [s.strandParty c .m]
  else if k == 4 then
    if taken then ((List.range 16).filter (fun r =>
      let x := c.routes.at' r
      (x.mode == .run || x.mode == .drain) && decide (x.num ≤ n))).map (s.routeParty c)
    else [s.strandParty c .a]
  else s.otherStrands c e

/-- Whether a strand still has to wait as it noted, with KIND, OBJECT and holders; none for a wait that has ended or that
hardware ends (R340). A SCANTOT that waits for its total stands as kind 3 in the OBJECT of a scan wait, and a CSRW that waits
for the M strand (R319) as KIND 12: R341 names neither (log entry 33). -/
def State.strandWait (s : State) (c : Core) (e : Eng) : Option (Nat × Nat × List Party) :=
  let st := c.strand e
  match st.wait with
  | .token k => if c.tokens.at' k == 0 then some (1, counterObject k, [s.strandParty c (counterEnds k).1]) else none
  | .push k => if c.tokens.at' k == 15 then some (2, counterObject k, [s.strandParty c (counterEnds k).2]) else none
  | .slip =>
    if c.slipHeld e then
      some (3, c.slipw.toNat, ([Eng.a, .m, .v].filter (fun x => (c.strand x).dwc.toNat == c.minDwc)).map (s.strandParty c))
    else none
  | .flag n =>
    match decode (st.current e) with
    | .ok (.br _ _) => if st.cfok.getLsbD n then none else some (4, n, s.otherStrands c e)
    | _ =>
      if c.flagFree n then none
      else some (4, n, ([Eng.a, .m, .v].filter (fun x => (c.strand x).cfok.getLsbD n)).map (s.strandParty c))
  | .stage k q rd =>
    match (c.stages.at' k).acquire q rd with
    | .wait => some (5, k + 8 * (q % 2 ^ 29), s.stageHolders c (some e) k)
    | _ => none
  | .barrier lvl =>
    let b := c.bars.at' lvl
    if b.broken || b.by e ≤ b.done then none else some (6, lvl, s.barrierHolders c lvl)
  | .timeline k n =>
    if n ≤ (c.tls.at' k).comp.toNat then none
    else some (7, k + 8 * (n % 2 ^ 29), s.timelineHolders c e k n)
  | .quiesce lvl =>
    if c.quiet.isSome then none
    else some (8, 0x100 + lvl, ((s.domain lvl c).filterMap s.core?).flatMap (fun d =>
      if (d.inQuiesce lvl).isSome then [] else s.strandParties d))
  | .scan g k =>
    let x := c.scans.at' g
    if x.broken || (k == 2 && x.decided.isSome) then none else some (9, g + 4 * k, s.scanHolders c g k)
  | .mstrand => if c.strandM.busy then some (12, 0, [s.strandParty c .m]) else none
  | .jump => some (13, 0, s.otherStrands c e)
  | .channel ch => if (c.chans.at' ch).queue.length < 16 then none else some (7, 0, [s.chanParty c ch])
  | .drain ch => if (c.chans.at' ch).empty then none else some (7, 1, [s.chanParty c ch])
  | .beats _ =>
    match s.portIn c 1, s.routeTo (s.phys c) 1 (s.slot c) with
    | .empty, some (ci, rt, r, d) =>
      match s.core? ci with
      | some o => some (10, rt + 16 * (r.links.length + d), [s.routeHolder o rt r])
      | none => none
    | .empty, none => some (10, 0, s.binders c)
    | _, _ => none
  | _ => none

/-- The waits of a core's strands; those of a frozen core wait for the host (R202, R340). -/
def State.strandEdges (s : State) (c : Core) : List Edge :=
  if c.halted then []
  else [Eng.a, .m, .v].filterMap (fun e =>
    if (c.strand e).exited then none
    else (s.strandWait c e).map (fun w =>
      { waiter := s.strandParty c e, kind := w.1, object := w.2.1, holders := w.2.2 }))

/-- The party after element j of a route: a strip, or the destination ports. -/
def State.downstream (s : State) (c : Core) (r : Route) (j : Nat) : List Party :=
  match r.strips[j]? with
  | some ws => [s.stripParty c ws]
  | none => r.dests.map (fun d => s.portParty c r.dkind d)

/-- OBJECT of a link wait (R341): route and link index. -/
def linkObject (rt i : Nat) : Nat := rt + 16 * i

/-- Who could end the wait of a COLL for the ranks of this package (R262): the A strand of a rank that has not issued its own,
or the channel where that stands behind other copies. -/
def State.collHolders (s : State) (x : Copy) (task : Nat) : List Party :=
  (x.ranks.filterMap (s.peerCore task)).flatMap (fun c =>
    let mine := fun (y : Copy) => y.kind == .coll && y.lvl == x.lvl && y.collNo == x.collNo
    let at' := (List.range 4).find? (fun ch => (c.chans.at' ch).queue.any mine)
    if c.leftColl x.lvl x.collNo then []
    else match at' with
      | none => [s.strandParty c .a]
      | some ch => if ((c.chans.at' ch).queue.head?).any mine then [] else [s.chanParty c ch])

/-- The waits of the channels of a core: on CI and CO (R248, R321), those of a COLL for its ranks, as barrier waits, and those
of a phase copy for its opening release. A channel that can serve, or waits for a fill or for its SLOT, is ended by hardware. -/
def State.chanEdges (s : State) (c : Core) : List Edge :=
  if c.halted then []
  else (List.range 4).filterMap (fun ch =>
    match (c.chans.at' ch).queue with
    | [] => none
    | x :: _ =>
      let me := s.chanParty c ch
      if !x.started then
        if x.openAt.isSome then none
        else x.phase.map (fun l => { waiter := me, kind := 6, object := l, holders := s.barrierHolders c l })
      else if x.kind == .coll then
        some { waiter := me, kind := 6, object := x.lvl, holders := s.collHolders x c.task }
      else if x.kind == .copy && x.sk == 2 && x.part.isEmpty && !x.beatReady && decide (x.prog < x.total) then
        match s.portIn c 4, s.routeTo (s.phys c) 4 (s.slot c) with
        | .empty, some (ci, rt, r, d) => (s.core? ci).map (fun o =>
            { waiter := me, kind := 10, object := linkObject rt (r.links.length + d), holders := [s.routeHolder o rt r] })
        | .empty, none => some { waiter := me, kind := 10, object := 0, holders := s.binders c }
        | _, _ => none
      else if x.usesCo then
        match s.routeFrom (s.phys c) (5 * 64 + s.slot c) with
        | none => some { waiter := me, kind := 11, object := 0, holders := s.binders c }
        | some (_, rt, r) =>
          if r.mode != .run then some { waiter := me, kind := 11, object := linkObject rt 0, holders := s.binders c }
          else if c.coBusy ch then
            some { waiter := me, kind := 11, object := linkObject rt 0, holders := (c.coHolder ch).map (s.chanParty c) }
          else if r.firstRoom 1 then none
          else some { waiter := me, kind := 11, object := linkObject rt 0, holders := s.downstream c r 0 }
      else none)

/-- The waits of a route's source port (R321). -/
def State.sourceEdge (s : State) (c : Core) (rt : Nat) (r : Route) : Option Edge :=
  let me := s.portParty c r.srcKind r.srcSlot
  if r.mode != .run then none
  else if !r.firstRoom 1 then some { waiter := me, kind := 11, object := linkObject rt 0, holders := s.downstream c r 0 }
  else match s.coreAt (s.phys c) r.srcSlot with
    | none => none
    | some (_, o) =>
      match r.srcKind with
      | 0 => if o.reserves r.sacc then some { waiter := me, kind := 12, object := r.sacc, holders := [s.strandParty o .m] } else none
      | 3 =>
        match (o.stages.at' r.sstg).acquire r.srcSeq true with
        | .wait => some { waiter := me, kind := 5, object := r.sstg + 8 * (r.srcSeq % 2 ^ 29), holders := s.stageHolders o none r.sstg }
        | _ => none
      | 5 => some { waiter := me, kind := 10, object := linkObject rt 0,
                    holders := s.strandParty o .a :: (List.range 4).filterMap (fun ch =>
                      match (o.chans.at' ch).queue with
                      | [] => none
                      | _ :: _ => some (s.chanParty o ch)) }
      | k => some { waiter := s.portParty c k 0, kind := 10, object := linkObject rt 0,
                    holders := (match s.routeTo (s.phys c) k 0 with
                      | some (ci, rt1, _, _) => (match s.core? ci with
                        | some d => [s.routeParty d rt1]
                        | none => [])
                      | none => s.binders c) }

/-- The waits of a route's destination ports (R322). -/
def State.destEdges (s : State) (c : Core) (rt : Nat) (r : Route) : List Edge :=
  (r.dests.zipIdx).filterMap (fun p =>
    let l := r.outs.getD p.2 Link.empty
    let me := s.portParty c r.dkind p.1
    let obj := linkObject rt (r.links.length + p.2)
    if l.count == 0 then none
    else if 6 ≤ r.dkind then
      match s.routeFrom (s.phys c) (r.dkind * 64) with
      | some (_, rt1, r1) =>
        if r1.mode == .run && r1.firstRoom 1 then none
        else some { waiter := me, kind := 11, object := linkObject rt1 0,
                    holders := if r1.mode == .run then s.downstream c r1 0 else s.binders c }
      | none => some { waiter := me, kind := 11, object := obj, holders := s.binders c }
    else match s.coreAt (s.phys c) p.1 with
      | none => none
      | some (_, o) =>
        if o.exited || o.killed then none
        else match r.dkind with
        | 1 => some { waiter := me, kind := 10, object := obj, holders := [s.strandParty o .m] }
        | 4 => some { waiter := me, kind := 10, object := obj,
                      holders := s.strandParty o .a :: (List.range 4).filterMap (fun ch =>
                        match (o.chans.at' ch).queue with
                        | [] => none
                        | _ :: _ => some (s.chanParty o ch)) }
        | _ =>
          match (o.stages.at' r.dstg).acquire (r.dstSeq.getD p.2 0) false with
          | .wait => some { waiter := me, kind := 5, object := r.dstg + 8 * (r.dstSeq.getD p.2 0 % 2 ^ 29),
                            holders := s.stageHolders o none r.dstg }
          | _ => none)

/-- The destinations of a route that still hold beats (R336). -/
def Route.held (r : Route) : List Nat :=
  ((r.dests.zipIdx).filter (fun p => (r.outs.getD p.2 Link.empty).count != 0)).map (fun p => p.1)

/-- The waits of a route's strips, and of the route itself: a running route waits for its source, a draining one for the
destinations that have not taken their beats (R336, R340). -/
def State.routeEdges (s : State) (x : Nat × Nat × Route) : List Edge :=
  match s.core? x.1 with
  | none => []
  | some c =>
    let rt := x.2.1
    let r := x.2.2
    let strips := (r.strips.zipIdx).filterMap (fun p =>
      let me := s.stripParty c p.1
      if ((s.clusters.at' (s.phys c)).strips.at' p.1).ended then none
      else if (r.links.getD p.2 Link.empty).items.isEmpty then
        some { waiter := me, kind := 10, object := linkObject rt p.2
               holders := if p.2 == 0 then [s.portParty c r.srcKind r.srcSlot] else [s.stripParty c (r.strips.getD (p.2 - 1) 0)] : Edge }
      else if !r.outRoom p.2 then
        some { waiter := me, kind := 11, object := linkObject rt (p.2 + 1), holders := s.downstream c r (p.2 + 1) : Edge }
      else none)
    let own : Edge :=
      { waiter := s.routeParty c rt, kind := 10, object := linkObject rt (if r.mode == .run then 0 else r.links.length)
        holders := if r.mode == .run then [s.portParty c r.srcKind r.srcSlot] else r.held.map (fun d => s.portParty c r.dkind d) }
    if r.mode == .run || r.mode == .drain then
      own :: strips ++ (s.sourceEdge c rt r).toList ++ s.destEdges c rt r
    else []

/-- Every wait of a context that a program must end (R340). -/
def State.waitGraph (s : State) (ctx : Nat) : List Edge :=
  (s.cores.filter (fun c => s.ctxNo c == ctx)).flatMap (fun c => s.strandEdges c ++ s.chanEdges c)
    ++ (List.range 64).flatMap (fun cl => (s.ctxRoutes ctx cl).flatMap s.routeEdges)

/-- Whether a party has exited or been killed (R340). -/
def State.partyGone (s : State) (p : Party) : Bool :=
  match p.vcore with
  | none => false
  | some vc =>
    match s.peerCore p.task vc with
    | none => true
    | some c => c.gone || (if p.kind == 0 then c.strandA.exited else if p.kind == 1 then c.strandM.exited
        else if p.kind == 2 then c.strandV.exited else false)

/-- Drops the waits with a holder that can still act, until none is left to drop (R340). -/
def State.closedSet (s : State) : Nat → List Edge → List Edge
  | 0, _ => []
  | n + 1, es =>
    let ok := es.filter (fun e => e.holders.all (fun h => es.any (fun f => f.waiter == h) || s.partyGone h))
    if ok.length == es.length then es else s.closedSet n ok

/-- The largest set of waits that no party can end (R340); a wait without an edge ends by hardware. -/
def State.deadSet (s : State) (ctx : Nat) : List Edge :=
  let g := (s.waitGraph ctx).filter (fun e => !e.holders.isEmpty)
  s.closedSet (g.length + 1) g

/-- The wait-for record of a report (R341). -/
def waitRecord (reason clk : Nat) (es : List Edge) : List (BitVec 8) :=
  let rows := es.flatMap (fun e => e.holders.map (fun h => (e, h)))
  let shown := rows.take 64
  leBytes 1 reason ++ leBytes 1 shown.length ++ leBytes 1 (if 64 < rows.length then 1 else 0) ++ leBytes 5 0
    ++ leBytes 8 clk ++ leBytes 16 0
    ++ shown.flatMap (fun p => leBytes 4 p.1.waiter.code ++ leBytes 1 p.1.kind ++ leBytes 3 0 ++ leBytes 4 p.1.object
        ++ leBytes 4 p.2.code)
    ++ leBytes (16 * (64 - shown.length)) 0

/-- A report freezes cores with WAIT_CYCLE and the same wait-for record (R341). -/
def State.report (s : State) (reason : Nat) (keys : List (Nat × Nat)) (es : List Edge) : State :=
  keys.foldl (fun t k =>
    match t.place k with
    | none => t
    | some ci =>
      let halted := (t.core? ci).any Core.halted
      if halted then t
      else (t.takeTrap ci 7 none (trapOf 0xD reason 0)).updCore ci (fun c =>
        { c with waitRec := waitRecord reason s.clk es })) s

/-- The cores that have a waiting party in a set of waits. -/
def partyCores (es : List Edge) : List (Nat × Nat) :=
  es.filterMap (fun e => e.waiter.vcore.map (fun vc => (e.waiter.task, vc)))

/-- The cores that have a party on a route: its owner, its source port and its destination ports (R341). -/
def State.routeCores (s : State) (ci : Nat) (r : Route) : List (Nat × Nat) :=
  match s.core? ci with
  | none => []
  | some c =>
    let at' := fun (j : Nat) => (s.coreAt (s.phys c) j).map (fun p => p.2.key)
    c.key :: (if r.srcKind < 6 then (at' r.srcSlot).toList else [])
      ++ (if r.dkind < 6 then r.dests.filterMap at' else [])

/-- The clk since which no beat has moved on the context's routes in a cluster and its watchdog has run (R339). -/
def State.stillSince (s : State) (ctx cl : Nat) : Nat :=
  ((s.ctxRoutes ctx cl).map (fun x => x.2.2.movedAt)).foldl Nat.max (s.clusters.at' cl).watch

/-- The watchdog of a cluster restarts (R339). -/
def State.restartWatch (s : State) (cl : Nat) : State := s.updCluster cl (fun k => { k with watch := s.clk })

/-- The welt settings of the task that holds a cluster for a context, as its binding found them (R338, R366). -/
def State.limitsOf (s : State) (ctx cl : Nat) : Context :=
  match s.fw.tasks.find? (fun t => t.ctx == ctx && t.clusters.contains cl) with
  | some t => t.set
  | none => s.fw.contexts.at' ctx

/-- A growth of 64 beats takes 16,384 bytes of the context's spill area (R338, R339): which of its steps, and what their bytes
then hold, is not specified (log entry 32). -/
def State.spillStep (s : State) (ctx : Nat) (x : Context) : State :=
  let steps := x.splen / 16384
  match s.firmReach ctx .store ((x.spva + 16384 * (s.free (freeKey 33 0 ctx) % steps)) % 2 ^ 52) 16384 with
  | .ok as => if steps == 0 then s else s.store (as.map (fun a => (a, Config.freeByte a s.freeIx)))
  | _ => s

/-- The edges of a spill-limit record (R341): those of the stalled route, and the waits that hold its consumers. -/
def State.stallEdges (s : State) (ctx : Nat) (x : Nat × Nat × Route) : List Edge :=
  let own := s.routeEdges x
  let users := own.flatMap (fun e => e.holders)
  own ++ (s.waitGraph ctx).filter (fun e => users.contains e.waiter && !own.contains e)

/-- WATCHDOG_EXPIRY (R339-R341): a full link grows, or the spill limit is reported; without a full link, also where the
context has no route in the cluster, the wait-for graph is built (R30). -/
def execWatchdogExpiry (ctx cl : Nat) (s : State) : Host.Outcome State Fault Refusal :=
  let x := s.limitsOf ctx cl
  if (s.coresIn ctx cl).isEmpty || s.clk < s.stillSince ctx cl + x.wdog then .next s
  else match s.fullLink ctx cl with
    | some (ci, rt, i, _) =>
      if s.spilled ctx + 1 ≤ x.splim then
        .next (((s.spillStep ctx x).updRoute ci rt (fun r => { r.modLink i (fun l => { l with cap := l.cap + 64 }) with spl := true })).restartWatch cl)
      else
        match (s.core? ci).map (fun c => c.routes.at' rt) with
        | none => .next s
        | some r => .next ((s.report 2 (s.routeCores ci r) (s.stallEdges ctx (ci, rt, r))).restartWatch cl)
    | none =>
      let es := s.deadSet ctx
      .next ((if es.isEmpty then s else s.report 1 (partyCores es) es).restartWatch cl)

/-- Whether a strand's wait of a watched kind has stood still for the watchdog's clk (R30, R340). -/
def Strand.standsStill (st : Strand) (wdog clk : Nat) : Bool :=
  decide (st.waitClk + wdog ≤ clk) && (match st.wait with
    | .token _ => true
    | .push _ => true
    | .flag _ => true
    | .stage _ _ _ => true
    | .barrier _ => true
    | .timeline _ _ => true
    | .quiesce _ => true
    | .scan _ _ => true
    | .slip => true
    | .jump => true
    | .mstrand => true
    | _ => false)

/-- WAIT_STANDSTILL (R340, R341): waits of a context's strands have stood still for WDOG clk, and the graph is built. -/
def execWaitStandstill (ctx : Nat) (s : State) : Host.Outcome State Fault Refusal :=
  let still := s.cores.any (fun c => s.ctxNo c == ctx && !c.halted
    && c.strands.any (fun st => st.standsStill (s.limitsOf ctx (s.phys c)).wdog s.clk))
  let es := s.deadSet ctx
  if still && !es.isEmpty then .next (s.report 1 (partyCores es) es) else .next s

end Sys2Proof.Machine
end

