-- ==== Sys2Proof/Machine/Firm.lean ====
section
/-! DEFINITION. What the firmware's operations share: events (spec/16, R393), accesses by VA, the QCB and the status record
of a queue (spec/14, R346, R356; spec/16, R409), the end of a task (R362, R363) and mailbox commands (spec/21, R423,
R424). -/
namespace Sys2Proof.Machine

/-- An event record without its number (R393). -/
structure Note where
  typ : Nat
  ctx : Nat
  vcore : Nat
  qid : Nat
  lseq : Nat
  arg0 : Nat
  arg1 : Nat
  deriving DecidableEq, Repr

/-- The 56 bytes that follow ESEQ in an event record (R393). -/
def Note.bytes (n : Note) : List (BitVec 8) :=
  leBytes 2 n.typ ++ leBytes 1 n.ctx ++ leBytes 1 0 ++ leBytes 4 n.vcore ++ leBytes 2 n.qid ++ leBytes 6 0
    ++ leBytes 8 n.lseq ++ leBytes 8 n.arg0 ++ leBytes 8 n.arg1 ++ leBytes 16 0

/-- A module event (R393). -/
def moduleNote (typ a0 a1 : Nat) : Note :=
  { typ := typ, ctx := 0xFF, vcore := 0xFFFFFFFF, qid := 0xFFFF, lseq := 0, arg0 := a0, arg1 := a1 }

/-- An event of a task, or of one core of it (R393). -/
def Task.note (t : Task) (typ vcore a0 a1 : Nat) : Note :=
  { typ := typ, ctx := t.ctx, vcore := vcore, qid := t.qid, lseq := t.lseq, arg0 := a0, arg1 := a1 }

/-- An event joins those that wait inside the device (R393). -/
def State.event (s : State) (n : Note) : State := s.updMgmt (fun m => { m with events := m.events ++ [n.bytes] })

/-- An MSI-X vector is raised (R425). -/
def State.raiseMsix (s : State) (v : Nat) : State := s.updMgmt (fun m => { m with msix := m.msix ++ [v] })

/-- Fills [lo, lo + n) with unspecified values of a draw; granules that lie in it whole lose their marks (R402). -/
def State.freeRange (s : State) (lo n : Nat) : State :=
  { s with
    mem := writeCells (eraseRange s.mem lo (lo + n)) (cellsAt lo (tabulate n (fun i => Config.freeByte (lo + i) s.freeIx)))
    poison := s.poison.filter (fun g => 64 * g < lo || lo + n < 64 * g + 64) }

/-- The QCB of a queue (R346). -/
def Queue.qcbBytes (q : Queue) : List (BitVec 8) :=
  leBytes 8 q.ring ++ leBytes 8 q.stva ++ leBytes 1 q.rlog ++ leBytes 1 q.ctx ++ leBytes 2 q.qid
    ++ leBytes 1 (1 + (if q.pend then 2 else 0) + (if q.slot.isSome then 4 else 0) + (if q.errstop then 8 else 0)
        + (if q.resync then 16 else 0))
    ++ leBytes 1 (q.slot.getD 0xFF) ++ leBytes 1 (wrapInt 8 q.pbias) ++ leBytes 1 0 ++ leBytes 2 q.msix ++ leBytes 6 0
    ++ leBytes 8 q.subseen ++ leBytes 8 q.consumed ++ leBytes 8 q.completed ++ leBytes 8 q.errseq ++ leBytes 4 q.errcode
    ++ leBytes 4 0 ++ leBytes 8 q.hready ++ leBytes 4 q.nrun ++ leBytes 4 0 ++ leBytes 8 q.done.toNat ++ leBytes 32 0
    ++ tabulate 128 (fun i => q.head.getD i 0)

/-- A queue with the values that a QCB holds (R346, R348). -/
def Queue.loadQcb (q : Queue) (bs : List (BitVec 8)) : Queue :=
  let fl := fieldAt bs 20 1
  { q with
    ring := fieldAt bs 0 8 % 2 ^ 52, stva := fieldAt bs 8 8 % 2 ^ 52, rlog := fieldAt bs 16 1, ctx := fieldAt bs 17 1 % 16
    pend := bitAt fl 1, errstop := bitAt fl 3, resync := bitAt fl 4, pbias := toSigned 8 (fieldAt bs 22 1)
    msix := fieldAt bs 24 2, subseen := fieldAt bs 32 8, consumed := fieldAt bs 40 8, completed := fieldAt bs 48 8
    errseq := fieldAt bs 56 8, errcode := fieldAt bs 64 4, hready := fieldAt bs 72 8, nrun := fieldAt bs 80 4
    done := BitVec.ofNat 64 (fieldAt bs 88 8), head := (bs.drop 128).take 128 }

/-- A registered queue with its live values: those of its slot, or of its QCB while it is unmapped (R346). -/
def State.queueNow (s : State) (q : Queue) : Queue :=
  if q.slot.isSome then q else q.loadQcb (readBytes s.mem q.qcb 256)

/-- The live values of every registered queue. -/
def State.queues (s : State) : List Queue := s.fw.queues.map s.queueNow

/-- The live values of the queue with an identifier. -/
def State.getQueue (s : State) (qid : Nat) : Option Queue := (s.queue? qid).map s.queueNow

/-- Keeps the values of a queue: in its slot, or in its QCB while it is unmapped (R346). -/
def State.putQueue (s : State) (q : Queue) : State :=
  let s1 := s.updQueue q.qid (fun _ => q)
  if q.slot.isSome then s1 else s1.storeBytes q.qcb q.qcbBytes

/-- The queue is mapped into a slot: its QCB in memory holds unspecified values (R346, R348). -/
def State.mapQueue (s : State) (q : Queue) (slot : Nat) : State :=
  let s1 := s.updQueue q.qid (fun _ => { q with slot := some slot, pend := false, mappedAt := s.clk })
  let s2 := s1.storeBytes q.qcb (tabulate 256 (fun i => BitVec.ofNat 8 (s.free (wideKey 8 (q.qid * 256 + i)))))
  s2.updFw (fun w => { w with kickmap := w.kickmap.filter (fun x => x != q.qid) })

/-- The queue is unmapped: its slot's values go to its QCB (R348). -/
def State.unmapQueue (s : State) (q : Queue) (pend : Bool) : State :=
  s.putQueue { q with slot := none, pend := pend }

/-- A queue's bit in the kick bitmap is set; a bit that goes from 0 to 1 wakes the firmware (R347). -/
def State.kickBit (s : State) (qid : Nat) : State :=
  if s.fw.kickmap.contains qid then s else s.updFw (fun w => { w with kickmap := qid :: w.kickmap, roused := true })

/-- The status record of a queue (R409). -/
def Queue.status (q : Queue) : List (BitVec 8) :=
  leBytes 8 q.subseen ++ leBytes 8 q.consumed ++ leBytes 8 q.completed ++ leBytes 8 q.errseq ++ leBytes 4 q.errcode
    ++ leBytes 1 ((if q.errstop then 1 else 0) + (if q.resync then 2 else 0)) ++ leBytes 3 0 ++ leBytes 8 q.wseq
    ++ leBytes 8 q.done.toNat ++ leBytes 8 0

/-- A queue enters error stop (R347, R351, R409). -/
def Queue.stop (q : Queue) (code seq : Nat) : Queue := { q with errstop := true, errcode := code, errseq := seq }

/-- A status write that cannot be performed (R409): error stop, event 0x14, and the mirror alone holds the record. -/
def State.statusFault (s : State) (q : Queue) (reason : Nat) : State :=
  let q1 := q.stop 0x27 q.consumed
  (s.putQueue { q1 with mirror := q1.status }).event
    { typ := 0x14, ctx := q.ctx, vcore := 0xFFFFFFFF, qid := q.qid, lseq := 0, arg0 := q.stva,
      arg1 := reason % 256 + 2 ^ 16 * (s.fw.contexts.at' q.ctx).asid }

/-- Whether host memory answers a write with an error (R409): a free value. -/
def State.hostError (s : State) (as : List Nat) : Bool :=
  as.any (fun a => decide (hostBase ≤ a) && decide (a < windowBase)) && s.free (freeKey 22 0 0) % 2 == 1

/-- Makes the status write that a queue's mirror holds, now or once its page is filled (R357, R409). again: the fill of
the page has failed. -/
def State.pushStatus (s : State) (q : Queue) (again : Bool) : State :=
  let ring := fun (t : State) => if q.owedIrq then t.raiseMsix q.msix else t
  match s.firmReach q.ctx .store q.stva 64 with
  | .ok as =>
    if s.hostError as then ring (s.statusFault { q with stWait := none, owedIrq := false } (s.free (freeKey 22 1 0)))
    else ring ((s.putQueue { q with stWait := none, owedIrq := false }).store (List.zip as q.mirror))
  | .fault r => ring (s.statusFault { q with stWait := none, owedIrq := false } r)
  | .hold f =>
    if again then ring (s.statusFault { q with stWait := none, owedIrq := false } 6)
    else (s.putQueue { q with stWait := some f.va }).wantFill f

/-- A STATUS WRITE (R409): the record with the next WSEQ goes to the mirror and to memory; irq: the queue's vector is
raised after it. -/
def State.writeStatus (s : State) (q : Queue) (irq : Bool) : State :=
  let q1 := { q with wseq := (q.wseq + 1) % 2 ^ 64, owedIrq := q.owedIrq || irq }
  s.pushStatus { q1 with mirror := q1.status } false

/-- COMPLETED advances over the leading completed launches (R356). -/
def advanceDone : Nat → Nat → Nat → Nat × Nat
  | 0, comp, done => (comp, done)
  | k + 1, comp, done => if done % 2 == 1 then advanceDone k (comp + 1) (done / 2) else (comp, done)

/-- COMPLETED advances over the leading completed launches, DONE bits first and then those beyond DONE (R356). -/
def Queue.advance (q : Queue) : Queue :=
  let at' := fun (i : Nat) => q.beyond.contains (q.completed + 1 + i)
  let wide := fieldsMask (fun i => bitAt q.done.toNat i || at' i) (128 + q.beyond.length)
  let p := advanceDone (64 + q.beyond.length) q.completed wide
  { q with completed := p.1, done := BitVec.ofNat 64 p.2, beyond := q.beyond.filter (fun s => decide (p.1 + 64 < s)) }

/-- A launch of a queue completes (R352, R356). -/
def Queue.complete (q : Queue) (seq : Nat) (err : Option Nat) : Queue :=
  let i := seq - q.completed - 1
  let q1 := ({ q with
    nrun := q.nrun - 1, done := if i < 64 then q.done ||| (1#64 <<< i) else q.done
    beyond := if i < 64 then q.beyond else q.beyond ++ [seq] }).advance
  match err with
  | some code => { q1 with errseq := seq, errcode := code }
  | none => q1

/-- The completion of a launch reaches its queue (R356). -/
def State.finishLaunch (s : State) (qid seq : Nat) (head : List (BitVec 8)) (err : Option Nat) : State :=
  match s.getQueue qid with
  | none => s
  | some q => s.writeStatus (q.complete seq err) (bitAt (fieldAt head 43 1) 1)

/-- A task gives up its clusters: its cores and remap entries are gone (R356, R362). -/
def State.releaseClusters (s : State) (t : Task) : State :=
  let s1 := { s with cores := s.cores.filter (fun c => c.task != t.id) }
  t.clusters.foldl (fun s cl => s.updCluster cl (fun k => { k with lastCtx := some t.ctx, closed := false, pins := [] })) s1

/-- A task is gone. -/
def State.dropTask (s : State) (t : Task) : State :=
  (s.releaseClusters t).updFw (fun w => { w with
    tasks := w.tasks.filter (fun x => x.id != t.id)
    selected := w.selected.filter (fun x => x != .saved t.id) })

/-- A task's launch completes (R356, R363). -/
def State.completeTask (s : State) (t : Task) (err : Option Nat) : State :=
  (s.dropTask t).finishLaunch t.qid t.lseq t.launch err

/-- The places of a task's cores. -/
def State.placesOf (s : State) (id : Nat) : List Nat :=
  ((s.cores.zipIdx).filter (fun p => p.1.task == id)).map (fun p => p.2)

/-- Whether a RED, an atomic or a list operation of a task is on its way to its home, or an instruction that runs to its end has
not finished, or a carry or a total is on the lacing, or what a copy has sent is not performed (R173, R203, R213, R242, R362). -/
def State.taskBusy (s : State) (id : Nat) : Bool :=
  (s.cores.zipIdx).any (fun p => p.1.task == id && !p.1.killed && (p.1.strands.any Strand.midway || s.laced p.2 p.1 || p.1.sending (fun _ => true)))
    || s.reqs.any (fun r => r.cores.any (fun k => k.1 == id)) || s.lists.any (fun r => r.core.1 == id)

/-- Every core of a task freezes at once, and its clusters close to new packets (R361, R362). -/
def State.freezeTask (s : State) (t : Task) : State :=
  let s1 := s.mapCores (fun c => c.task == t.id) (fun c => { c.stop with freeze := true })
  (t.clusters.foldl (fun s cl => s.updCluster cl (fun k => { k with closed := true })) s1).updTask t.id (fun t =>
    { t with frozeAt := s.clk })

/-- Whether the freeze of a task is not complete: something of it goes on to its end (R362, R398). -/
def State.freezing (s : State) (t : Task) : Bool :=
  (match t.stage with
    | .frozen _ => true
    | _ => false) && s.taskBusy t.id

/-- Writes 0 to the MAGIC of a task's save area, where it can be written (R392). -/
def State.clearMagic (s : State) (t : Task) : State :=
  match s.firmReach t.ctx .store t.area.1 4 with
  | .ok as => s.store (as.map (fun a => (a, 0)))
  | _ => s

/-- Whether a task has an image, or one is being written or read (R399, R401). -/
def TaskStage.imaged : TaskStage → Bool
  | .saved _ => true
  | .loading => true
  | .frozen none => true
  | _ => false

/-- ENDING A TASK (R363, R392, R395) with an error code: its cores freeze and are killed, and once what is on its way to
a home is performed its clusters are released and the launch completes; a saved image is discarded, and a save in progress
is abandoned with its MAGIC at 0. -/
def State.endTask (s : State) (id code : Nat) : State :=
  match s.task? id with
  | none => s
  | some t =>
    match t.stage with
    | .saved _ => (s.clearMagic t).completeTask t (some code)
    | .loading => (s.clearMagic t).completeTask t (some code)
    | _ =>
      let s0 := match t.stage with
        | .frozen none => s.clearMagic t
        | _ => s
      let s1 := (s0.placesOf id).foldl (fun s ci => s.killCore ci) (s0.freezeTask t)
      if s1.taskBusy id then s1.updTask id (fun t => { t with stage := .frozen (some code) })
      else s1.completeTask t (some code)

/-- What a mailbox command comes to: it is done with a response payload, refused with a DETAIL, or not yet complete. -/
inductive CmdRes where
  | done (payload : List (BitVec 8)) (s : State)
  | refuse (detail : Nat) (s : State)
  | wait (s : State)

/-- Writes the response and then the completed number (R423, R424). -/
def State.respond (s : State) (n status detail tag : Nat) (payload : List (BitVec 8)) : State :=
  (s.storeBytes (mailboxBase + 0x800) (leBytes 1 status ++ leBytes 1 detail ++ leBytes 2 0 ++ leBytes 4 payload.length
    ++ leBytes 8 tag ++ payload)).updMgmt (fun m => { m with bell := none, belldone := n })

/-- Runs the body of a command with its payload of a fixed length, after the checks of R424 on the head. -/
def State.runCommand (s : State) (n len : Nat) (rsvs : List (Nat × Nat)) (body : List (BitVec 8) → State → CmdRes) :
    State :=
  let hd := readBytes s.mem mailboxBase 16
  let tag := fieldAt hd 8 8
  let bs := readBytes s.mem (mailboxBase + 16) len
  if fieldAt hd 1 3 != 0 || fieldAt hd 4 4 != len || rsvs.any (fun r => fieldAt bs r.1 r.2 != 0) then
    s.respond n 1 1 tag []
  else match body bs s with
    | .done payload t => t.respond n 0 0 tag payload
    | .refuse d t => t.respond n 1 d tag []
    | .wait t => t

/-- A MAILBOX COMMAND (R423, R424): the command whose doorbell has been rung, if it has this code and its payload is of
this row; before READY only ATTEST runs (R428). -/
def State.command (s : State) (code len : Nat) (rsvs : List (Nat × Nat)) (mine : List (BitVec 8) → Bool)
    (body : List (BitVec 8) → State → CmdRes) : Host.Outcome State Fault Refusal :=
  match s.mgmt.bell with
  | none => .next s
  | some n =>
    if fieldAt (readBytes s.mem mailboxBase 1) 0 1 == code && (s.mgmt.ready || code == 0x0B)
      && mine (readBytes s.mem (mailboxBase + 16) len) then .next (s.runCommand n len rsvs body)
    else .next s

/-- A command whose code has one row. -/
def anyPayload (_ : List (BitVec 8)) : Bool := true

end Sys2Proof.Machine
end

