-- ==== Sys2Proof/Machine/Paging.lean ====
section
/-! DEFINITION. Paging fills and copy-on-write (spec/10, R265, R266; spec/15, R374), invalidation (R378-R380) and the
retirement of frames (spec/16, R407, R408). -/
namespace Sys2Proof.Machine

/-- Removes translations from every TLB, every walk cache and what the channels keep (R376, R379). -/
def State.dropTlb (s : State) (p : Tlb → Bool) : State :=
  let keep := fun (l : List Tlb) => l.filter (fun t => !p t)
  let chan := fun (x : Channel) => { x with queue := x.queue.map (fun y => { y with keptR := y.keptR.filter (fun t => !p t), keptW := y.keptW.filter (fun t => !p t) }) }
  { s with
    cores := s.cores.map (fun c => { c with tlb := keep c.tlb, chans := RegFile.tab 2 (fun k => chan (c.chans.at' k)) })
    clusters := RegFile.tab 6 (fun i => { s.clusters.at' i with tlb := keep (s.clusters.at' i).tlb })
    dies := RegFile.tab 3 (fun i => { s.dies.at' i with walks := keep (s.dies.at' i).walks }) }

/-- Whether an entry translates a VA of [lo, hi) for an ASID. -/
def Tlb.inRange (t : Tlb) (asid lo hi : Nat) : Bool :=
  t.asid == asid && decide (t.va < hi) && decide (lo < t.va + t.size)

/-- Whether an access through a translation of [lo, hi) of an ASID is on its way to a home (R379). -/
def State.inFlight (s : State) (asid lo hi : Nat) : Bool :=
  let of := fun (key : Nat × Nat) => match s.peerCore key.1 key.2 with
    | some c => (s.ctx c).asid == asid
    | none => false
  s.reqs.any (fun r => r.via.any (fun p => p.1 == asid && decide (p.2 < hi) && decide (lo < p.2 + 8)))
    || s.lists.any (fun r => of r.core && (decide (r.va < hi) && decide (lo < r.va + 64)
      || decide (bits r.words 51 0 < hi) && decide (lo < bits r.words 51 0 + 32 * bits r.words 95 64)))
    || s.cores.any (fun c => (s.ctx c).asid == asid && (match c.split with
      | some x => x.todo.any (fun p => p.any (fun b => decide (lo ≤ (x.va + b.1) % 2 ^ 52) && decide ((x.va + b.1) % 2 ^ 52 < hi)))
      | none => false))
    || s.cores.any (fun c => (s.ctx c).asid == asid && c.sending (fun b => (b.va.map (fun va => decide (lo ≤ va) && decide (va < hi))).getD false))

/-- Copies n bytes from one place to another, poison marks included (R374, R402, R408). -/
def State.copyFrame (s : State) (src dst n : Nat) : State :=
  let moved := s.poison.flatMap (fun g =>
    let lo := Nat.max (64 * g) src
    let hi := Nat.min (64 * g + 63) (src + n - 1)
    if lo ≤ hi then [granule (lo - src + dst), granule (hi - src + dst)] else [])
  let kept := s.poison.filter (fun g => 64 * g < dst || dst + n < 64 * g + 64)
  { s with mem := copyRange s.mem src dst n, poison := kept ++ (moved.filter (fun g => !kept.contains g)).eraseDups }

/-- PAGE_FILL (R266): the paging firmware takes the fill of a held page. -/
def execPageFill (ctx va : Nat) (s : State) : Host.Outcome State Fault Refusal :=
  .next (s.updFw (fun w => { w with fills := w.fills.map (fun f =>
    if f.ctx == ctx && f.va == va then { f with started := true } else f) }))

/-- The raw bytes of chunks k, k + 1, … of a stream, none where one is malformed (R256-R258). -/
def streamChunks (bs : List (BitVec 8)) (idx : Nat) : Nat → Nat → Option (List (BitVec 8))
  | 0, _ => some []
  | n + 1, k =>
    let off := fieldAt bs (idx + 8 * k) 8
    let hd := (bs.drop off).take 16
    let clen := fieldAt hd 4 4
    if off % 8 != 0 || off < 32 || idx < off + 16 + clen then none
    else match decodeChunk hd ((bs.drop (off + 16)).take clen), streamChunks bs idx n (k + 1) with
      | some a, some b => some (a ++ b)
      | _, _ => none

/-- The raw bytes of a whole stream whose RAWLEN is a given size (R256, R265). -/
def streamBytes (bs : List (BitVec 8)) (size : Nat) : Option (List (BitVec 8)) :=
  let idx := fieldAt bs 16 8
  let nch := fieldAt bs 4 4
  if bs.length < 32 || !streamOk (bs.take 32) || fieldAt bs 8 8 != size || bs.length < idx + 8 * nch then none
  else match streamChunks bs idx nch 0 with
    | some raw => if raw.length == size then some raw else none
    | none => none

/-- The state with a page's backing data in a frame, none where the descriptor or the stream is malformed (R265, R266). A
raw backing shorter than the page leaves the rest of the frame unspecified. -/
def State.loadPage (s : State) (f : Fill) (frame : Nat) : Option State :=
  let size := levelBytes f.level
  let da := bits f.entry.toNat 47 0
  let d := readBytes s.mem da 32
  let base := fieldAt d 0 8
  let kind := fieldAt d 8 1
  let loc := fieldAt d 9 1
  let len := fieldAt d 16 8
  let top := if loc == 0 then 2 ^ 48 else 2 ^ 39
  let src := if loc == 0 then hostBase + base else base
  if s.poisoned da || 2 ≤ kind || 2 ≤ loc || fieldAt d 10 6 != 0 || fieldAt d 24 8 != 0 || top < base + len then none
  else if kind == 0 then
    let s1 := s.copyFrame src frame (Nat.min len size)
    some (if len < size then s1.freeRange (frame + len) (size - len) else s1)
  else if s.poison.any (fun g => src < 64 * g + 64 && 64 * g < src + len) then none
  else (streamBytes (readBytes s.mem src len) size).map (fun raw => s.storeBytes frame raw)

/-- Entries of a table of a level. -/
def tableEntries (lvl : Nat) : Nat := if lvl == 0 then 8192 else if lvl == 3 then 32 else 512

/-- The places in a table of entries with a byte that is not zero. -/
def usedEntries (m : List Host.Cell) (tab n : Nat) : List Nat :=
  (m.filterMap (fun c => if tab ≤ c.1 && c.1 < tab + 8 * n then some ((c.1 - tab) / 8) else none)).eraseDups

/-- A leaf of a context's tables: page VA, level, where it stands and what it holds. -/
structure LeafAt where
  va : Nat
  lvl : Nat
  pa : Nat
  e : Pte
  deriving DecidableEq, Repr

/-- The leaves below a table (R369). -/
def leavesFrom (m : List Host.Cell) : Nat → Nat → Nat → Nat → List LeafAt
  | 0, _, _, _ => []
  | k + 1, lvl, tab, va =>
    (usedEntries m tab (tableEntries lvl)).flatMap (fun i =>
      let pa := tab + 8 * i
      let e : Pte := { raw := readNat m pa 8 }
      let v := va + i * levelBytes lvl
      if e.malformed lvl || !e.p then []
      else if e.leaf then [{ va := v, lvl := lvl, pa := pa, e := e }]
      else leavesFrom m k (lvl + 1) e.addr v)

/-- Whether a leaf of some context, or an object, maps a part of a range of device memory. -/
def State.frameMapped (s : State) (frame size : Nat) : Bool :=
  (List.range 16).any (fun i =>
    let x := s.fw.contexts.at' i
    x.valid && (leavesFrom s.mem 4 0 x.root 0).any (fun l =>
      l.e.tgt == 0 && decide (l.e.addr < frame + size) && decide (frame < l.e.addr + levelBytes l.lvl)))
  || s.fw.objects.any (fun o => o.frames.any (fun f => decide (f.2.2 < frame + size) && decide (frame < f.2.2 + 65536)))

/-- Whether a context's pool can give a frame for a mapping of a size (R266, R374, R408): the context has a pool, and the
frame is aligned, lies in device memory, has no retired part and is mapped nowhere. Which frame of the pool is taken is
the event's operand, as the spec lays out no pool (log entry 65). -/
def State.frameOk (s : State) (cno frame size : Nat) : Bool :=
  decide (0x10000 ≤ (s.fw.contexts.at' cno).fpool) && frame % size == 0 && decide (frame + size ≤ 2 ^ 39)
    && !s.mgmt.badFrames.any (fun b => decide (frame ≤ b) && decide (b < frame + size))
    && !s.frameMapped frame size

/-- The accesses held on a page go on; bad: they fault (R266). -/
def State.releasePage (s : State) (f : Fill) (bad : Bool) : State :=
  let inPage := fun (va : Nat) => decide (f.va ≤ va) && decide (va < f.va + levelBytes f.level)
  let strand := fun (st : Strand) => match st.wait with
    | .fill va _ => if inPage va then { st with wait := .none, fillBad := bad } else st
    | _ => st
  let chan := fun (x : Channel) => match x.fill with
    | some (va, _) => if inPage va then { x with fill := none, queue := modifyAt x.queue 0 (fun y =>
        { y with fillBad := if bad then f.va :: y.fillBad else y.fillBad }) } else x
    | none => x
  let s1 := s.mapCores (fun c => s.ctxNo c == f.ctx) (fun c =>
    { c.mapStrands strand with chans := RegFile.tab 2 (fun k => chan (c.chans.at' k)) })
  s1.queues.foldl (fun t q =>
    if q.ctx != f.ctx then t
    else
      let q1 := if (q.ringWait.map inPage).getD false then { q with ringWait := none, ringFail := bad } else q
      if (q1.stWait.map inPage).getD false then t.pushStatus { q1 with stWait := none } bad
      else if q1 == q then t else t.putQueue q1) s1

/-- FILL_DONE (R265, R266): the frame taken from the pool holds the page and the entry is present, or the fill has failed:
ok is false for a bus error or an empty pool. -/
def execFillDone (ctx va frame : Nat) (ok : Bool) (s : State) : Host.Outcome State Fault Refusal :=
  match s.fw.fills.find? (fun f => f.ctx == ctx && f.va == va && f.started) with
  | none => .next s
  | some f =>
    let s1 := s.updFw (fun w => { w with fills := w.fills.filter (fun g => !(g.ctx == ctx && g.va == va)) })
    let e : Pte := { raw := readNat s.mem f.entryPA 8 }
    if e.p || !e.bk then .next (s1.releasePage f false)
    else match (if ok && s.frameOk ctx frame (levelBytes f.level) then s1.loadPage { f with entry := BitVec.ofNat 64 e.raw } frame
        else none) with
      | none => .next (s1.releasePage f true)
      | some s2 =>
        let new := setBits (setBits (setBits e.raw 63 63 1) 49 49 0) 47 0 frame
        .next ((s2.storeNat f.entryPA 8 new).releasePage f false)

/-- The addresses of the COW faults of a frozen core, where every trap of its record is one (R374, R389). -/
def Core.cowFaults (c : Core) : Option (List Nat) :=
  let traps := c.strands.filterMap (fun st => st.trap)
  let copies := (List.range 4).flatMap (fun k =>
    ((c.chans.at' k).ending ++ (c.chans.at' k).queue).filterMap (fun x => x.fault.map (fun f => f.info)))
  let all := traps ++ copies
  if !all.isEmpty && all.all (fun t => t.cause == 5 && t.detail == 4) then some (all.map (fun t => t.addr)) else none

/-- The event that a recorded trap raises (R267, R374, R392, R393): in host-assisted paging a page fault for want of a
mapping and a COW fault have events of their own, with the address and kind of the access. -/
def State.trapNote (s : State) (t : Task) (c : Core) (h : TrapHead) (recPA : Nat) : Note :=
  let first := ((List.range 4).flatMap (fun k =>
    ((c.chans.at' k).ending ++ (c.chans.at' k).queue).filterMap (fun x => x.fault))).head?
  let addr := if h.srcByte == 3 then (first.map (fun f => f.info.addr)).getD 0 else h.info.addr
  let wr := if h.srcByte == 3 then (first.map (fun f => f.write)).getD false else h.info.write
  let asid := (s.fw.contexts.at' t.ctx).asid * 2 ^ 16
  if s.mgmt.fnmode.getLsbD 0 && h.info.cause == 4 && h.info.detail == 0 then
    t.note 2 c.vcore addr (asid + (if wr then 0x100 else 0))
  else if s.mgmt.fnmode.getLsbD 0 && h.info.cause == 5 && h.info.detail == 4 then t.note 3 c.vcore addr asid
  else t.note 1 c.vcore recPA (h.info.cause.toNat + 256 * h.srcByte)

/-- The trap event of a core is raised (R392, R393). -/
def State.raiseTrap (s : State) (ci : Nat) : State :=
  match s.core? ci with
  | none => s
  | some c =>
    match c.trapped, c.record, s.task? c.task with
    | some h, some pa, some t => (s.event (s.trapNote t c h pa)).updCore ci (fun c => { c with raised := true })
    | _, _, _ => s

/-- Where the entry stands at which the walk of a VA ends. -/
def leafPlace (m : List Host.Cell) (va : Nat) : Nat → Nat → Nat → Option Nat
  | 0, _, _ => none
  | k + 1, lvl, tab =>
    let pa := tab + 8 * levelIndex lvl va
    let e : Pte := { raw := readNat m pa 8 }
    if e.p && !e.leaf then leafPlace m va k (lvl + 1) e.addr else some pa

/-- Whether a save of a task is in progress, or the task is saved (R392, R395). -/
def TaskStage.saving : TaskStage → Bool
  | .frozen _ => true
  | .saved _ => true
  | .loading => true
  | _ => false

/-- The stage of a core's task. -/
def State.stageOf (s : State) (c : Core) : Option TaskStage := (s.task? c.task).map Task.stage

/-- A trapped core goes on as far as its task's stage lets it: not past a stop point, and not while its task is frozen
(R360, R361, R400). -/
def State.resumeCore (s : State) (ci : Nat) : State :=
  s.updCore ci (fun c => { c.resume with
    freeze := s.stageOf c == some .aborted, stopped := s.stageOf c == some .stopping })

/-- COW_RESOLVE (R374): the firmware resolves the next COW fault of a recorded core in hardware mode with a frame from
the pool, and once none is left the core resumes. Without a usable frame, or in host-assisted mode, the trap is raised. A core
of a task that is being saved keeps its trap (R395). -/
def execCowResolve (ci frame : Nat) (s : State) : Host.Outcome State Fault Refusal :=
  match s.core? ci with
  | none => .next s
  | some c =>
    let cno := s.ctxNo c
    let x := s.ctx c
    let isCow := fun (va : Nat) => match (s.walk x [] va).1 with
      | .leaf e _ => e.cow
      | _ => false
    match (if c.trapped.isNone || c.record.isNone || c.raised || (s.stageOf c).any TaskStage.saving then none
        else c.cowFaults) with
    | none => .next s
    | some vas =>
      if s.mgmt.fnmode.getLsbD 0 then .next (s.raiseTrap ci) else
      match vas.find? isCow with
      | none => .next (s.resumeCore ci)
      | some va =>
        match (s.walk x [] va).1 with
        | .leaf e lvl =>
          let size := levelBytes lvl
          let page := va / size * size
          if !s.frameOk cno frame size then .next (s.raiseTrap ci)
          else if s.inFlight x.asid page (page + size) then .next s
          else
            let pa := (leafPlace s.mem va 4 0 x.root).getD 0
            let s1 := s.copyFrame (leafAddr e lvl page) frame size
            let s2 := s1.storeNat pa 8 (setBits (setBits (setBits (setBits e.raw 60 60 1) 58 58 0) 51 50 0) 47 0 frame)
            let s3 := s2.dropTlb (fun t => t.inRange (s.fw.contexts.at' cno).asid page (page + size))
            let more := vas.any (fun v => match (s3.walk x [] v).1 with
              | .leaf e _ => e.cow
              | _ => false)
            .next (if more then s3 else s3.resumeCore ci)
        | _ => .next s

/-- Whether an invalidation command is dropped (R378). -/
def invalDropped (b : List (BitVec 8)) : Bool := fieldAt b 24 8 % 4 != 0 || decide (2 ^ 39 ≤ fieldAt b 24 8)

/-- Whether an invalidation command is refused (R378). -/
def invalRefused (b : List (BitVec 8)) : Bool :=
  let k := fieldAt b 0 1
  let asid := fieldAt b 2 2
  let va := fieldAt b 8 8
  let npg := fieldAt b 16 4
  3 ≤ k || fieldAt b 1 1 != 0 || fieldAt b 4 4 != 0 || (k == 2 && asid != 0) || (k ≤ 1 && asid == 0)
    || (if k == 0 then va % 65536 != 0 || decide (2 ^ 52 ≤ va) || npg == 0 else va != 0 || npg != 0)

/-- The VA range of an invalidation command: every VA unless its KIND is 0 (R378). -/
def invalRange (b : List (BitVec 8)) : Nat × Nat :=
  if fieldAt b 0 1 == 0 then (fieldAt b 8 8, fieldAt b 8 8 + 65536 * fieldAt b 16 4) else (0, 2 ^ 52)

/-- Whether an invalidation command covers a translation (R378). -/
def invalCovers (b : List (BitVec 8)) (t : Tlb) : Bool :=
  t.inRange (if fieldAt b 0 1 == 2 then t.asid else fieldAt b 2 2) (invalRange b).1 (invalRange b).2

/-- The page translations that the TLBs and the walk caches hold (R376, R377). -/
def State.pagesHeld (s : State) : List Tlb :=
  (s.cores.flatMap (fun c => c.tlb) ++ (List.range 64).flatMap (fun i => (s.clusters.at' i).tlb)
    ++ (List.range 8).flatMap (fun i => (s.dies.at' i).walks)).filter (fun t => ({ raw := t.entry.toNat } : Pte).leaf)

/-- REMOVAL for the oldest command, once it is its turn (R379, R380): the translations that it removes are noted, for the
drain waits for what used them. -/
def State.startInval (s : State) : State :=
  match s.fw.invals with
  | [] => s
  | b :: _ =>
    if s.fw.removed then s
    else if invalRefused b then s.updFw (fun w => { w with removed := true, drains := [] })
    else (s.dropTlb (invalCovers b)).updFw (fun w => { w with
      removed := true, drains := (s.pagesHeld.filter (invalCovers b)).map (fun t => (t.asid, t.va, t.va + t.size)) })

/-- The supervisor posts an invalidation command (R378). -/
def State.postInval (s : State) (cmd : List (BitVec 8)) : State :=
  if cmd.length != 32 || invalDropped cmd then s
  else (s.updFw (fun w => { w with invals := w.invals ++ [cmd] })).startInval

/-- A command whose KIND a row takes is posted; a row leaves the others alone (R378). -/
def State.postKind (s : State) (mine : Nat → Bool) (cmd : List (BitVec 8)) : State :=
  if mine (fieldAt cmd 0 1) then s.postInval cmd else s

/-- INVAL_RANGE (R378, R379): KIND 0; the kinds that are refused are posted here too. -/
def execInvalRange (cmd : List (BitVec 8)) (s : State) : Host.Outcome State Fault Refusal :=
  .next (s.postKind (fun k => k != 1 && k != 2) cmd)

/-- INVAL_ASID (R378, R379): KIND 1. -/
def execInvalAsid (cmd : List (BitVec 8)) (s : State) : Host.Outcome State Fault Refusal :=
  .next (s.postKind (fun k => k == 1) cmd)

/-- INVAL_ALL (R378, R379): KIND 2. -/
def execInvalAll (cmd : List (BitVec 8)) (s : State) : Host.Outcome State Fault Refusal :=
  .next (s.postKind (fun k => k == 2) cmd)

/-- Whether accesses through what a command removed are still on their way (R379): within the command's range, or elsewhere in
a larger page that it covers a part of (R378). -/
def State.invalBusy (s : State) (b : List (BitVec 8)) : Bool :=
  s.fw.drains.any (fun r => s.inFlight r.1 r.2.1 r.2.2) ||
  (List.range 16).any (fun i =>
    let x := s.fw.contexts.at' i
    (fieldAt b 0 1 == 2 || fieldAt b 2 2 == x.asid) && s.inFlight x.asid (invalRange b).1 (invalRange b).2)

/-- INVAL_ACK (R378-R380): the oldest command is acknowledged, refused ones with the complement of ACKSEQ, and the next one
begins. -/
def execInvalAck (s : State) : Host.Outcome State Fault Refusal :=
  match s.fw.invals with
  | [] => .next s
  | b :: rest =>
    if !s.fw.removed || (!invalRefused b && s.invalBusy b) then .next s
    else
      let v := if invalRefused b then 2 ^ 32 - 1 - fieldAt b 20 4 else fieldAt b 20 4
      let s1 := s.storeNat (fieldAt b 24 8) 4 v
      .next (s1.updFw (fun w => { w with invals := rest, removed := false, drains := [] })).startInval

/-- A table pointer (R370). -/
def tablePointer (pa : Nat) : Nat := 2 ^ 63 + pa

/-- Writes n entries at consecutive places of a table. -/
def State.writeTable (s : State) (tab n : Nat) (f : Nat → Nat) : State :=
  s.storeBytes tab ((List.range n).flatMap (fun i => leBytes 8 (f i)))

/-- Rewrites a leaf so that the 64 KiB at an old frame lie in another; a larger page becomes tables of equal effect at base
(R408). -/
def State.splitLeaf (s : State) (l : LeafAt) (old frame base : Nat) : State :=
  let at' := fun (lvl a : Nat) => setBits l.e.raw 47 0 (if lvl == 3 && a == old then frame else a)
  let small := fun (s : State) (tab a : Nat) => s.writeTable tab 32 (fun i => at' 3 (a + i * 2 ^ 16))
  match l.lvl with
  | 3 => s.storeNat l.pa 8 (setBits l.e.raw 47 0 frame)
  | 2 => (small s base l.e.addr).storeNat l.pa 8 (tablePointer base)
  | _ =>
    let big := old / 2 ^ 21 * 2 ^ 21
    let s1 := s.writeTable base 512 (fun i =>
      let a := l.e.addr + i * 2 ^ 21
      if a == big then tablePointer (base + 4096) else at' 2 a)
    (small s1 (base + 4096) big).storeNat l.pa 8 (tablePointer base)

/-- A unit has reached its retirement threshold (R407). -/
def State.reachUnit (s : State) (kind unit : Nat) : State :=
  let known := match kind with
    | 0 => s.mgmt.badFrames.contains unit
    | _ => s.mgmt.badCores.contains unit
  if known || s.mgmt.due.contains (kind, unit) then s
  else s.updMgmt (fun m => { m with due := m.due ++ [(kind, unit)] })

/-- A unit's threshold has been acted on: its counted errors are forgotten (R407). -/
def State.settleUnit (s : State) (kind unit : Nat) : State :=
  s.updMgmt (fun m => { m with
    due := m.due.filter (fun d => d != (kind, unit))
    errors := m.errors.filter (fun e => e.1 != kind || e.2.1 != unit) })

/-- Adds a unit to its retirement list, of at most n units; a full list raises event 0x84 (R407). -/
def State.listUnit (s : State) (kind unit : Nat) : State :=
  let add := fun (l : List Nat) (n : Nat) (put : List Nat → Mgmt → Mgmt) =>
    if l.contains unit then s
    else if n ≤ l.length then s.event (moduleNote 0x84 0 0)
    else s.updMgmt (put (l ++ [unit]))
  match kind with
  | 0 => add s.mgmt.badFrames 4096 (fun l m => { m with badFrames := l })
  | 1 => add s.mgmt.badCores 64 (fun l m => { m with badCores := l })
  | _ => add s.mgmt.badClusters 8 (fun l m => { m with badClusters := l })

/-- The contexts' leaves that map a frame of device memory. -/
def State.mappings (s : State) (frame : Nat) : List (Nat × LeafAt) :=
  (List.range 16).flatMap (fun i =>
    let x := s.fw.contexts.at' i
    if x.valid then ((leavesFrom s.mem 4 0 x.root 0).filter (fun l =>
      l.e.tgt == 0 && decide (l.e.addr ≤ frame) && decide (frame < l.e.addr + levelBytes l.lvl))).map (fun l => (i, l))
    else [])

/-- RETIRING A FRAME in hardware mode (R408): a mapped frame is copied to one of the mapping context's pool, remapped and
invalidated first; tables that this takes stand at base. A full list retires nothing (R407). While an access to it is on
its way, or without a usable frame, nothing happens yet: the answer is whether the frame is dealt with. -/
def State.retireFrame (s : State) (old frame base : Nat) : State × Bool :=
  let maps := s.mappings old
  let held := s.fw.objects.filter (fun o => o.frames.any (fun f => f.2.2 == old))
  let owner := ((maps.map (fun p => p.1)) ++ held.map (fun o => o.ctx)).headD 0
  if (maps.isEmpty && held.isEmpty) || s.mgmt.badFrames.contains old || 4096 ≤ s.mgmt.badFrames.length then
    (s.listUnit 0 old, true)
  else if !s.frameOk owner frame 65536 || base % 4096 != 0
      || s.reqs.any (fun r => decide (old ≤ r.addr) && decide (r.addr < old + 65536)) || !s.lists.isEmpty then (s, false)
  else
    let s1 := s.copyFrame old frame 65536
    let s2 := (maps.zipIdx).foldl (fun t p => t.splitLeaf p.1.2 old frame (base + 8192 * p.2)) s1
    let s3 := maps.foldl (fun t p =>
      t.dropTlb (fun u => u.inRange (s.fw.contexts.at' p.1).asid p.2.va (p.2.va + levelBytes p.2.lvl))) s2
    let s4 := s3.updFw (fun w => { w with objects := w.objects.map (fun o =>
      { o with frames := o.frames.map (fun f => if f.2.2 == old then (f.1, f.2.1, frame) else f) }) })
    (s4.listUnit 0 old, true)

/-- FRAME_RETIRE (R407, R408): a frame that reached its threshold; in host-assisted mode only the event is sent. -/
def execFrameRetire (old frame base : Nat) (s : State) : Host.Outcome State Fault Refusal :=
  if !s.mgmt.due.contains (0, old) then .next s
  else if s.mgmt.fnmode.getLsbD 2 then .next ((s.settleUnit 0 old).event (moduleNote 0x11 old 0))
  else
    let (s1, dealt) := s.retireFrame old frame base
    .next (if dealt then s1.settleUnit 0 old else s1)

end Sys2Proof.Machine
end

