-- ==== Sys2Proof/Machine/Sched.lean ====
section
/-! DEFINITION. From launch to issue: queues, slots, the distributor, binding, completion and pre-emption (spec/14,
R344-R364). -/
namespace Sys2Proof.Machine

/-- CL (R345). -/
def recCl (b : List (BitVec 8)) : Nat := fieldAt b 28 1
/-- PPC (R345). -/
def recPpc (b : List (BitVec 8)) : Nat := fieldAt b 29 1
/-- PT: priority tokens (R345). -/
def recTokens (b : List (BitVec 8)) : Nat := fieldAt b 31 1 % 8
/-- WAITPREV (R345). -/
def recWaitPrev (b : List (BitVec 8)) : Bool := bitAt (fieldAt b 43 1) 0

/-- The bindable slots of a physical cluster (R12, R353, R407). -/
def State.bindable (s : State) (cl : Nat) : List Nat :=
  let k := s.clusters.at' cl
  if !k.enabled || s.mgmt.badClusters.contains (slotUnit cl 0) then []
  else (List.range Config.slotsPerCluster).filter (fun j =>
    !k.badSlots.contains j && !s.mgmt.badCores.contains (slotUnit cl j))

/-- Whether a task holds a physical cluster (R353). -/
def State.taken (s : State) (cl : Nat) : Bool := s.fw.tasks.any (fun t => t.clusters.contains cl)

/-- The clusters of a context's partition with at least P bindable cores (R353, R367). -/
def State.suited (s : State) (ctx ppc : Nat) : List Nat :=
  (List.range 64).filter (fun cl => (s.fw.contexts.at' ctx).part.getLsbD cl && ppc ≤ (s.bindable cl).length)

/-- Whether clusters can serve n task clusters under the last rule (R82): with last signatures given, a cluster serves an
index whose signature it has; sigs are alternatives for every index. -/
def State.serves (s : State) (cls : List Nat) (n : Nat) (sigs fixed : List (BitVec 64)) : Bool :=
  let sigOf := fun (cl : Nat) => (s.clusters.at' cl).sig
  let ok := cls.filter (fun cl => sigs.isEmpty || sigs.contains (sigOf cl))
  decide (n ≤ ok.length) && fixed.all (fun x =>
    x == 0 || decide ((fixed.filter (fun y => y == x)).length ≤ (ok.filter (fun cl => sigOf cl == x)).length))

/-- The kernel that a handle names for a context (R345, R352). -/
def State.kernelOf (s : State) (ctx : Nat) (head : List (BitVec 8)) : Option (Obj × Nat) :=
  if fieldAt head 14 2 != 0 then none
  else match s.fw.objects.find? (fun o => o.id == fieldAt head 10 4 && o.ctx == ctx) with
    | some o => if fieldAt head 8 2 < objKernels o.bytes then some (o, fieldAt head 8 2) else none
    | none => none

/-- The last signatures of a record's kernel. -/
def State.recSigs (s : State) (ctx : Nat) (head : List (BitVec 8)) : List (BitVec 64) :=
  match s.kernelOf ctx head with
  | some (o, k) => kernSigs o.bytes (kernAt o.bytes k)
  | none => []

/-- BAD_RECORD (R352). -/
def recBad (b : List (BitVec 8)) : Bool :=
  let jobn := fieldAt b 48 4
  !rsv (fieldAt b 16 8) 63 52 || !rsv (fieldAt b 30 1) 7 4 || !rsv (fieldAt b 31 1) 7 3 || !rsv (fieldAt b 40 1) 7 2
    || !rsv (fieldAt b 41 1) 7 3 || !rsv (fieldAt b 42 1) 7 4 || !rsv (fieldAt b 43 1) 7 2 || !rsv jobn 31 20
    || (b.drop 52).any (fun x => x != 0)
    || !(1 ≤ recCl b && recCl b ≤ 56) || !(1 ≤ recPpc b && recPpc b ≤ 64) || decide (786432 < jobn)
    || (fieldAt b 44 4 == 0) != (jobn == 0)

/-- LAUNCH_SHAPE (R83). -/
def launchShape (k b : List (BitVec 8)) : Bool :=
  recCl b < fieldAt k 24 1 || fieldAt k 25 1 < recCl b || recPpc b < fieldAt k 26 1 || fieldAt k 27 1 < recPpc b
    || fieldAt k 28 4 < fieldAt b 24 4

/-- The first check of R352 that a record fails. -/
def State.bindError (s : State) (ctx : Nat) (b : List (BitVec 8)) : Option Nat :=
  if recBad b then some 0x21
  else match s.kernelOf ctx b with
    | none => some 0x20
    | some (o, k) =>
      let sigs := kernSigs o.bytes (kernAt o.bytes k)
      if launchShape (kernAt o.bytes k) b then some 0x05
      else if (s.suited ctx (recPpc b)).length < recCl b then some 0x24
      else if !s.serves ((List.range 64).filter (fun cl => (s.fw.contexts.at' ctx).part.getLsbD cl)) (recCl b) sigs [] then
        some 0x03
      else none

/-- What reading the record of a queue's head gives (R351). -/
inductive HeadRead where
  | got (bs : List (BitVec 8))
  | bad
  | hold (f : Fill)

/-- Reads the ring entry of launch CONSUMED + 1 (R344, R351). -/
def State.readHead (s : State) (q : Queue) : HeadRead :=
  match s.firmReach q.ctx .load ((q.ring + 128 * ((q.consumed + 1) % 2 ^ q.rlog)) % 2 ^ 52) 128 with
  | .ok as => if as.any s.poisoned then .bad else .got (as.map (readByte s.mem))
  | .fault _ => .bad
  | .hold f => if q.ringFail then .bad else .hold f

/-- Effective base priority p (R346). -/
def basePrio (pri : Nat) (bias : Int) : Nat := (min 15 (max 0 ((pri : Int) + bias))).toNat

/-- PRI of a queue's head; that of a record which cannot be read is an unspecified value. -/
def State.headPri (s : State) (q : Queue) : Nat :=
  match s.readHead q with
  | .got b => fieldAt b 30 1 % 16
  | _ => s.free (freeKey 23 0 q.qid) % 16

/-- Aged priority at this clk (R349). -/
def State.aged (s : State) (p since : Nat) : Nat := min 15 (p + (s.clk - since) / 2 ^ 16)

/-- The effective priority of a queue's head (R349). -/
def State.headPrio (s : State) (q : Queue) : Nat := s.aged (basePrio (s.headPri q) q.pbias) q.hready

/-- Whether the head of a mapped queue is ready (R349, R410). -/
def State.headReady (s : State) (q : Queue) : Bool :=
  q.consumed < q.subseen && !q.errstop && !q.resync && q.nrun < 64 && (match s.readHead q with
    | .got b => !recWaitPrev b || q.completed == q.consumed
    | .bad => true
    | .hold _ => false)

/-- A kick (R347, R349). -/
def State.kick (s : State) (qid seq : Nat) : State :=
  match s.getQueue qid with
  | none => s
  | some q =>
    if q.errstop || seq ≤ q.subseen then s
    else if q.consumed + 2 ^ q.rlog < seq then s.writeStatus (q.stop 0x22 seq) false
    else
      let q1 := { q with subseen := seq, hready := if q.subseen ≤ q.consumed then s.clk else q.hready }
      if q.slot.isSome then s.putQueue q1
      else
        let s1 := (s.putQueue { q1 with pend := true }).kickBit qid
        if s.mgmt.fnmode.getLsbD 1 && !s.fw.kickmap.contains qid then
          s1.event { moduleNote 0x10 qid (s.headPrio q1) with ctx := q.ctx, qid := qid }
        else s1

/-- KICK (R347). -/
def execKick (qid seq : Nat) (s : State) : Host.Outcome State Fault Refusal := .next (s.kick qid seq)

/-- Whether a selection of a queue still waits to be bound (R348). -/
def State.selectedOf (s : State) (qid : Nat) : Bool :=
  s.fw.selected.any (fun x => match x with
    | .launch q _ _ _ => q == qid
    | .saved _ => false)

/-- Whether a mapped queue is idle (R348). -/
def State.queueIdle (s : State) (q : Queue) : Bool := q.slot.isSome && q.subseen == q.consumed && !s.selectedOf q.qid

/-- The lowest free slot. -/
def State.freeSlot (s : State) : Option Nat :=
  (List.range 64).find? (fun k => !s.fw.queues.any (fun q => q.slot == some k))

/-- The first of a list by a strict order. -/
def firstBy {α : Type} (less : α → α → Bool) : List α → Option α
  | [] => none
  | x :: xs => match firstBy less xs with
    | some y => if less y x then some y else some x
    | none => some x

/-- The pending queue of a context to map next: the highest effective priority, then the lowest identifier (R348). -/
def State.bestPending (s : State) (ctx : Nat) : Option Queue :=
  firstBy (fun a b => s.headPrio b < s.headPrio a || (s.headPrio a == s.headPrio b && a.qid < b.qid))
    (s.queues.filter (fun q => q.ctx == ctx && q.slot.isNone && q.pend))

/-- Queues of a context that hold a slot. -/
def State.mappedOf (s : State) (ctx : Nat) : List Queue := s.queues.filter (fun q => q.ctx == ctx && q.slot.isSome)

/-- Step 2 of a wake (R348); fuel counts the slots. -/
def State.mapPending (s : State) (ctx : Nat) : Nat → State
  | 0 => s
  | n + 1 =>
    if (s.fw.contexts.at' ctx).quota ≤ (s.mappedOf ctx).length then s
    else match s.bestPending ctx, s.freeSlot with
      | some q, some k => (s.mapQueue q k).mapPending ctx n
      | _, _ => s

/-- Step 3 of a wake (R348): one swap. -/
def State.swapQueue (s : State) (ctx : Nat) : State :=
  let low := firstBy (fun (a b : Queue) => s.headPrio a < s.headPrio b || (s.headPrio a == s.headPrio b
      && (a.mappedAt < b.mappedAt || (a.mappedAt == b.mappedAt && a.slot.getD 0 < b.slot.getD 0)))) (s.mappedOf ctx)
  match s.bestPending ctx, low with
  | some q, some m => if s.headPrio m ≤ s.headPrio q then (s.unmapQueue m true).mapQueue q (m.slot.getD 0) else s
  | _, _ => s

/-- A wake of the queue-scheduler firmware for one context (R348). -/
def State.wakeCtx (s : State) (periodic : Bool) (ctx : Nat) : State :=
  let idle := (s.mappedOf ctx).filter s.queueIdle
  let s1 := (idle.foldl (fun t q => t.unmapQueue q false) s).mapPending ctx 64
  if periodic && idle.isEmpty then s1.swapQueue ctx else s1

/-- A wake (R348): in hardware mode the firmware maps and unmaps (R413). -/
def State.wake (s : State) (periodic : Bool) : State :=
  let s1 := if s.mgmt.fnmode.getLsbD 1 then s else (List.range 16).foldl (fun t c => t.wakeCtx periodic c) s
  s1.updFw (fun w => { w with roused := false, woke := s.clk + 1, ticked := if periodic then s.clk + 1 else w.ticked })

/-- QS_WAKE (R348): the kick bitmap has gained a bit, or a mapped queue has become idle. -/
def execQsWake (s : State) : Host.Outcome State Fault Refusal :=
  .next (if s.fw.roused || s.queues.any s.queueIdle then s.wake false else s)

/-- QS_PERIODIC_WAKE (R348): one wake at each multiple of 2^18 clk. -/
def execQsPeriodicWake (s : State) : Host.Outcome State Fault Refusal :=
  .next (if s.clk % 2 ^ 18 == 0 && s.fw.ticked != s.clk + 1 then s.wake true else s)

/-- A candidate of the distributor (R349, R364): its place in the round, context, effective priority, tokens, clusters and
cores per cluster, last signatures to choose among or fixed for each index, and whether it fits. -/
structure Cand where
  pos : Nat
  ctx : Nat
  eff : Nat
  tokens : Nat
  cl : Nat
  ppc : Nat
  sigs : List (BitVec 64)
  fixed : List (BitVec 64)
  fits : Bool
  deriving DecidableEq, Repr

/-- The candidate of a mapped queue. A cluster is free until a task is bound to it, also while a selection waits to be bound
(log entry 67). -/
def State.slotCand (s : State) (q : Queue) : Cand :=
  let b := match s.readHead q with
    | .got b => b
    | _ => []
  let sigs := s.recSigs q.ctx b
  let free := (s.suited q.ctx (recPpc b)).filter (fun cl => !s.taken cl)
  { pos := q.slot.getD 0, ctx := q.ctx, eff := s.headPrio q, tokens := recTokens b, cl := recCl b, ppc := recPpc b
    sigs := sigs, fixed := []
    fits := fieldAt b 0 8 != q.consumed + 1 || (s.bindError q.ctx b).isSome
      || s.serves free (recCl b) sigs [] }

/-- The saved tasks in the order in which their saves completed, with the clk of that (R364). -/
def State.resumeList (s : State) : List (Task × Nat) :=
  s.fw.tasks.filterMap (fun t => match t.stage with
    | .saved at' => if s.fw.selected.contains (.saved t.id) then none else some (t, at')
    | _ => none)

/-- The candidate of a saved task (R364): its place in the round is after the 64 slots, by the order of the saves. -/
def State.savedCand (s : State) (p : Task × Nat) : Cand :=
  let t := p.1
  let free := (s.suited t.ctx t.ppc).filter (fun cl => !s.taken cl)
  { pos := 64 + t.saveNo, ctx := t.ctx, eff := s.aged t.prio p.2, tokens := 0, cl := t.nclus, ppc := t.ppc, sigs := []
    fixed := t.lasts, fits := s.serves free t.nclus [] t.lasts }

/-- Every candidate of a selection (R349). -/
def State.cands (s : State) : List Cand :=
  ((s.queues.filter (fun q => q.slot.isSome && s.headReady q)).map s.slotCand)
    ++ s.resumeList.map s.savedCand

/-- Whether a place of the round comes before another: the round starts after the last winner's place (R349). -/
def State.roundLess (s : State) (a b : Nat) : Bool :=
  let wrapped := fun (p : Nat) => decide (p ≤ s.fw.winner)
  if wrapped a == wrapped b then a < b else wrapped b

/-- The order of candidates: effective priority, then the round (R349). -/
def State.candLess (s : State) (a b : Cand) : Bool := b.eff < a.eff || (a.eff == b.eff && s.roundLess a.pos b.pos)

/-- The head of a context with the highest effective priority (R350). -/
def State.topCand (s : State) (l : List Cand) (ctx : Nat) : Option Cand :=
  firstBy s.candLess (l.filter (fun c => c.ctx == ctx))

/-- E: the largest of the latest estimates of a task's cores (R317, R358). -/
def State.estimate (s : State) (t : Task) : Nat :=
  ((s.cores.filter (fun c => c.task == t.id)).map (fun c => c.estim.toNat)).foldl Nat.max 0

/-- Whether a core is in a level-4 scan group, or has a level-4 COLL in a channel (R204, R263). -/
def Core.levelFour (c : Core) : Bool :=
  (List.range 4).any (fun g => (c.scans.at' g).joined && bits (c.scans.at' g).scg.toNat 60 58 == 4)
    || (List.range 4).any (fun k => ((c.chans.at' k).queue ++ (c.chans.at' k).ending).any (fun x =>
      x.kind == .coll && x.lvl == 4))

/-- Whether a checkpoint of a task is allowed (R204, R263, R359). -/
def State.ckptOk (s : State) (t : Task) : Bool :=
  bitAt (fieldAt t.launch 40 1) 0 && !s.cores.any (fun c => c.task == t.id && c.levelFour)

/-- Whether a kill of a task is allowed (R359). -/
def Task.killOk (t : Task) : Bool := bitAt (fieldAt t.launch 40 1) 1

/-- The policies of R359. -/
inductive Policy where
  | drain | checkpoint | kill
  deriving DecidableEq, Repr

/-- The policy for a victim with estimate E and n cores, from T >= 1 (R358, R359). -/
def policyOf (tokens e n : Nat) (ckpt kill : Bool) : Policy :=
  if e ≤ 2 ^ (24 - 2 * tokens) then .drain
  else if ckpt && 5800 + 20 * n ≤ e then .checkpoint
  else if kill then .kill
  else .drain

/-- Commits the decision for a victim (R359). -/
def State.commitVictim (s : State) (tokens : Nat) (t : Task) : State :=
  let p := policyOf tokens (s.estimate t) (t.nclus * t.ppc) (s.ckptOk t) t.killOk
  s.updTask t.id (fun t => { t with stage := match p with
    | .drain => .draining s.clk
    | .checkpoint => .decided none
    | .kill => .decided (some 0x30) })

/-- Takes victims in order until a head fits with the clusters at hand; none if all together do not suffice (R359). -/
def takeVictims (fit : List Nat → Bool) : List Task → List Nat → Option (List Task)
  | [], cls => if fit cls then some [] else none
  | t :: ts, cls =>
    if fit cls then some [] else (takeVictims fit ts (cls ++ t.clusters)).map (fun l => t :: l)

/-- Inserts a task by ascending p and then latest binding (R359). -/
def insertTask (t : Task) : List Task → List Task
  | [] => [t]
  | u :: us => if t.prio < u.prio || (t.prio == u.prio && u.boundAt ≤ t.boundAt) then t :: u :: us else u :: insertTask t us

/-- The stages in which a task is already being pre-empted (R359). -/
def TaskStage.preempted : TaskStage → Bool
  | .draining _ => true
  | .decided _ => true
  | .stopping => true
  | .frozen _ => true
  | .aborted => true
  | _ => false

/-- PRE-EMPTION for a head that does not fit (R350, R359). -/
def State.preempt (s : State) (h : Cand) : State :=
  if h.tokens == 0 then s
  else
    let mine := s.fw.tasks.filter (fun t => t.ctx == h.ctx)
    let victims := (mine.filter (fun t => t.stage == .running && decide (t.prio < h.eff))).foldr insertTask []
    let ok := s.suited h.ctx h.ppc
    let at0 := ok.filter (fun cl => !s.taken cl || mine.any (fun t => t.stage.preempted && t.clusters.contains cl))
    let fit := fun (cls : List Nat) => s.serves (ok.filter (fun cl => cls.contains cl)) h.cl h.sigs h.fixed
    match takeVictims fit victims at0 with
    | some ts => ts.foldl (fun t v => t.commitVictim h.tokens v) s
    | none => s

/-- The candidates that may be selected: of a context whose top head does not fit and has reached 15, only heads that are
not below it (R350). -/
def State.selectable (s : State) (l : List Cand) : List Cand :=
  l.filter (fun c => c.fits && (match s.topCand l c.ctx with
    | some h => h.fits || h.eff < 15 || h.eff ≤ c.eff
    | none => true))

/-- COMMITTING A SELECTION of a mapped queue (R351). A selection that ends in an error of the ring is one as well: it is the
last winner, and the queue's previous selection (R349). -/
def State.commitHead (s : State) (q : Queue) : State :=
  let s1 := s.updFw (fun w => { w with winner := q.slot.getD 0 })
  let q1 := { q with hready := s.clk, ringFail := false }
  match s.readHead q with
  | .hold _ => s
  | .bad => s1.writeStatus (q1.stop 0x26 (q.consumed + 1)) false
  | .got b =>
    if fieldAt b 0 8 != q.consumed + 1 then s1.writeStatus (q1.stop 0x23 (q.consumed + 1)) false
    else
      let q2 := { q1 with consumed := q.consumed + 1, nrun := q.nrun + 1, head := b }
      let p := basePrio (fieldAt b 30 1 % 16) q.pbias
      (s1.updFw (fun w => { w with selected := w.selected ++ [.launch q.qid q2.consumed p b] })).writeStatus q2 false

/-- Records on pages that a fill must bring are asked for (R351). -/
def State.fetchRecords (s : State) : State :=
  s.queues.foldl (fun t q =>
    if q.slot.isNone || q.subseen ≤ q.consumed then t
    else match s.readHead q with
      | .hold f => (t.putQueue { q with ringWait := some f.va }).wantFill f
      | _ => t) s

/-- SELECTION (R349-R351, R359): pre-emption is decided for heads that do not fit, and the best head that may be selected
is committed. -/
def execSelection (s : State) : Host.Outcome State Fault Refusal :=
  let l := s.cands
  let s1 := (List.range 16).foldl (fun t ctx => match s.topCand l ctx with
    | some h => if h.fits then t else t.preempt h
    | none => t) s.fetchRecords
  match firstBy s.candLess (s.selectable l) with
  | none => .next s1
  | some c =>
    if 64 ≤ c.pos then
      match s.resumeList.find? (fun p => 64 + p.1.saveNo == c.pos) with
      | some p => .next (s1.updFw (fun w => { w with winner := c.pos, selected := w.selected ++ [.saved p.1.id] }))
      | none => .next s1
    else match s1.queues.find? (fun q => q.slot == some c.pos) with
      | some q => .next (s1.commitHead q)
      | none => .next s1

/-- A cluster is readied for a task of a context (R368): tiles and pool are zero where its previous task was another
context's, and unspecified where it was the same one's; its strips keep their programs, constants and tables, as they do
until the next WLOAD (R325), and its transpose units hold nothing. -/
def State.readyCluster (s : State) (ctx cl : Nat) : State :=
  let lo := windowBase + cl * 2 ^ 26
  let s1 := if (s.clusters.at' cl).lastCtx == some ctx then s.freeRange lo 0x3000000
    else { s with mem := eraseRange s.mem lo (lo + 0x3000000)
                  poison := s.poison.filter (fun g => 64 * g < lo || lo + 0x3000000 ≤ 64 * g) }
  s1.updCluster cl (fun k => { k with
    strips := RegFile.tab 4 (fun j => { (k.strips.at' j).restart with busyTo := 0 }), units := RegFile.fill 1 TransUnit.zero, closed := false, watch := s.clk
    tlb := [], pins := [] })

/-- Splits a binding's choice into cluster and slots: for each task cluster, the physical cluster and P slots. -/
def splitChoice (p : Nat) : Nat → List Nat → List (Nat × List Nat)
  | 0, _ => []
  | n + 1, l => (l.headD 64, (l.drop 1).take p) :: splitChoice p n (l.drop (1 + p))

/-- Whether a choice is one that R353 allows: distinct free clusters of the partition, bindable slots, the last rule. -/
def State.choiceOk (s : State) (ctx n ppc : Nat) (sigs fixed : List (BitVec 64)) (ch : List (Nat × List Nat)) : Bool :=
  ch.length == n && !hasDup (ch.map (fun p => p.1)) && (ch.zipIdx).all (fun p =>
    let cl := p.1.1
    let sig := (s.clusters.at' cl).sig
    decide (cl < 64) && (s.fw.contexts.at' ctx).part.getLsbD cl && !s.taken cl && p.1.2.length == ppc && !hasDup p.1.2
      && p.1.2.all (fun j => (s.bindable cl).contains j) && (sigs.isEmpty || sigs.contains sig)
      && (fixed.getD p.2 0 == 0 || fixed.getD p.2 0 == sig))

/-- The save area that the supervisor assigns to a task (R396): the spec gives no command that sets it, so where it lies
and its length are unspecified values. -/
def State.newArea (s : State) : Nat × Nat := (s.free (freeKey 24 0 0) % 2 ^ 52, s.free (freeKey 24 1 0) % 2 ^ 52)

/-- The cores of a new task (R353, R354). -/
def newCores (id : Nat) (entry n ppc : Nat) (head : List (BitVec 8)) (wlt : BitVec 64) (start : Bool) : List Core :=
  tabulate n (fun v =>
    { Core.start id v (BitVec.ofNat 52 entry) n (BitVec.ofNat 64 (fieldAt head 16 8)) (v % ppc) wlt
        (BitVec.ofNat 4 (fieldAt head 42 1)) (BitVec.ofNat 64 (fieldAt head 32 8)) with started := start })

/-- BIND (R352-R355, R368): the oldest selected launch is checked and bound. place names, for each task cluster in index
order, a physical cluster and P of its slots; until a choice that R353 allows is given, the launch waits. -/
def execBind (place : List Nat) (s : State) : Host.Outcome State Fault Refusal :=
  let isLaunch := fun (x : Selected) => match x with
    | .launch _ _ _ _ => true
    | .saved _ => false
  match s.fw.selected.find? isLaunch with
  | some (.launch qid seq prio head) =>
    match s.getQueue qid with
    | none => .next s
    | some q =>
      let s1 := s.updFw (fun w => { w with selected := w.selected.erase (.launch qid seq prio head) })
      match s.bindError q.ctx head with
      | some code => .next (s1.finishLaunch qid seq head (some code))
      | none =>
        match s.kernelOf q.ctx head with
        | none => .next s
        | some (o, k) =>
          let kern := kernAt o.bytes k
          let sigs := kernSigs o.bytes kern
          let ch := splitChoice (recPpc head) (recCl head) place
          if !s.choiceOk q.ctx (recCl head) (recPpc head) sigs [] ch then .next s
          else
            let cls := ch.map (fun p => p.1)
            let n := recCl head * recPpc head
            let alone := fieldAt head 44 4 == 0
            let x := s.fw.contexts.at' q.ctx
            let t : Task :=
              { id := s.fw.nextTask, ctx := q.ctx, qid := qid, lseq := seq, obj := o.id, kern := k, launch := head
                nclus := recCl head, ppc := recPpc head, clusters := cls, slots := ch.map (fun p => p.2)
                lasts := cls.map (fun cl => if sigs.isEmpty then 0 else (s.clusters.at' cl).sig), set := x, prio := prio
                late := 0, boundAt := s.clk, stage := if alone then .running else .peers, area := s.newArea
                frozeAt := 0, saveNo := 0, savedCores := [], savedWelt := [] }
            let s2 := cls.foldl (fun t cl => t.readyCluster q.ctx cl) s1
            let s3 := s2.updFw (fun w => { w with tasks := w.tasks ++ [t], nextTask := w.nextTask + 1 })
            let cores := newCores t.id (kernEntry o.bytes kern) n t.ppc head x.wlt alone
            .next { s3 with cores := s3.cores ++ cores }
  | _ => .next s

/-- PEER_JOB_START (R355): every package of a job has bound its peer task. -/
def execPeerJobStart (job : Nat) (s : State) : Host.Outcome State Fault Refusal :=
  let ids := (s.fw.tasks.filter (fun t => t.stage == .peers && fieldAt t.launch 44 4 == job)).map (fun t => t.id)
  let s1 := s.mapCores (fun c => ids.contains c.task) (fun c => { c with started := true })
  .next (s1.updFw (fun w => { w with tasks := w.tasks.map (fun t =>
    if ids.contains t.id then { t with stage := .running } else t) }))

/-- SHARE_REPORT (R307, R356): an exited core's copies are done, and its REDs and APPENDs performed. -/
def execShareReport (ci : Nat) (s : State) : Host.Outcome State Fault Refusal :=
  match s.core? ci with
  | none => .next s
  | some c =>
    let chans := (List.range 4).all (fun k => (c.chans.at' k).queue.isEmpty && (c.chans.at' k).ending.isEmpty)
    let sent := s.reqs.any (fun r => r.cores.contains c.key) || s.lists.any (fun r => r.core == c.key)
    if c.exited && chans && !sent && c.trapped.isNone then .next (s.updCore ci (fun c => { c with shared := true }))
    else .next s

/-- LAUNCH_COMPLETE (R356, R357, R394): every core of a task has reported its share. -/
def execLaunchComplete (t : Nat) (s : State) : Host.Outcome State Fault Refusal :=
  match s.task? t with
  | none => .next s
  | some x =>
    let cores := s.cores.filter (fun c => c.task == t)
    if cores.isEmpty || !cores.all (fun c => c.shared) || cores.any (fun c => c.freeze) then .next s
    else .next (s.completeTask x (if cores.any (fun c => c.killed) then some 0x31 else none))

/-- DRAIN_STOP_POINT (R360): a task past its stop point whose channels are empty is frozen. -/
def execDrainStopPoint (t : Nat) (s : State) : Host.Outcome State Fault Refusal :=
  match s.task? t with
  | none => .next s
  | some x =>
    let cores := s.cores.filter (fun c => c.task == t)
    if x.stage != .stopping || cores.any (fun c => (List.range 4).any (fun k => !(c.chans.at' k).empty)) then .next s
    else .next ((s.freezeTask x).updTask t (fun x => { x with stage := .frozen none }))

/-- DRAIN_LIMIT_EXPIRY (R360): a drain that has not stopped within the limit is decided again. -/
def execDrainLimitExpiry (t : Nat) (s : State) : Host.Outcome State Fault Refusal :=
  match s.task? t with
  | none => .next s
  | some x =>
    match x.stage with
    | .draining since =>
      if s.clk < since + x.set.drlim then .next s
      else if s.ckptOk x then .next (s.updTask t (fun x => { x with stage := .decided none }))
      else if x.killOk then .next (s.updTask t (fun x => { x with stage := .decided (some 0x30) }))
      else .next s
    | _ => .next s

/-- A core that froze at a YIELD for a checkpoint which is not made goes on (R315, R360). -/
def Core.unyield (c : Core) : Core := if c.trapped.isSome then { c with freeze := false } else c.resume

/-- CHECKPOINT (R361): every core of the victim freezes at once. A task that a checkpoint is no longer allowed for (R204,
R263) is killed where that is allowed, and drains otherwise, with the cores that had frozen at a YIELD (R359; log entry
80). -/
def execCheckpoint (t : Nat) (s : State) : Host.Outcome State Fault Refusal :=
  match s.task? t with
  | none => .next s
  | some x =>
    if x.stage == .decided none && !s.ckptOk x then
      if x.killOk then .next (s.updTask t (fun x => { x with stage := .decided (some 0x30) }))
      else .next ((s.mapCores (fun c => c.task == t && c.freeze) Core.unyield).updTask t (fun x => { x with
        stage := .draining s.clk }))
    else if x.stage == .decided none then .next ((s.freezeTask x).updTask t (fun x => { x with stage := .frozen none }))
    else .next s

/-- KILL (R362, R363). -/
def execKill (t : Nat) (s : State) : Host.Outcome State Fault Refusal :=
  match s.task? t with
  | none => .next s
  | some x =>
    match x.stage with
    | .decided (some code) => .next (s.endTask t code)
    | .frozen (some code) => .next (s.endTask t code)
    | _ => .next s

/-- RESUME_BIND (R364, R367, R368): a selected saved task takes clusters and waits for its image. -/
def execResumeBind (t : Nat) (place : List Nat) (s : State) : Host.Outcome State Fault Refusal :=
  match s.task? t with
  | none => .next s
  | some x =>
    let ch := splitChoice x.ppc x.nclus place
    if !s.fw.selected.contains (.saved t) || !s.choiceOk x.ctx x.nclus x.ppc [] x.lasts ch then .next s
    else
      let cls := ch.map (fun p => p.1)
      let s1 := s.updFw (fun w => { w with selected := w.selected.filter (fun y => y != .saved t) })
      let s2 := cls.foldl (fun u cl => u.readyCluster x.ctx cl) s1
      .next (s2.updTask t (fun x => { x with
        stage := .loading, clusters := cls, slots := ch.map (fun p => p.2), boundAt := s.clk
        set := s.fw.contexts.at' x.ctx }))

/-- The selections of a queue that wait to be bound complete with KILLED (R410, R412). -/
def State.killSelected (s : State) (qid : Nat) : State :=
  s.fw.selected.foldl (fun t x => match x with
    | .launch q seq prio b =>
      if q != qid then t
      else (t.updFw (fun w => { w with selected := w.selected.erase (.launch q seq prio b) })).finishLaunch qid seq b (some 0x30)
    | .saved _ => t) s

/-- The queue enters RESYNC (R410). -/
def State.enterResync (s : State) (q : Queue) : State :=
  (s.writeStatus { q with resync := true } false).raiseMsix q.msix

/-- Whether the queue keeps the invariants of R410. -/
def Queue.sound (q : Queue) : Bool :=
  let n := popCount 64 q.done.toNat + q.beyond.length
  decide (q.completed ≤ q.consumed) && decide (q.consumed ≤ q.subseen) && q.nrun + n == q.consumed - q.completed
    && (List.range 64).all (fun i => !q.done.getLsbD i || decide (i < q.nrun + n))

/-- A queue rebuilt from a status record (R410). -/
def Queue.rebuild (q : Queue) (b : List (BitVec 8)) : Queue :=
  let done := fieldAt b 48 8
  { q with
    subseen := fieldAt b 0 8, consumed := fieldAt b 8 8, completed := fieldAt b 16 8, done := BitVec.ofNat 64 done
    nrun := fieldAt b 8 8 - fieldAt b 16 8 - popCount 64 done, errcode := 0x25 }

/-- QUEUE_AUDIT (R410). The launches that a rebuilt queue has not completed are decided to be killed. -/
def execQueueAudit (qid : Nat) (s : State) : Host.Outcome State Fault Refusal :=
  match s.getQueue qid with
  | none => .next s
  | some q =>
    let mem := match s.firmReach q.ctx .load q.stva 64 with
      | .ok as => some (as.map (readByte s.mem))
      | _ => none
    if s.clk % 2 ^ 20 != 0 then .next s
    else if (List.range 256).any (fun i => s.poisoned (q.qcb + i)) then
      let s1 := s.enterResync ((if q.slot.isSome then q else (s.queue? qid).getD q).rebuild (mem.getD q.mirror))
      let mine := (s.fw.tasks.filter (fun t => t.qid == qid)).map (fun t => t.id)
      .next ((mine.foldl (fun t id => t.endTask id 0x30) s1).killSelected qid)
    else if !q.sound then .next (s.enterResync q)
    else if q.wseq != 0 && mem != some q.mirror && q.stWait.isNone then .next (s.writeStatus q false)
    else .next s

end Sys2Proof.Machine
end

