-- ==== Sys2Proof/Machine/Mailbox.lean ====
section
/-! DEFINITION. BAR writes and the mailbox commands for objects, queues, contexts, function modes, attestation, mapping,
retirement and duty (spec/21, R420-R424; spec/14, R344, R346; spec/15, R366, R367, R382, R386, R387; spec/16, R411-R415). -/
namespace Sys2Proof.Machine

/-- The doorbell (R423): the previous number plus one, while no command is incomplete. -/
def State.ring (s : State) (v : Nat) : State :=
  if s.mgmt.bell.isNone && v == s.mgmt.belldone + 1 then s.updMgmt (fun m => { m with bell := some v }) else s

/-- A write to BAR0 (R421, R423); those that the device ignores change nothing. -/
def State.barWrite (s : State) (off : Nat) (data : List (BitVec 8)) : State :=
  let whole := data.length == 8
  let v := leNat data
  if off < 0x10000000 then (if whole && off % 0x1000 == 0 then s.kick (off / 0x1000) v else s)
  else if off < 0x10400000 then s
  else if off < 0x10401000 then s.storeBytes (mailboxBase + (off - 0x10400000)) (data.take (0x10401000 - off))
  else if off == 0x10401000 && whole then s.ring v
  else if off == 0x10401018 && whole then s.updMgmt (fun m => { m with evcons := v })
  else if 0x10410000 ≤ off && off < 0x10418100 then
    s.storeBytes (msixBase + (off - 0x10410000)) (data.take (0x10418100 - off))
  else s

/-- A byte of the mirror of a queue (R421, R422): of the last status write (log entry 36); zero for an unregistered queue. -/
def State.mirrorByte (s : State) (off : Nat) : BitVec 8 :=
  match s.getQueue (off / 64) with
  | some q => q.mirror.getD (off % 64) 0
  | none => 0

/-- A byte that a host read of BAR0 returns (R421-R423): the status mirrors, the mailbox's buffers and registers and the
MSI-X table; kick pages and reserved space read as zero. -/
def State.barByte (s : State) (off : Nat) : BitVec 8 :=
  let reg := fun (v : Nat) => BitVec.ofNat 8 (v / 256 ^ (off % 8))
  if off < 0x10000000 then 0
  else if off < 0x10400000 then s.mirrorByte (off - 0x10000000)
  else if off < 0x10401000 then readByte s.mem (mailboxBase + (off - 0x10400000))
  else if off < 0x10401008 then 0
  else if off < 0x10401010 then reg s.mgmt.belldone
  else if off < 0x10401018 then reg (if s.mgmt.ready then 1 else 0)
  else if off < 0x10401020 then reg s.mgmt.evcons
  else if 0x10410000 ≤ off && off < 0x10418100 then readByte s.mem (msixBase + (off - 0x10410000))
  else 0

/-- What a host read of n bytes of BAR0 returns (R421-R423); it changes nothing. -/
def State.barRead (s : State) (off n : Nat) : List (BitVec 8) := tabulate n (fun i => s.barByte (off + i))

/-- EVCONS (R393, R423). -/
def execEvcons (v : Nat) (s : State) : Host.Outcome State Fault Refusal := .next (s.updMgmt (fun m => { m with evcons := v }))

/-- Whether a BAR write is one that the device ignores (R421, R423). -/
def State.barIgnored (s : State) (off : Nat) (data : List (BitVec 8)) : Bool :=
  let whole := data.length == 8
  if off < 0x10000000 then !(whole && off % 0x1000 == 0)
  else if off < 0x10400000 then true
  else if off < 0x10401000 then false
  else if off == 0x10401000 && whole then !(s.mgmt.bell.isNone && leNat data == s.mgmt.belldone + 1)
  else if off == 0x10401018 && whole then false
  else !(0x10410000 ≤ off && off < 0x10418100)

/-- REGISTER_WRITE_IGNORED (R421, R423): the write has no effect; one that the device does not ignore is none of this
row's. -/
def execRegisterWriteIgnored (off : Nat) (data : List (BitVec 8)) (s : State) : Host.Outcome State Fault Refusal :=
  .next (if s.barIgnored off data then s.barWrite off data else s)

/-- HOST_POSTED_WRITE (R234, R403, R420): at most 512 bytes into device memory or a BAR page; a poisoned write leaves its
bytes poisoned, and what one to a BAR page, which has no mark, gives the device is not specified (log entry 68). -/
def execHostPostedWrite (bar : Bool) (addr : Nat) (data : List (BitVec 8)) (poisoned : Bool) (s : State) :
    Host.Outcome State Fault Refusal :=
  if 512 < data.length then .next s
  else if bar then
    .next (s.barWrite addr (if poisoned then tabulate data.length (fun i => BitVec.ofNat 8 (s.free (freeKey 29 0 i))) else data))
  else if 2 ^ 39 < addr + data.length then .next s
  else
    let s1 := s.storeBytes addr data
    .next (if poisoned then iterate data.length (fun i t => t.mark (addr + i)) s1 else s1)

/-- UNSUPPORTED_REQUEST (R420): the request is completed as Unsupported Request, and nothing else happens. -/
def execUnsupportedRequest (_kind : Nat) (s : State) : Host.Outcome State Fault Refusal :=
  .next (s.updMgmt (fun m => { m with urs := m.urs + 1 }))

/-- The leaf that the loader writes for a section of a kind (R386); HOME is the die of the frame's stack. -/
def sectLeaf (kind frame : Nat) : Nat :=
  2 ^ 63 + 2 ^ 62 + 2 ^ 61 + (if kind == 2 then 2 ^ 60 else 0) + (if kind == 1 then 2 ^ 59 else 0)
    + frame / 2 ^ 36 % 8 * 2 ^ 52 + frame

/-- Maps one 64 KiB page from a table of a level, making tables at a free place where none stands; none where the VA is
mapped otherwise. Answers the state and the next free place. -/
def State.mapFrom (va leaf : Nat) : Nat → Nat → Nat → Nat → State → Option (State × Nat)
  | 0, _, _, _, _ => none
  | k + 1, lvl, tab, room, s =>
    let pa := tab + 8 * levelIndex lvl va
    let e : Pte := { raw := readNat s.mem pa 8 }
    if lvl == 3 then (if e.p || e.bk then none else some (s.storeNat pa 8 leaf, room))
    else if e.p && !e.leaf && !e.malformed lvl then State.mapFrom va leaf k (lvl + 1) e.addr room s
    else if e.p || e.bk then none
    else
      let s1 := s.writeTable room 512 (fun _ => 0)
      State.mapFrom va leaf k (lvl + 1) room (room + 4096) (s1.storeNat pa 8 (tablePointer room))

/-- Maps consecutive pages to consecutive frames. -/
def State.mapPages (root kind : Nat) : Nat → Nat → Nat → Nat → State → Option (State × Nat)
  | 0, _, _, room, s => some (s, room)
  | n + 1, va, frame, room, s =>
    match State.mapFrom va (sectLeaf kind frame) 4 0 root room s with
    | some (s1, room1) => State.mapPages root kind n (va + 65536) (frame + 65536) room1 s1
    | none => none

/-- Pages of a section. -/
def sectPages (e : List (BitVec 8)) : Nat := ceilDiv (sectSize e) 65536

/-- The sections that are mapped, each with the first of its frames, from a place on. -/
def placeSects (b : List (BitVec 8)) : List (Nat × List (BitVec 8)) → Nat → List (Nat × List (BitVec 8) × Nat)
  | [], _ => []
  | (i, e) :: rest, at' => if mapped e then (i, e, at') :: placeSects b rest (at' + 65536 * sectPages e) else placeSects b rest at'

/-- The pages of an object's sections: VA, section, frame. -/
def sectFrames (l : List (Nat × List (BitVec 8) × Nat)) : List (Nat × Nat × Nat) :=
  l.flatMap (fun p => tabulate (sectPages p.2.1) (fun k => (sectVa p.2.1 + 65536 * k, p.1, p.2.2 + 65536 * k)))

/-- Maps the sections of an object and loads their bytes (R386): lasts share the mapping of the first (R80). -/
def State.loadSects (b : List (BitVec 8)) (root : Nat) : List (Nat × List (BitVec 8) × Nat) → List Nat → Nat → State → Option State
  | [], _, _, s => some s
  | (_, e, frame) :: rest, vas, room, s =>
    let n := 65536 * sectPages e
    let s0 := { s with
      mem := eraseRange s.mem frame (frame + n)
      poison := s.poison.filter (fun g => 64 * g < frame || frame + n ≤ 64 * g) }
    let s1 := s0.storeBytes frame ((b.drop (sectOff e)).take (sectSize e))
    if vas.contains (sectVa e) then State.loadSects b root rest vas room s1
    else match State.mapPages root (sectKind e) (sectPages e) (sectVa e) frame room s1 with
      | some (s2, room2) => State.loadSects b root rest (sectVa e :: vas) room2 s2
      | none => none

/-- Whether a section of an object would meet a mapping of another object of the context (R386). -/
def State.objClash (s : State) (ctx : Nat) (b : List (BitVec 8)) : Bool :=
  s.fw.objects.any (fun o => o.ctx == ctx && (objSects o.bytes).any (fun x => (objSects b).any (fun y =>
    mapped x.2 && mapped y.2 && pagesMeet (sectVa x.2) (sectSize x.2) (sectVa y.2) (sectSize y.2))))

/-- The body of command 0x01 (R83, R84, R386): frames and tables are taken from base on. -/
def registerBody (base : Nat) (p : List (BitVec 8)) (s : State) : CmdRes :=
  let cno := fieldAt p 0 1
  let pa := fieldAt p 8 8
  let len := fieldAt p 16 8
  let ref := fieldAt p 24 8
  let x := s.fw.contexts.at' cno
  if 16 ≤ cno || !x.valid then .refuse 3 s
  else if 2 ^ 48 < pa + len || 2 ^ 48 < ref + 4096 then .refuse 5 s
  else
    let b := readBytes s.mem (hostBase + pa) len
    match objRefusal b (s.objClash cno b) with
    | some r => .refuse 6 (s.storeBytes (hostBase + ref) r)
    | none =>
      let l := placeSects b (objSects b) base
      let frames := sectFrames l
      let room := base + 65536 * frames.length
      if base % 65536 != 0 || 2 ^ 39 < room + 12288 * frames.length || frames.any (fun f => s.mgmt.badFrames.contains f.2.2) then
        .wait s
      else match State.loadSects b x.root l [] room s with
        | none => .refuse 4 s
        | some s1 =>
          let o : Obj := { id := s.fw.nextObj % 2 ^ 32, ctx := cno, bytes := b, frames := frames }
          .done (leBytes 4 o.id) (s1.updFw (fun w => { w with objects := w.objects ++ [o], nextObj := w.nextObj + 1 }))

/-- REGISTER_OBJECT (R83, R84, R386). base is where the firmware takes frames and tables; while it names none that it may
use, the command waits. -/
def execRegisterObject (base : Nat) (s : State) : Host.Outcome State Fault Refusal :=
  s.command 0x01 32 [(1, 7)] anyPayload (registerBody base)

/-- Whether an object is in use: a task of it is bound or saved, or a launch of it is selected (R387). -/
def State.objUsed (s : State) (o : Obj) : Bool :=
  s.fw.tasks.any (fun t => t.obj == o.id) || s.fw.selected.any (fun x => match x with
    | .launch q _ _ b => match s.getQueue q with
      | some q => q.ctx == o.ctx && ((s.kernelOf q.ctx b).map (fun k => k.1.id)) == some o.id
      | none => false
    | .saved _ => false)

/-- DEREGISTER_OBJECT (R379, R387): the entries are cleared and invalidated, and the command completes once no access
through them is on its way. -/
def execDeregisterObject (s : State) : Host.Outcome State Fault Refusal :=
  s.command 0x02 8 [(4, 4)] anyPayload (fun p s =>
    match s.fw.objects.find? (fun o => o.id == fieldAt p 0 4) with
    | none => .refuse 3 s
    | some o =>
      let x := s.fw.contexts.at' o.ctx
      let vas := (o.frames.map (fun f => f.1)).eraseDups
      if s.objUsed o then .refuse 4 s
      else if vas.any (fun va => s.inFlight x.asid va (va + 65536)) then .wait s
      else
        let s1 := vas.foldl (fun t va => match leafPlace t.mem va 4 0 x.root with
          | some pa => t.storeNat pa 8 0
          | none => t) s
        let s2 := s1.dropTlb (fun t => vas.any (fun va => t.inRange x.asid va (va + 65536)))
        .done [] (s2.updFw (fun w => { w with objects := w.objects.filter (fun q => q.id != o.id) })))

/-- A queue as registered (R344). -/
def newQueue (qid ctx rlog msix ring stva qcb : Nat) : Queue :=
  { qid := qid, ctx := ctx, ring := ring, stva := stva, rlog := rlog, msix := msix, qcb := qcb, pend := false, slot := none
    mappedAt := 0, errstop := false, resync := false, pbias := 0, subseen := 0, consumed := 0, completed := 0, errseq := 0
    errcode := 0, hready := 0, nrun := 0, done := 0, head := [], beyond := [], wseq := 0, mirror := tabulate 64 (fun _ => 0)
    stWait := none, owedIrq := false, ringWait := none, ringFail := false }

/-- REGISTER_QUEUE (R344, R424, R425): a registration that it replaces is unmapped first. -/
def execRegisterQueue (s : State) : Host.Outcome State Fault Refusal :=
  s.command 0x03 32 [(6, 2)] anyPayload (fun p s =>
    let qid := fieldAt p 0 2
    let cno := fieldAt p 2 1
    let q := newQueue qid cno (fieldAt p 3 1) (fieldAt p 4 2) (fieldAt p 8 8) (fieldAt p 16 8) (fieldAt p 24 8)
    if 16 ≤ cno || !(s.fw.contexts.at' cno).valid then .refuse 3 s
    else if !(1 ≤ q.rlog && q.rlog ≤ 16) || !(1 ≤ q.msix && q.msix ≤ 2047) || 2 ^ 52 ≤ q.ring || 2 ^ 52 ≤ q.stva
        || 2 ^ 39 < q.qcb + 256 then .refuse 5 s
    else if (match s.getQueue qid with
        | some o => o.nrun != 0 || s.selectedOf qid || s.fw.tasks.any (fun t => t.qid == qid)
        | none => false) then .refuse 4 s
    else
      let s0 := match s.getQueue qid with
        | some o => if o.slot.isSome then s.unmapQueue o false else s
        | none => s
      .done [] ((s0.updFw (fun w => { w with
        queues := w.queues.filter (fun o => o.qid != qid) ++ [q], kickmap := w.kickmap.filter (fun o => o != qid) })).putQueue q))

/-- SET_PBIAS (R346). -/
def execSetPbias (s : State) : Host.Outcome State Fault Refusal :=
  s.command 0x04 8 [(3, 5)] anyPayload (fun p s =>
    let v := toSigned 8 (fieldAt p 2 1)
    match s.getQueue (fieldAt p 0 2) with
    | none => .refuse 3 s
    | some q => if v < -15 || 15 < v then .refuse 5 s else .done [] (s.putQueue { q with pbias := v }))

/-- A context descriptor from its 128 bytes (R366). -/
def contextOf (d : List (BitVec 8)) : Context :=
  { valid := bitAt (fieldAt d 2 1) 0, asid := fieldAt d 0 2, quota := fieldAt d 3 1, root := fieldAt d 8 8
    part := BitVec.ofNat 64 (fieldAt d 16 8), spva := fieldAt d 24 8, splen := fieldAt d 32 8, wdog := fieldAt d 40 4
    splim := fieldAt d 44 4, drlim := fieldAt d 48 8, wlt := BitVec.ofNat 64 (fieldAt d 56 8), fpool := fieldAt d 64 8 }

/-- Whether a descriptor's values are in range (R338, R348, R365, R366): no ASID of another context, and quotas of 64 at
most. -/
def State.contextRange (s : State) (n : Nat) (x : Context) : Bool :=
  let others := ((List.range 16).filter (fun i => i != n && (s.fw.contexts.at' i).valid)).map s.fw.contexts.at'
  1 ≤ x.asid && !others.any (fun o => o.asid == x.asid) && 1 ≤ x.quota
    && x.quota + (others.map (fun o => o.quota)).sum ≤ 64 && x.root % 65536 == 0 && x.root < 2 ^ 39
    && 256 ≤ x.wdog && x.wdog ≤ 2 ^ 20 && x.splim ≤ 65536 && 2 ^ 20 ≤ x.drlim && x.drlim ≤ 2 ^ 40

/-- Whether a PART mask may be written (R367). -/
def State.partOk (s : State) (n : Nat) (part : BitVec 64) : Bool :=
  let old := (s.fw.contexts.at' n).part
  (List.range 64).all (fun cl =>
    let now := part.getLsbD cl
    (!now || ((s.clusters.at' cl).enabled && !s.mgmt.badClusters.contains (slotUnit cl 0)
        && (List.range 16).all (fun i => i == n || !(s.fw.contexts.at' i).valid || !(s.fw.contexts.at' i).part.getLsbD cl)))
      && (now || !old.getLsbD cl || !s.fw.tasks.any (fun t => t.ctx == n && t.clusters.contains cl)))

/-- SET_CONTEXT_DESCRIPTOR (R338, R365-R367); an old ASID is invalidated in whole. -/
def execSetContextDescriptor (s : State) : Host.Outcome State Fault Refusal :=
  s.command 0x05 136 [(2, 6)] (fun p => fieldAt p 1 1 != 1) (fun p s =>
    let n := fieldAt p 0 1
    let d := p.drop 8
    let x := contextOf d
    let old := s.fw.contexts.at' n
    let tasks := s.fw.tasks.any (fun t => t.ctx == n)
    if 16 ≤ n then .refuse 3 s
    else if 1 < fieldAt p 1 1 then .refuse 5 s
    else if !rsv (fieldAt d 2 1) 7 1 || fieldAt d 4 4 != 0 || !rsv (fieldAt d 8 8) 63 39 || (d.drop 72).any (fun b => b != 0) then
      .refuse 1 s
    else if x.valid && !s.contextRange n x then .refuse 5 s
    else if (tasks && (x.asid != old.asid || x.root != old.root || !x.valid)) || !s.partOk n x.part then .refuse 4 s
    else
      let s1 := s.updCtx n (fun _ => x)
      .done [] (if x.asid == old.asid && x.root == old.root then s1 else s1.dropTlb (fun t => t.asid == old.asid)))

/-- Whether a time-share table is one that the device accepts (R382). -/
def tableOk (d : List (BitVec 8)) : Bool :=
  let shares := tabulate 72 (fun i => fieldAt d i 1 % 128)
  decide (shares.sum ≤ 64) && (List.range 9).all (fun r => fieldAt d (8 * r + 7) 1 == 0)

/-- SET_TIME_SHARE_TABLE (R382): the new table waits for the next window boundary. -/
def execSetTimeShareTable (s : State) : Host.Outcome State Fault Refusal :=
  s.command 0x05 136 [(2, 6), (80, 56)] (fun p => fieldAt p 1 1 == 1) (fun p s =>
    let d := p.drop 8
    if 16 ≤ fieldAt p 0 1 then .refuse 3 s
    else if !tableOk d then .refuse 5 s
    else .done [] (s.updFw (fun w => { w with table2 := RegFile.tab 7 (fun i =>
      if i < 72 then BitVec.ofNat 8 (fieldAt d i 1) else 0) })))

/-- SUBSEEN of a queue is set by a command (R411, R412): as by a kick, the head becomes ready where it was not, and an
unmapped queue becomes pending. -/
def State.setSeen (s : State) (q : Queue) (n : Nat) : Queue × State :=
  let q1 := { q with subseen := n, hready := if q.subseen ≤ q.consumed && q.consumed < n then s.clk else q.hready }
  let want := q1.consumed < q1.subseen
  if q.slot.isSome then (q1, s)
  else ({ q1 with pend := want },
    if want then s.kickBit q.qid else s.updFw (fun w => { w with kickmap := w.kickmap.filter (fun x => x != q.qid) }))

/-- RESYNC (R411). -/
def execResync (s : State) : Host.Outcome State Fault Refusal :=
  s.command 0x08 16 [(2, 6)] anyPayload (fun p s =>
    let h := fieldAt p 8 8
    match s.getQueue (fieldAt p 0 2) with
    | none => .refuse 3 s
    | some q =>
      if q.consumed + 2 ^ q.rlog < h then .refuse 5 s
      else
        let r := s.setSeen q (Nat.max h q.consumed)
        let s1 := r.2.writeStatus { r.1 with errstop := false, resync := false } false
        .done (((s1.queue? q.qid).map (fun x => x.mirror)).getD []) s1)

/-- The launches of a queue that the command QRESET finds are killed, and SUBSEEN falls to CONSUMED (R363, R412). -/
def State.resetQueue (s : State) (qid : Nat) : State :=
  let mine := (s.fw.tasks.filter (fun t => t.qid == qid)).map (fun t => t.id)
  let s1 := (mine.foldl (fun t id => t.endTask id 0x30) s).killSelected qid
  let s2 := match s1.getQueue qid with
    | none => s1
    | some q =>
      let r := s1.setSeen q q.consumed
      r.2.putQueue r.1
  s2.updMgmt (fun m => { m with killing := some mine })

/-- QRESET (R363, R412): the command kills every launch of the queue once, as it is taken, and completes once these have
completed and their status writes are made; a launch kicked meanwhile is none of them. -/
def execQreset (s : State) : Host.Outcome State Fault Refusal :=
  s.command 0x09 8 [(2, 6)] anyPayload (fun p s =>
    let qid := fieldAt p 0 2
    match s.getQueue qid with
    | none => .refuse 3 s
    | some _ =>
      let s1 := if s.mgmt.killing.isNone then s.resetQueue qid else s
      let left := s1.fw.tasks.any (fun t => (s1.mgmt.killing.getD []).contains t.id)
      if left || ((s1.getQueue qid).map (fun q => q.stWait.isSome)).getD false then .wait s1
      else .done [] (s1.updMgmt (fun m => { m with killing := none })))

/-- FNSET (R413, R424): each named bit takes its value at its quiescent point; a telemetry buffer is named. -/
def execFnset (s : State) : Host.Outcome State Fault Refusal :=
  s.command 0x0A 32 [] anyPayload (fun p s =>
    let mask := fieldAt p 0 8
    let val := fieldAt p 8 8
    let asked := ((List.range 5).filter (fun b => bitAt mask b)).map (fun b => (b, bitAt val b))
    if 32 ≤ mask then .refuse 5 s
    else .done [] (s.updMgmt (fun m => { m with
      fnreq := m.fnreq.filter (fun r => !bitAt mask r.1) ++ asked
      telpa := if fieldAt p 16 8 == 0 then m.telpa else fieldAt p 16 8
      tellen := if fieldAt p 16 8 == 0 then m.tellen else fieldAt p 24 8 })))

/-- Whether a function is at its quiescent point (R413). -/
def State.quiescent (s : State) (b : Nat) : Bool :=
  match b with
  | 0 => !s.fw.fills.any (fun f => f.started) && !s.cores.any (fun c => !c.killed && (match c.trapped with
      | some h => (h.info.cause == 4 && h.info.detail == 0) || (h.info.cause == 5 && h.info.detail == 4) || c.cowFaults.isSome
      | none => false))
  | 1 => s.fw.woke == s.clk + 1
  | 2 => s.mgmt.due.isEmpty && (s.mgmt.bell.isNone || readNat s.mem mailboxBase 1 != 0x0E)
  | 3 => s.clk % 4096 == 0
  | 4 => s.clk % 2 ^ 30 == 0
  | _ => true

/-- FNMODE_APPLY (R413): a requested bit takes effect and event 0x20 says so; queues that are pending as the host takes
over their mapping are reported to it. -/
def execFnmodeApply (b : Nat) (s : State) : Host.Outcome State Fault Refusal :=
  match s.mgmt.fnreq.find? (fun r => r.1 == b) with
  | none => .next s
  | some (_, v) =>
    if !s.quiescent b then .next s
    else
      let mode := if v then s.mgmt.fnmode ||| (1#64 <<< b) else s.mgmt.fnmode &&& ~~~(1#64 <<< b)
      let s1 := s.updMgmt (fun m => { m with fnmode := mode, fnreq := m.fnreq.filter (fun r => r.1 != b) })
      let s2 := s1.event (moduleNote 0x20 mode.toNat b)
      .next (if b == 1 && v && !s.mgmt.fnmode.getLsbD 1 then
        (s.queues.filter (fun q => q.slot.isNone && q.pend)).foldl (fun t q =>
          t.event { moduleNote 0x10 q.qid (s.headPrio q) with ctx := q.ctx, qid := q.qid }) s2
        else s2)

/-- The report of R415 before its signature. -/
def State.report' (s : State) (nonce : List (BitVec 8)) : List (BitVec 8) :=
  let m := s.mgmt
  let dig := fun (l : List Nat) => tabulate 32 (fun i => (Config.listDigest l).getD i 0)
  nonce ++ leBytes 4 m.pkg.toNat ++ leBytes 4 Config.securityVersion.toNat
    ++ (List.range 8).flatMap (fun i => leBytes 32 (m.msm.at' i).toNat) ++ leBytes 8 m.fnmode.toNat
    ++ dig (m.badCores ++ m.badClusters ++ m.badFrames) ++ dig m.fuses ++ leBytes 16 0

/-- ATTEST (R415): the report and its signature go to host memory; it runs before READY too. -/
def execAttest (s : State) : Host.Outcome State Fault Refusal :=
  s.command 0x0B 40 [] anyPayload (fun p s =>
    let dst := fieldAt p 32 8
    let rep := s.report' (p.take 32)
    let sig := Config.signature (shake256 rep)
    if 2 ^ 48 < dst + 3693 then .refuse 5 s
    else .done (leBytes 4 3693) (s.storeBytes (hostBase + dst) (rep ++ tabulate 3309 (fun i => sig.getD i 0))))

/-- EVRING (R393): later events go to the new ring; numbering and EVCONS go on. -/
def execEvring (s : State) : Host.Outcome State Fault Refusal :=
  s.command 0x0C 16 [(9, 7)] anyPayload (fun p s =>
    let pa := fieldAt p 0 8
    let elog := fieldAt p 8 1
    if pa % 4096 != 0 || 2 ^ 48 < pa + 64 * 2 ^ elog || elog < 4 || 16 < elog then .refuse 5 s
    else .done [] (s.updMgmt (fun m => { m with evring := some (pa, elog) })))

/-- MAPQ (R348, R413, R424): in host-assisted mapping, a queue is mapped into a slot or unmapped. -/
def execMapq (s : State) : Host.Outcome State Fault Refusal :=
  s.command 0x0D 8 [(3, 5)] anyPayload (fun p s =>
    let slot := fieldAt p 2 1
    if !s.mgmt.fnmode.getLsbD 1 then .refuse 2 s
    else match s.getQueue (fieldAt p 0 2) with
      | none => .refuse 3 s
      | some q =>
        let out := if q.slot.isSome then s.unmapQueue q (decide (q.consumed < q.subseen)) else s
        if slot == 0xFF then .done [] out
        else if 64 ≤ slot then .refuse 5 s
        else if s.fw.queues.any (fun o => o.qid != q.qid && o.slot == some slot) then .refuse 4 s
        else .done [] (out.mapQueue { q with slot := none } slot))

/-- Whether a unit of RETIRE exists (R424). -/
def unitOk (kind unit : Nat) : Bool :=
  match kind with
  | 0 => unit % 65536 == 0 && decide (unit < 2 ^ 39)
  | 1 => decide (unit < 2 ^ 19) && bits unit 15 8 < 8 && bits unit 7 0 < Config.slotsPerCluster
  | _ => decide (unit < 2 ^ 19) && bits unit 15 8 < 8

/-- RETIRE (R407, R408, R424): the unit joins its list; a frame in hardware mode is first moved to another frame, with
tables at base. -/
def execRetire (frame base : Nat) (s : State) : Host.Outcome State Fault Refusal :=
  s.command 0x0E 16 [(1, 7)] anyPayload (fun p s =>
    let kind := fieldAt p 0 1
    let unit := fieldAt p 8 8
    if 2 < kind || !unitOk kind unit then .refuse 5 s
    else if kind != 0 then
      let u := if kind == 2 then unit / 256 * 256 else unit
      .done [] ((s.settleUnit kind u).listUnit kind u)
    else if s.mgmt.fnmode.getLsbD 2 then .done [] ((s.settleUnit 0 unit).listUnit 0 unit)
    else
      let (s1, dealt) := s.retireFrame unit frame base
      if dealt then .done [] (s1.settleUnit 0 unit) else .wait s1)

/-- SETDUTY (R385, R413, R424): in host-assisted power capping, a die's duty from the next window on. -/
def execSetduty (s : State) : Host.Outcome State Fault Refusal :=
  s.command 0x0F 8 [(2, 6)] anyPayload (fun p s =>
    let die := fieldAt p 0 1
    let d := fieldAt p 1 1
    if !s.mgmt.fnmode.getLsbD 3 then .refuse 2 s
    else if 8 ≤ die || d < 16 || 64 < d then .refuse 5 s
    else .done [] { s with dies := s.dies.put die { s.dies.at' die with duty2 := d } })

/-- UNKNOWN_COMMAND (R423, R428): a code without a command, or any but ATTEST before READY, is answered REFUSED. -/
def execUnknownCommand (s : State) : Host.Outcome State Fault Refusal :=
  match s.mgmt.bell with
  | none => .next s
  | some n =>
    let hd := readBytes s.mem mailboxBase 16
    let code := fieldAt hd 0 1
    if (1 ≤ code && code ≤ 0x10) && (s.mgmt.ready || code == 0x0B) then .next s
    else .next (s.respond n 1 0 (fieldAt hd 8 8) [])

end Sys2Proof.Machine
end

