-- ==== Sys2Proof/Machine/Module.lean ====
section
/-! DEFINITION. The module as a whole: windows of the time shares, power, heat, telemetry, cold and function-level reset,
retirement, failures, scrubbing and what arrives from other packages (spec/15, R383, R385; spec/16, R405-R407, R413, R414;
spec/21, R427-R429; spec/10, R238). -/
namespace Sys2Proof.Machine

/-- Changes every die. -/
def State.mapDies (s : State) (f : Nat → Die → Die) : State :=
  { s with dies := RegFile.tab 3 (fun i => f i (s.dies.at' i)) }

/-- SHARE_WINDOW (R382, R383, R385): at a boundary of the windows of 4,096 clk, a new table and new duties take effect. -/
def execShareWindow (s : State) : Host.Outcome State Fault Refusal :=
  if s.clk % Config.windowClk != 0 then .next s
  else .next ((s.mapDies (fun _ d => { d with duty := d.duty2 })).updFw (fun w => { w with table := w.table2 }))

/-- Whether a list gives every die an issue duty (R385). -/
def dutiesOk (l : List Nat) : Bool := l.length == Config.dies && l.all (fun d => decide (16 ≤ d) && decide (d ≤ 64))

/-- The power manager's duty for a die: one that is hot is not raised, over its present duty or the next (R427). -/
def State.newDuty (s : State) (duties : List Nat) (i : Nat) (d : Die) : Nat :=
  let x := duties.getD i 64
  if bitAt s.mgmt.hot i then Nat.min x (Nat.min d.duty d.duty2) else x

/-- A die's duty as the power manager lowers it on its own (R413): never raised, nor is the next. -/
def lowDuties (duties : List Nat) (i : Nat) (d : Die) : Die :=
  { d with duty := Nat.min d.duty (duties.getD i 64), duty2 := Nat.min d.duty2 (duties.getD i 64) }

/-- The lowest duty among the dies (R393). -/
def State.lowDuty (s : State) : Nat := (tabulate 8 (fun i => (s.dies.at' i).duty)).foldl Nat.min 64

/-- Whether new duties reduce the module's issue: no die's rises, and one falls unless all are at their least (R25). -/
def State.reduces (s : State) (new : Nat → Die → Nat) : Bool :=
  let l := tabulate Config.dies (fun i => ((s.dies.at' i).duty, new i (s.dies.at' i)))
  l.all (fun p => decide (p.2 ≤ p.1)) && (l.any (fun p => decide (p.2 < p.1)) || l.all (fun p => p.1 == 16))

/-- POWER_CAP_ADJUST (R25, R385, R413): at a window boundary the power manager sets the duties from the measured power;
above the cap it takes only duties that reduce issue, and by how much is not specified. In host-assisted mode it acts once
the measured power has exceeded the cap for 2^20 clk: it then lowers duties, and reports event 0x12. -/
def execPowerCapAdjust (watts : Nat) (duties : List Nat) (s : State) : Host.Outcome State Fault Refusal :=
  if s.clk % Config.windowClk != 0 || !dutiesOk duties then .next s
  else if !s.mgmt.fnmode.getLsbD 3 then
    if 4800 < watts && !s.reduces (s.newDuty duties) then .next s
    else .next (s.mapDies (fun i d => { d with duty := s.newDuty duties i d, duty2 := s.newDuty duties i d }))
  else if watts ≤ 4800 then .next (s.updMgmt (fun m => { m with overClk := 0 }))
  else if s.mgmt.overClk == 0 then .next (s.updMgmt (fun m => { m with overClk := s.clk + 1 }))
  else if s.clk + 1 < s.mgmt.overClk + 2 ^ 20 then .next s
  else if !s.reduces (fun i d => (lowDuties duties i d).duty) then .next s
  else
    let s1 := s.mapDies (lowDuties duties)
    .next ((s1.updMgmt (fun m => { m with overClk := 0 })).event (moduleNote 0x12 watts s1.lowDuty))

/-- The duty of a die at 95 degrees: below the present one, by an amount that is not specified, and 16 at the least (R385,
R427); the next duty rises over neither. -/
def State.cooler (s : State) (die : Nat) (d : Die) : Nat :=
  Nat.min d.duty2 (if d.duty ≤ 16 then 16 else 16 + s.free (freeKey 25 0 die) % (d.duty - 16))

/-- The module loses its supply, and every context with it (R406, R427). -/
def State.powerOff (s : State) : State := s.updMgmt (fun m => { m with powered := false })

/-- THERMAL_ACTION (R427): at 95 degrees the die's duty falls, by an amount that is not specified, until the temperature
falls; at 105 degrees every die's duty becomes 16, and at 115 degrees the module loses its supply. The duties change at the
next window boundary (R385). -/
def execThermalAction (die tenths : Nat) (s : State) : Host.Outcome State Fault Refusal :=
  if Config.dies ≤ die then .next s
  else if 1150 ≤ tenths then .next s.powerOff
  else
    let ev := fun (t : State) => t.event (moduleNote 0xA0 die tenths)
    if 1050 ≤ tenths then
      .next (ev ((s.mapDies (fun _ d => { d with duty2 := 16 })).updMgmt (fun m => { m with hot := 255 })))
    else if 950 ≤ tenths then
      .next (ev ((s.mapDies (fun i d => if i == die then { d with duty2 := s.cooler die d } else d)).updMgmt (fun m => { m with hot := m.hot ||| 2 ^ die })))
    else .next (s.updMgmt (fun m => { m with hot := if bitAt m.hot die then m.hot - 2 ^ die else m.hot }))

/-- THERMAL_POWER_OFF (R427). -/
def execThermalPowerOff (s : State) : Host.Outcome State Fault Refusal := .next s.powerOff

/-- POWER_DELIVERY_TRIP (R406). -/
def execPowerDeliveryTrip (s : State) : Host.Outcome State Fault Refusal := .next s.powerOff

/-- clk withheld by throttling so far, summed over the dies (R385, R429). -/
def State.withheld (s : State) : Nat := (tabulate 8 (fun i => s.clk - (s.dies.at' i).iclk)).sum

/-- The telemetry record of the period that ends at this clk (R429). -/
def State.telRecord (s : State) (watts tenths : Nat) : List (BitVec 8) :=
  leBytes 8 (s.clk / 2 ^ 30 - 1) ++ leBytes 4 watts ++ leBytes 4 tenths ++ leBytes 8 s.mgmt.corrected
    ++ leBytes 8 (s.withheld - s.mgmt.telclk) ++ leBytes 4 s.mgmt.ports.toNat ++ leBytes 28 0

/-- TELEMETRY_PERIOD (R429): at the end of each period of 2^30 clk the record goes, once, to the host's buffer, a ring of
64-byte records, or in host-assisted mode to device memory with event 0x13. Period 0 is the first. -/
def execTelemetryPeriod (watts tenths : Nat) (s : State) : Host.Outcome State Fault Refusal :=
  if s.clk % 2 ^ 30 != 0 || s.clk / 2 ^ 30 ≤ s.mgmt.telno then .next s
  else
    let rec' := s.telRecord watts tenths
    let n := s.clk / 2 ^ 30 - 1
    let slots := s.mgmt.tellen / 64
    let pa := 64 * (s.free (freeKey 26 0 0) % 2 ^ 33)
    let s1 :=
      if s.mgmt.fnmode.getLsbD 4 then (s.storeBytes pa rec').event (moduleNote 0x13 pa n)
      else if s.mgmt.telpa == 0 || slots == 0 then s
      else s.storeBytes (hostBase + s.mgmt.telpa + 64 * (n % slots)) rec'
    .next (s1.updMgmt (fun m => { m with telno := n + 1, telclk := s.withheld, corrected := 0 }))

/-- Whether a fuse word disables its cluster: bit 64 (R12). -/
def fuseOff (f : Nat) : Bool := bitAt f 64

/-- The signature of a fuse word, with its reserved fields 0 (R79). -/
def fuseSig (f : Nat) : Nat := setBits (setBits (setBits (f % 2 ^ 64) 63 48 0) 23 15 0) 7 7 0

/-- Whether a fused defect map is one of this device: one cluster of each die and two slots of each cluster are disabled
(R12, R79). -/
def fusesOk (l : List Nat) : Bool :=
  l.length == 64
    && (List.range 8).all (fun d => ((List.range 8).filter (fun i => fuseOff (l.getD (8 * d + i) 0))).length == 1)
    && l.all (fun f => decide (bits f 6 0 < bits f 14 8) && decide (bits f 14 8 ≤ 65))

/-- A cluster as its fuse word makes it (R12, R79). -/
def fusedCluster (i f : Nat) : Cluster :=
  { Cluster.zero i with enabled := !fuseOff f, sig := BitVec.ofNat 64 (fuseSig f), badSlots := [bits f 6 0, bits f 14 8] }

/-- A measurement register after a digest has been extended into it (R414). -/
def extendMsm (m : BitVec 256) (digest : List (BitVec 8)) : BitVec 256 :=
  BitVec.ofNat 256 (leNat (shake256 (leBytes 32 m.toNat ++ digest)))

/-- Whether the boot ROM lets an image run (R33, R414): its signature verifies and its security version is not below the
fused one. -/
def Image.ok (i : Image) : Bool :=
  Config.verifies (shake256 i.bytes) i.sig && decide (Config.securityVersion.toNat ≤ i.version)

/-- The measurement registers after bring-up: each verified image's digest goes to one of the eight, and which one is not
specified (R414). The list is the latest first. -/
def State.measure (s : State) : List Image → Nat → RegFile 3 (BitVec 256)
  | [], _ => RegFile.fill 3 0
  | d :: rest, k =>
    let m := s.measure rest (k + 1)
    let i := s.free (freeKey 27 0 k) % 8
    m.put i (extendMsm (m.at' i) (shake256 d.bytes))

/-- Whether a configuration gives every module an identifier of its own from 0 to 786,431 (R31). -/
def pkgsOk (l : List Nat) : Bool := l.all (fun p => decide (p ≤ 786431)) && !hasDup l

/-- What outlives a reset: host memory. -/
def hostCells (m : List Host.Cell) : List Host.Cell :=
  m.filter (fun c => decide (hostBase ≤ c.1) && decide (c.1 < hostBase + 2 ^ 48))

/-- COLD_RESET (R31, R33, R79, R407, R413, R414, R428): the module comes up with the fused defect map and its retirement
lists; READY is set where the four images (management, queue-scheduler, paging, cluster supervisor) verify and the
configuration of identifiers is accepted. pkg is the identifier of this module and others those of the system's other modules; what the
identifier holds after a refusal is not specified (log entry 63). -/
def execColdReset (fuses : List Nat) (pkg : Nat) (others : List Nat) (images : List Image) (s : State) :
    Host.Outcome State Fault Refusal :=
  if !fusesOk fuses then .next s
  else
    let up := images.length == 4 && images.all Image.ok && pkgsOk (pkg :: others)
    let m := { Mgmt.zero with
      ready := up, up := up, pkg := BitVec.ofNat 20 (if pkgsOk (pkg :: others) then pkg else s.free (freeKey 28 0 0))
      fuses := fuses, msm := s.measure (images.filter Image.ok).reverse 0
      badCores := s.mgmt.badCores, badClusters := s.mgmt.badClusters, badFrames := s.mgmt.badFrames }
    .next { State.reset with
      mem := hostCells s.mem, clusters := RegFile.tab 6 (fun i => fusedCluster i (fuses.getD i 0)), mgmt := m
      agenda := s.agenda, freeIx := s.freeIx }

/-- FUNCTION_LEVEL_RESET (R428): every task ends without a status write, images, queues, contexts and objects are gone,
FNMODE is 0 and READY is set, where bring-up had started the firmware that the reset keeps (R33); an unfinished save or
restore leaves its MAGIC 0. -/
def execFunctionLevelReset (s : State) : Host.Outcome State Fault Refusal :=
  let s1 := s.fw.tasks.foldl (fun t x => if x.stage.imaged then t.clearMagic x else t) s
  let s2 := s1.fw.tasks.foldl (fun t x => t.dropTask x) s1
  let s3 := (s2.dropTlb (fun _ => true)).updFw (fun w => { w with
    contexts := RegFile.fill 4 Context.zero, queues := [], objects := [], kickmap := [], winner := 63, selected := []
    fills := [] })
  let s4 := { s3 with
    keys := [], clusters := RegFile.tab 6 (fun i => { s3.clusters.at' i with lastCtx := none, closed := false }) }
  .next (s4.updMgmt (fun m => { m with fnmode := 0, fnreq := [], ready := m.up, killing := none }))

/-- A unit that reached its retirement threshold joins its list, or in host-assisted mode event 0x11 is raised (R407). -/
def State.retireUnit (s : State) (kind unit : Nat) : State :=
  let s1 := s.settleUnit kind unit
  if s.mgmt.fnmode.getLsbD 2 then s1.event (moduleNote 0x11 unit kind) else s1.listUnit kind unit

/-- CORE_SLOT_RETIREMENT (R407): a slot that reached its threshold is bound to no later task. -/
def execCoreSlotRetirement (die cl slot : Nat) (s : State) : Host.Outcome State Fault Refusal :=
  let unit := slotUnit (8 * die + cl) slot
  if Config.dies ≤ die || Config.clustersPerDie ≤ cl || Config.slotsPerCluster ≤ slot || !s.mgmt.due.contains (1, unit) then
    .next s
  else .next (s.retireUnit 1 unit)

/-- CLUSTER_HARD_FAILURE (R407): none of the cluster's slots is bound to a later task. -/
def execClusterHardFailure (die cl : Nat) (s : State) : Host.Outcome State Fault Refusal :=
  if Config.dies ≤ die || Config.clustersPerDie ≤ cl then .next s
  else .next (s.retireUnit 2 (slotUnit (8 * die + cl) 0))

/-- Every core of the tasks that a property names stops for good: only a restore from an image or an end is left (R32). -/
def State.interruptJobs (s : State) (p : Task → Bool) : State :=
  let ids := (s.fw.tasks.filter p).map (fun t => t.id)
  s.mapCores (fun c => ids.contains c.task && !c.freeze) (fun c => { c.stop with freeze := true })

/-- DIE_TO_DIE_LINK_FAILURE (R11, R32, R406): edge counts the edges of R11; no context of the module goes on without a
restore. -/
def execDieToDieLinkFailure (edge : Nat) (s : State) : Host.Outcome State Fault Refusal :=
  if Config.edges.length ≤ edge then .next s
  else .next ((s.interruptJobs (fun _ => true)).updMgmt (fun m =>
    { m with edges := if m.edges.contains edge then m.edges else m.edges ++ [edge] }))

/-- SCALE_OUT_PORT_FAILURE (R406, R429): jobs with peers on other packages are interrupted, and the port is down. -/
def execScaleOutPortFailure (port : Nat) (s : State) : Host.Outcome State Fault Refusal :=
  if 8 ≤ port then .next s
  else .next ((s.interruptJobs (fun t => fieldAt t.launch 44 4 != 0)).updMgmt (fun m =>
    { m with ports := m.ports &&& ~~~(1#8 <<< port) }))

/-- A corrected error counts for a unit (R405, R407): 16 of a frame within 24 hours, or 4 of a slot's register file within
2^36 clk, reach its threshold. -/
def State.countError (s : State) (kind unit : Nat) : State :=
  let span := if kind == 0 then Config.dayClk else 2 ^ 36
  let most := if kind == 0 then 16 else 4
  let es := (kind, unit, s.clk) :: s.mgmt.errors.filter (fun e => e.1 != kind || decide (s.clk < e.2.2 + span))
  let s1 := s.updMgmt (fun m => { m with corrected := m.corrected + 1, errors := es })
  if most ≤ (es.filter (fun e => e.1 == kind && e.2.1 == unit)).length then s1.reachUnit kind unit else s1

/-- Whether an address lies in a memory with granules of R402: device memory, die scratch, tiles and pools. -/
def granular (a : Nat) : Bool := decide (a < hostBase) || decide (windowBase ≤ a)

/-- A route with a beat of one of its links poisoned (R402). -/
def Route.loseBeat (r : Route) (link item : Nat) : Route :=
  { r with links := modifyAt r.links link (fun l => { l with
      items := modifyAt l.items item (fun b => b.map (fun b => { b with psn := true })) }) }

/-- PATROL_SCRUB (R402, R405, R407): a corrected error changes no value and is counted; lost data is marked poisoned, and a
frame with a lost line reaches its threshold. What a lost accumulator holds is unspecified; a lost beat keeps its lanes
(log entry 64). -/
def execPatrolScrub (found : Finding) (s : State) : Host.Outcome State Fault Refusal :=
  match found with
  | .corrected => .next (s.updMgmt (fun m => { m with corrected := m.corrected + 1 }))
  | .correctedFrame f => .next (if f % 65536 != 0 || 2 ^ 39 ≤ f then s else s.countError 0 f)
  | .correctedSlot cl j => .next (if 64 ≤ cl || Config.slotsPerCluster ≤ j then s else s.countError 1 (slotUnit cl j))
  | .lostLine a =>
    if !granular a then .next s
    else
      let s1 := s.mark a
      .next (if a < 2 ^ 39 then s1.reachUnit 0 (a / 65536 * 65536) else s1)
  | .lostAcc ci a => .next (s.updCore ci (fun c => c.spoilAcc s a))
  | .lostBeat ci r link item => .next (s.updCore ci (fun c => { c with routes := c.routes.write r ((c.routes.read r).loseBeat link item) }))

/-- The resident peer task of a job: its context is the peer context of an arrival (R238). A task that is saved, or waits for
its image, is not resident (R355). -/
def State.peerTask (s : State) (job : Nat) : Option Task :=
  s.fw.tasks.find? (fun t => job != 0 && fieldAt t.launch 44 4 == job && (match t.stage with
    | .saved _ => false
    | .loading => false
    | _ => true))

/-- Stores arriving bytes; poisoned ones mark their granules (R241). -/
def State.storeArrived (s : State) (as : List Nat) (bs : List (BitVec 8)) (psn : Bool) : State :=
  let s1 := s.store (List.zip as bs)
  if psn then as.foldl (fun t a => t.mark a) s1 else s1

/-- Reaches VA parts of a peer context for an arrival. -/
def State.arriveVa (s : State) (t : Task) (k : AccessKind) (va n : Nat) (f : List Nat → State) : State :=
  match s.firmReach t.ctx k va n with
  | .ok as => f as
  | .hold x => s.wantFill x
  | .fault _ => s

/-- REMOTE_COPY_ARRIVAL (R238, R241, R263): what a copy, a COLL or an atomic of another package sends. kind 0 is bytes for
window space of the task's cluster cl, 1 bytes for a VA under the peer context, 2 a window element by its first bit (data:
its width and its code), 3 an atomic without result (data: operation, type, operand); 4 more where the data are poisoned.
Without a resident peer, or with the cluster closed, it fails and nothing changes here. -/
def execRemoteCopyArrival (kind job cl addr : Nat) (data : List (BitVec 8)) (s : State) : Host.Outcome State Fault Refusal :=
  match s.peerTask job with
  | none => .next s
  | some t =>
    let psn := bitAt kind 2
    let reach := fun (a n : Nat) => (tabulate n (fun i => windowAddr (t.phys cl) t.ppc 0 (a + i))).filterMap id
    if t.nclus ≤ cl || (s.clusters.at' (t.phys cl)).closed then .next s
    else match kind % 4 with
      | 0 =>
        let as := reach addr data.length
        .next (if as.length == data.length then s.storeArrived as data psn else s)
      | 1 => .next (s.arriveVa t .store (addr % 2 ^ 52) data.length (fun as => s.storeArrived as data psn))
      | 2 =>
        let w := fieldAt data 0 1
        let lo := addr / 8
        let as := reach lo ((addr + w + 7) / 8 - lo)
        let old := leNat (as.map (readByte s.mem))
        let new := setBits old (addr % 8 + w - 1) (addr % 8) (fieldAt data 1 4)
        .next (if w == 0 || as.length != (addr + w + 7) / 8 - lo then s else s.storeArrived as (leBytes as.length new) psn)
      | _ =>
        let ty := fieldAt data 1 1
        let z := atomBytes ty
        let va := addr % 2 ^ 52
        if !aopTyOk true (fieldAt data 0 1) ty || va % z != 0 then .next s
        else .next (s.arriveVa t .atomic va z (fun as =>
          let a := as.headD 0
          if s.poisoned a then s
          else s.storeNat a z (aopApply (fieldAt data 0 1) ty (readNat s.mem a z) (fieldAt data 2 z))))

end Sys2Proof.Machine
end

