-- ==== Sys2Proof/Machine/Predicate.lean ====
section
/-! DEFINITION. The predicate instructions (spec/05, R143). -/
namespace Sys2Proof.Machine

/-- A predicate instruction that writes all 64 bits of pd, with L = 1 (R143, R144). -/
def predOp (h : Hdr) (f : FmtP) (len : Nat) (g : At → State → BitVec 64) (s : State) :
    Host.Outcome State Fault Refusal :=
  s.issueWord h len noEarly noAgain (fun v s => .done (v.putP s f.pd (BitVec.allOnes 64) (g v s) 1) 1)

/-- PAND (R143). -/
def execPand (h : Hdr) (f : FmtP) (s : State) := predOp h f 1 (fun v s => s.readP v f.pa &&& s.readP v f.pb) s
/-- POR (R143). -/
def execPor (h : Hdr) (f : FmtP) (s : State) := predOp h f 1 (fun v s => s.readP v f.pa ||| s.readP v f.pb) s
/-- PXOR (R143). -/
def execPxor (h : Hdr) (f : FmtP) (s : State) := predOp h f 1 (fun v s => s.readP v f.pa ^^^ s.readP v f.pb) s
/-- PNOT (R143). -/
def execPnot (h : Hdr) (f : FmtP) (s : State) := predOp h f 1 (fun v s => ~~~(s.readP v f.pa)) s
/-- PSET (R143). -/
def execPset (h : Hdr) (f : FmtP) (e1 : Word) (s : State) := predOp h f 2 (fun _ _ => e1) s

/-- PCNT (R143). -/
def execPcnt (h : Hdr) (f : FmtP) (s : State) : Host.Outcome State Fault Refusal :=
  s.scalarOp h f.sd 2 (fun v s => BitVec.ofNat 64 (popCount 64 (s.readP v f.pa).toNat))

end Sys2Proof.Machine
end

