-- ==== Sys2Proof/Machine/Record.lean ====
section
/-! DEFINITION. The trap record (spec/16, R391) and the state block of a core (R397): their bytes, and a core with what
they hold. -/
namespace Sys2Proof.Machine

/-- Bytes followed by zeros up to a length. -/
def padTo (n : Nat) (bs : List (BitVec 8)) : List (BitVec 8) := bs ++ List.replicate (n - bs.length) 0

/-- Whether a strand's repetition in progress is recorded as suspended, and so counts as issued (R314). -/
def Core.repHeld (c : Core) (e : Eng) : Bool :=
  (c.strand e).repn != 0 && (match e with
    | .a => false
    | .m => c.mmulOpen || c.miterOpen
    | .v => (List.range 4).any (fun g => (c.scans.at' g).waitsCarry))

/-- REPN: repetitions not yet issued (R314). -/
def Core.repnOut (c : Core) (e : Eng) : Nat := (c.strand e).repn.toNat - (if c.repHeld e then 1 else 0)

/-- The copies of a core that stopped at a fault, by channel (R240, R391). -/
def Core.copyFaults (c : Core) : List (Nat × Copy × CopyFault) :=
  ((List.range 4).flatMap (fun ch =>
    ((c.chans.at' ch).ending ++ (c.chans.at' ch).queue).filterMap (fun x => x.fault.map (fun f => (ch, x, f))))).take 4

/-- A copy-fault entry (R391). -/
def faultEntry (p : Nat × Copy × CopyFault) : List (BitVec 8) :=
  let t := p.2.2.info
  let reason := if t.cause == 4 || t.cause == 5 then t.detail.toNat else 0
  leBytes 1 p.1 ++ leBytes 1 (if p.2.2.write then 1 else 0) ++ leBytes 1 reason ++ leBytes 1 t.cause.toNat ++ leBytes 4 0
    ++ leBytes 8 p.2.1.n1 ++ leBytes 8 p.2.1.prog ++ leBytes 8 t.addr

/-- The head of the record of a core that has not trapped. -/
def noHead : TrapHead := { info := trapOf 0 0 0, src := 0, clk := 0, fillErr := false, noResume := false }

/-- The head of a core's trap record (R391). -/
def recordHead (t : Task) (c : Core) : List (BitVec 8) :=
  let fs := c.copyFaults
  let h := c.trapped.getD noHead
  let fl := (if c.waitRec.isEmpty then 0 else 1) + (if h.fillErr || fs.any (fun p => p.2.2.fillErr) then 2 else 0)
    + (if h.noResume then 4 else 0)
  leBytes 1 h.info.cause.toNat ++ leBytes 1 h.srcByte ++ leBytes 1 fs.length ++ leBytes 1 fl ++ leBytes 4 h.info.detail.toNat
    ++ leBytes 8 h.clk ++ leBytes 8 h.info.addr ++ leBytes 4 c.vcore ++ leBytes 2 t.qid ++ leBytes 1 t.ctx ++ leBytes 1 0
    ++ leBytes 8 t.lseq ++ leBytes 24 0

/-- The strand block of a strand (R391). -/
def strandBlock (c : Core) (e : Eng) : List (BitVec 8) :=
  let st := c.strand e
  leBytes 8 st.pc.toNat ++ leBytes 8 st.rsn.toNat ++ leBytes 8 st.dwc.toNat
    ++ leBytes 1 ((st.trap.map (fun t => t.cause.toNat)).getD 0) ++ leBytes 1 (c.repnOut e) ++ leBytes 1 st.lact.toNat
    ++ leBytes 1 st.ret.length ++ leBytes 1 st.cfv.toNat ++ leBytes 1 st.cfok.toNat ++ leBytes 2 0
    ++ (List.range 4).flatMap (fun l => leBytes 4 (st.lc.at' l).toNat)
    ++ (List.range 4).flatMap (fun l => leBytes 4 (st.lb.at' l).toNat)
    ++ padTo 128 (st.ret.reverse.flatMap (fun x => leBytes 8 x.toNat)) ++ leBytes 64 0

/-- Pushes of a counter that wait (R300). -/
def Core.pendingOn (c : Core) (k : Nat) : Nat :=
  (c.strands.map (fun st => (st.pushes.filter (fun p => p.ctr.toNat == k)).length)).sum

/-- The core block (R391). -/
def coreBlock (c : Core) : List (BitVec 8) :=
  leBytes 4 ((List.range 6).foldl (fun a k => a + (c.tokens.at' k).toNat * 16 ^ k) 0)
    ++ leBytes 1 (c.jumpTaken.toNat + (if c.jump.isSome then 8 else 0)) ++ leBytes 3 0
    ++ leBytes 8 ((c.jump.map (fun x => x.toNat)).getD 0) ++ leBytes 2 c.slipw.toNat ++ leBytes 1 c.overlay.length
    ++ (List.range 6).flatMap (fun k => leBytes 1 (c.pendingOn k)) ++ leBytes 39 0

/-- The patch overlay of a record (R391). -/
def overlayBytes (c : Core) : List (BitVec 8) :=
  padTo 256 (c.overlay.flatMap (fun p =>
    leBytes 8 p.x.toNat ++ leBytes 1 p.field.toNat ++ leBytes 3 0 ++ leBytes 4 p.value.toNat))

/-- The trap record of a core (R391). -/
def trapRecord (t : Task) (c : Core) : List (BitVec 8) :=
  recordHead t c ++ strandBlock c .a ++ strandBlock c .m ++ strandBlock c .v ++ coreBlock c ++ overlayBytes c
    ++ padTo 128 (c.copyFaults.flatMap faultEntry) ++ padTo 1056 c.waitRec ++ leBytes 224 0

/-- Whether the fields of a strand block lie within their widths and its PC is a multiple of 8 (R392). -/
def strandOk (b : List (BitVec 8)) : Bool :=
  let f := fieldAt b
  f 0 8 % 8 == 0 && f 0 8 < 2 ^ 52 && f 25 1 < 128 && f 26 1 < 16 && f 27 1 ≤ 16
    && (List.range 4).all (fun l => f (32 + 4 * l) 4 < 2 ^ 21 && f (48 + 4 * l) 4 < 2 ^ 20)
    && (List.range 16).all (fun i => f 27 1 ≤ i || f (64 + 8 * i) 8 < 2 ^ 52)

/-- The most elements of which a copy's progress can tell (R391): the raw bytes of its chunks for CCOPY.dec, as its stream
gives them (R257), and 4,096 for a chunk whose size cannot be told (log entry 22). -/
def Copy.most (x : Copy) (s : State) (c : Core) : Nat :=
  if x.kind != .dec then x.total
  else match x.decPeek s c with
    | .ok n => Nat.max x.prog n
    | .error _ => 4096 * x.total

/-- A copy that goes on from another element (R392): chunks and slabs begin anew from the element's own, and what an
interrupted element held is gone. -/
def Copy.moveTo (x : Copy) (n : Nat) : Copy :=
  if n == x.prog then x
  else match x.kind with
    | .dec => { x with prog := n, unit := n / 4096, part := [] }
    | .enc => { x with prog := n / 4096 * 4096, unit := n / 4096, offs := x.offs.take (n / 4096 + 1), part := [] }
    | .tcopy => { x with prog := n, codes := x.codes.take n, part := [] }
    | _ => { x with prog := n, part := [] }

/-- Whether a record passes the checks of R392 for a core. -/
def recordOk (s : State) (c : Core) (b : List (BitVec 8)) : Bool :=
  let core := b.drop 832
  [64, 320, 576].all (fun o => strandOk (b.drop o)) && fieldAt core 0 4 < 2 ^ 24 && fieldAt core 4 1 < 16
    && fieldAt core 8 8 < 2 ^ 52 && fieldAt core 16 2 < 2 ^ 13 && fieldAt core 18 1 ≤ 16
    && (List.range 16).all (fun i => fieldAt core 18 1 ≤ i || fieldAt b (896 + 16 * i) 8 < 2 ^ 52)
    && (c.copyFaults.zipIdx).all (fun p => fieldAt b (1152 + 32 * p.2 + 16) 8 ≤ p.1.2.1.most s c)

/-- A strand with the fields of a strand block. -/
def Core.loadStrand (c : Core) (e : Eng) (b : List (BitVec 8)) : Core :=
  let st := c.strand e
  let n := fieldAt b 25 1
  c.setStrand e { st with
    pc := BitVec.ofNat 52 (fieldAt b 0 8), rsn := BitVec.ofNat 64 (fieldAt b 8 8), dwc := BitVec.ofNat 64 (fieldAt b 16 8)
    repn := if n == c.repnOut e then st.repn else BitVec.ofNat 7 (n + (if c.repHeld e then 1 else 0))
    lact := BitVec.ofNat 4 (fieldAt b 26 1), cfv := BitVec.ofNat 8 (fieldAt b 28 1), cfok := BitVec.ofNat 8 (fieldAt b 29 1)
    lc := RegFile.tab 2 (fun l => BitVec.ofNat 21 (fieldAt b (32 + 4 * l) 4))
    lb := RegFile.tab 2 (fun l => BitVec.ofNat 20 (fieldAt b (48 + 4 * l) 4))
    ret := (tabulate (fieldAt b 27 1) (fun i => BitVec.ofNat 52 (fieldAt b (64 + 8 * i) 8))).reverse
    held := none, busy := false }

/-- The waiting pushes of a strand from the counts of a record; unchanged counts keep their order (R300). -/
def Core.loadPushes (c : Core) (e : Eng) (b : List (BitVec 8)) : Core :=
  let st := c.strand e
  let ctrs := match e with
    | .a => [0, 1]
    | .m => [2, 3]
    | .v => [4, 5]
  if ctrs.all (fun k => fieldAt b (19 + k) 1 == c.pendingOn k) then c
  else c.setStrand e { st with pushes := ctrs.flatMap (fun k =>
    List.replicate (fieldAt b (19 + k) 1) { ctr := BitVec.ofNat 3 k, due := 0 }) }

/-- The progress of a copy from the copy-fault entries of a record (R392): its place among the core's is that of the
entry. -/
def Core.loadProgress (c : Core) (b : List (BitVec 8)) : Core :=
  (c.copyFaults.zipIdx).foldl (fun c p =>
    let n := fieldAt b (1152 + 32 * p.2 + 16) 8
    { c with chans := c.chans.put p.1.1 (
        let x := c.chans.at' p.1.1
        { x with queue := x.queue.map (fun y => if y.fault.isSome then y.moveTo n else y) }) }) c

/-- A core with what a trap record holds (R392, R401). -/
def Core.loadRecord (c : Core) (b : List (BitVec 8)) : Core :=
  let core := b.drop 832
  let c1 := ((c.loadStrand .a (b.drop 64)).loadStrand .m (b.drop 320)).loadStrand .v (b.drop 576)
  let c2 := (((c1.loadPushes .a core).loadPushes .m core).loadPushes .v core).loadProgress b
  { c2 with
    tokens := RegFile.tab 3 (fun k => if k < 6 then BitVec.ofNat 4 (fieldAt core 0 4 / 16 ^ k) else 0)
    jump := if bitAt (fieldAt core 4 1) 3 then some (BitVec.ofNat 52 (fieldAt core 8 8)) else none
    jumpTaken := BitVec.ofNat 3 (fieldAt core 4 1), slipw := BitVec.ofNat 13 (fieldAt core 16 2)
    overlay := tabulate (fieldAt core 18 1) (fun i =>
      { x := BitVec.ofNat 52 (fieldAt b (896 + 16 * i) 8), field := BitVec.ofNat 8 (fieldAt b (904 + 16 * i) 1)
        value := BitVec.ofNat 32 (fieldAt b (908 + 16 * i) 4) }) }

/-- The layout of WSET's extension word for a window (R119, R397). -/
def Window.word (w : Window) : Nat :=
  w.ty.toNat * 2 ^ 60 + w.rowsm1.toNat * 2 ^ 44 + w.colsm1.toNat * 2 ^ 32 + w.stride.toNat

/-- A 64-bit entry of the control area with its mark in bit 63. -/
def marked (b : Bool) (x : Nat) : List (BitVec 8) := leBytes 8 (if b then 2 ^ 63 + x % 2 ^ 63 else 0)

/-- The control area of a state block (R397). -/
def controlArea (c : Core) : List (BitVec 8) :=
  [c.sown, c.ftsel, c.rseed, c.mprog, c.its].flatMap (fun x => leBytes 8 x.toNat)
    ++ (List.range 4).flatMap (fun l => leBytes 8 (c.dm.at' l).toNat) ++ leBytes 8 c.estim.toNat
    ++ leBytes 1 ((List.range 4).foldl (fun a i =>
        a + (if (c.acc.at' i).tag then 2 ^ i else 0) + (if (c.acc.at' i).psn then 2 ^ (i + 4) else 0)) 0)
    ++ leBytes 7 0
    ++ (List.range 3).flatMap (fun l => marked (c.dmNext.at' l).isSome ((c.dmNext.at' l).getD 0).toNat)
    ++ (List.range 5).flatMap (fun l => marked (decide ((c.bars.at' l).done < (c.bars.at' l).made)) (c.bars.at' l).done)
    ++ (List.range 4).flatMap (fun g => marked (c.scans.at' g).join.isSome ((c.scans.at' g).join.getD 0))
    ++ leBytes 72 0

/-- The 320 bytes of a stage (R397). -/
def stageBytes (g : Stage) : List (BitVec 8) :=
  leBytes 8 (g.word.getD 0).toNat ++ leBytes 8 (if g.word.isSome then 1 else 0)
    ++ (List.range 16).flatMap (fun k =>
        leBytes 8 (g.slots.at' k).seq.toNat ++ leBytes 1 (g.slots.at' k).pct ++ leBytes 1 (g.slots.at' k).cct ++ leBytes 6 0)
    ++ leBytes 48 0

/-- The 15 bytes of a channel of a scan buffer (R397). -/
def cellBytes (x : ScanCell) : List (BitVec 8) :=
  let v := x.val.getD (0, 0)
  leBytes 4 v.1.toNat ++ leBytes 4 v.2.toNat ++ leBytes 1 ((if x.rst then 1 else 0) + (if x.val.isSome then 2 else 0))
    ++ leBytes 6 0

/-- The scan state of an index (R397): the three buffers and the local pass. -/
def scanBytes (x : ScanIx) : List (BitVec 8) :=
  [x.carry, x.total, x.group, if x.passed || x.waitsCarry then x.total else scanBuf].flatMap (fun b =>
    (List.range 64).flatMap (fun i => cellBytes (b.at' i)))

/-- The state block of a core, without the trap record (R397). -/
def blockTail (c : Core) : List (BitVec 8) :=
  (List.range 32).flatMap (fun i => leBytes 8 (if i == 0 then 0 else (c.s.at' i).toNat))
    ++ (List.range 8).flatMap (fun i => leBytes 8 (if i == 0 then 2 ^ 64 - 1 else (c.p.at' i).toNat))
    ++ (List.range 16).flatMap (fun i => leBytes 8 (c.w.at' i).base.toNat ++ leBytes 8 (c.w.at' i).word)
    ++ (List.range 16).flatMap (fun i => leBytes 4 (c.k.at' i).toNat)
    ++ (List.range 16).flatMap (fun i => leBytes 2 (c.ft.at' i).toNat) ++ controlArea c
    ++ (List.range 8).flatMap (fun i => leBytes 8 (c.tls.at' i).iss.toNat ++ leBytes 8 (c.tls.at' i).comp.toNat)
    ++ (List.range 16).flatMap (fun i => leBytes 128 (c.d.at' i).toNat)
    ++ (List.range 8).flatMap (fun i => stageBytes (c.stages.at' i))
    ++ (List.range 4).flatMap (fun g => leBytes 8 (c.scans.at' g).scg.toNat)
    ++ (List.range 4).flatMap (fun g => scanBytes (c.scans.at' g)) ++ leBytes 960 0

/-- The state block of a core (R397). -/
def stateBlock (t : Task) (c : Core) : List (BitVec 8) := trapRecord t c ++ blockTail c

/-- Whether the register areas of a state block lie within their widths (R392). -/
def blockOk (b : List (BitVec 8)) : Bool :=
  (List.range 16).all (fun i => fieldAt b (2880 + 16 * i) 8 < 2 ^ 26
      && (let w := fieldAt b (2888 + 16 * i) 8; rsv w 59 56 && rsv w 31 24))
    && (List.range 8).all (fun i => fieldAt b (5672 + 320 * i) 8 ≤ 1)

/-- A window from its bytes in a state block. -/
def windowAt (b : List (BitVec 8)) (i : Nat) : Window :=
  let w := fieldAt b (2888 + 16 * i) 8
  { base := BitVec.ofNat 26 (fieldAt b (2880 + 16 * i) 8), stride := BitVec.ofNat 24 w
    rowsm1 := BitVec.ofNat 12 (bits w 55 44), colsm1 := BitVec.ofNat 12 (bits w 43 32), ty := BitVec.ofNat 4 (bits w 63 60) }

/-- A stage from its bytes in a state block. -/
def stageAt (b : List (BitVec 8)) (i : Nat) : Stage :=
  let o := 5664 + 320 * i
  { word := if bitAt (fieldAt b (o + 8) 8) 0 then some (BitVec.ofNat 64 (fieldAt b o 8)) else none
    slots := RegFile.tab 4 (fun k =>
      { seq := BitVec.ofNat 64 (fieldAt b (o + 16 + 16 * k) 8), pct := fieldAt b (o + 24 + 16 * k) 1
        cct := fieldAt b (o + 25 + 16 * k) 1 }) }

/-- A scan buffer from its bytes in a state block. -/
def scanBufAt (b : List (BitVec 8)) (o : Nat) : RegFile 6 ScanCell :=
  RegFile.tab 6 (fun i =>
    let fl := fieldAt b (o + 15 * i + 8) 1
    { val := if bitAt fl 1 then
        some (BitVec.ofNat 32 (fieldAt b (o + 15 * i) 4), BitVec.ofNat 32 (fieldAt b (o + 15 * i + 4) 4)) else none
      rst := bitAt fl 0 })

/-- An arrival record with its entry in a state block: no arrival open where bit 63 is 0 (R284, R397). -/
def Barrier.load (x : Barrier) (e : Nat) : Barrier :=
  if bitAt e 63 then { x with done := e % 2 ^ 63, made := e % 2 ^ 63 + 1 } else { x with made := x.done }

/-- A scan index with its register, join arrival and buffers in a state block (R397). -/
def ScanIx.load (x : ScanIx) (scg join : Nat) (b : List (BitVec 8)) : ScanIx :=
  { x with
    scg := BitVec.ofNat 64 scg
    join := if bitAt join 63 then some (join % 8) else none
    carry := scanBufAt b 0
    total := scanBufAt b (if x.waitsCarry then 2880 else 960)
    group := scanBufAt b 1920 }

/-- A core with the register areas of a state block (R392, R424): every register, arrival and buffer the block gives a
place. -/
def Core.loadRegs (c : Core) (b : List (BitVec 8)) : Core :=
  { c with
    s := RegFile.tab 5 (fun i => if i == 0 then 0 else BitVec.ofNat 64 (fieldAt b (2560 + 8 * i) 8))
    p := RegFile.tab 3 (fun i => if i == 0 then c.p.at' 0 else BitVec.ofNat 64 (fieldAt b (2816 + 8 * i) 8))
    w := RegFile.tab 4 (windowAt b)
    k := RegFile.tab 4 (fun i => BitVec.ofNat 32 (fieldAt b (3136 + 4 * i) 4))
    ft := RegFile.tab 4 (fun i => BitVec.ofNat 16 (fieldAt b (3200 + 2 * i) 2))
    sown := BitVec.ofNat 64 (fieldAt b 3232 8), ftsel := BitVec.ofNat 64 (fieldAt b 3240 8)
    rseed := BitVec.ofNat 64 (fieldAt b 3248 8), mprog := BitVec.ofNat 64 (fieldAt b 3256 8)
    its := BitVec.ofNat 64 (fieldAt b 3264 8)
    dm := RegFile.tab 2 (fun l => BitVec.ofNat 64 (fieldAt b (3272 + 8 * l) 8))
    tls := RegFile.tab 3 (fun i =>
      { c.tls.at' i with iss := BitVec.ofNat 64 (fieldAt b (3488 + 16 * i) 8), comp := BitVec.ofNat 64 (fieldAt b (3496 + 16 * i) 8) })
    d := RegFile.tab 4 (fun i => BitVec.ofNat 1024 (fieldAt b (3616 + 128 * i) 128))
    stages := RegFile.tab 3 (stageAt b)
    acc := RegFile.tab 2 (fun i =>
      let fl := fieldAt b 3312 1
      { c.acc.at' i with tag := bitAt fl i, psn := bitAt fl (i + 4) })
    estim := BitVec.ofNat 64 (fieldAt b 3304 8)
    dmNext := RegFile.tab 2 (fun l => if l < 3 && bitAt (fieldAt b (3320 + 8 * l) 8) 63 then
      some (BitVec.ofNat 64 (fieldAt b (3320 + 8 * l) 8 % 2 ^ 63)) else none)
    bars := RegFile.tab 3 (fun l => if l < 5 then (c.bars.at' l).load (fieldAt b (3344 + 8 * l) 8) else c.bars.at' l)
    scans := RegFile.tab 2 (fun g => (c.scans.at' g).load (fieldAt b (8224 + 8 * g) 8) (fieldAt b (3384 + 8 * g) 8)
      (b.drop (8256 + 3840 * g))) }

/-- The place in the order of R389 that SRC names; channels and sources that are not specified keep theirs. -/
def TrapHead.srcOf (h : TrapHead) (n : Nat) : Nat :=
  if h.srcByte == n then h.src else if n < 4 then n else if n == 4 then 7 else n + 8

/-- The cause, DETAIL and address that a record gives; whether the access was a write is the core's own where the cause is. -/
def loadInfo (old : TrapInfo) (cause detail addr : Nat) (write : Bool) : TrapInfo :=
  if old.cause.toNat == cause then { old with detail := BitVec.ofNat 32 detail, addr := addr }
  else { cause := BitVec.ofNat 8 cause, detail := BitVec.ofNat 32 detail, addr := addr, write := write }

/-- The trap of a core from the head of its record in an image (R401): none where CAUSE is 0. -/
def Core.loadHead (c : Core) (b : List (BitVec 8)) : Core :=
  let h := c.trapped.getD noHead
  let fl := fieldAt b 3 1
  { c with
    trapped := if fieldAt b 0 1 == 0 then none
      else some { info := loadInfo h.info (fieldAt b 0 1) (fieldAt b 4 4) (fieldAt b 16 8) false
                  src := h.srcOf (fieldAt b 1 1), clk := fieldAt b 8 8, fillErr := bitAt fl 1, noResume := bitAt fl 2 }
    waitRec := if bitAt fl 0 then (b.drop 1280).take 1056 else [] }

/-- The trap that a strand raised, from TCAUSE of its block in an image (R401). -/
def Core.loadCause (c : Core) (e : Eng) (b : List (BitVec 8)) : Core :=
  let st := c.strand e
  let n := fieldAt b 24 1
  c.setStrand e { st with
    trap := if n == 0 then none
      else some (match st.trap with
        | some t => if t.cause.toNat == n then t else trapOf n 0 0
        | none => trapOf n 0 0) }

/-- The faults of copies from the copy-fault entries of a record in an image (R401). -/
def Core.loadFaults (c : Core) (b : List (BitVec 8)) : Core :=
  ((c.copyFaults.take (fieldAt b 2 1)).zipIdx).foldl (fun c p =>
    let e := b.drop (1152 + 32 * p.2)
    let old := p.1.2.2
    let detail := if fieldAt e 3 1 == 4 || fieldAt e 3 1 == 5 then fieldAt e 2 1 else old.info.detail.toNat
    let f : CopyFault := { old with info := loadInfo old.info (fieldAt e 3 1) detail (fieldAt e 24 8) (fieldAt e 1 1 == 1)
                                    write := fieldAt e 1 1 == 1 }
    let put := fun (y : Copy) => if y.fault.isSome && y.n1 == p.1.2.1.n1 then { y with fault := some f } else y
    { c with chans := c.chans.put p.1.1 (
        let x := c.chans.at' p.1.1
        { x with queue := x.queue.map put, ending := x.ending.map put }) }) c

/-- A core with everything a state block of an image holds (R397, R401). -/
def Core.loadBlock (c : Core) (b : List (BitVec 8)) : Core :=
  let c0 := ((c.loadHead b).loadFaults b).loadRecord b
  (((c0.loadCause .a (b.drop 64)).loadCause .m (b.drop 320)).loadCause .v (b.drop 576)).loadRegs b

end Sys2Proof.Machine
end

