-- ==== Sys2Proof/Machine/Recovery.lean ====
section
/-! DEFINITION. Trap records and actions, context save and restore, uncorrectable core state and the host event ring
(spec/16, R389-R404). -/
namespace Sys2Proof.Machine

/-- Whether a core waits for what is on its way to a home, or for an instruction that runs to its end (R173, R213, R300), or for a
carry or a total (R203). -/
def State.coreBusy (s : State) (c : Core) : Bool :=
  c.strands.any Strand.midway || c.sending (fun _ => true) || ((s.place c.key).map (fun ci => s.laced ci c)).getD false || s.reqs.any (fun r => r.cores.contains c.key) || s.lists.any (fun r => r.core == c.key)

/-- CORE_FREEZE_RECORD (R389, R391, R392, R395): once in-flight work of a trapped core is finished, its record stands in
device memory at recPA, and a trap that the firmware does not resolve itself is raised. -/
def execCoreFreezeRecord (ci recPA : Nat) (s : State) : Host.Outcome State Fault Refusal :=
  match s.core? ci with
  | none => .next s
  | some c =>
    match s.task? c.task with
    | none => .next s
    | some t =>
      if c.trapped.isNone || c.record.isSome || c.killed || s.coreBusy c || t.stage.saving || 2 ^ 39 < recPA + 2560 then
        .next s
      else
        let s1 := (s.storeBytes recPA (trapRecord t c.landAll)).updCore ci (fun c => { c with record := some recPA })
        .next (if !s.mgmt.fnmode.getLsbD 0 && c.cowFaults.isSome then s1 else s1.raiseTrap ci)

/-- The task that a launch names (R424). -/
def State.namedTask (s : State) (ctx qid lseq : Nat) : Option Task :=
  s.fw.tasks.find? (fun t => t.ctx == ctx && t.qid == qid && t.lseq == lseq)

/-- The core that a payload with VCORE, CTX, QID and LSEQ names, with its task; or the DETAIL that refuses (R392, R424). -/
def State.namedCore (s : State) (vcore ctx qid lseq : Nat) : Except Nat (Task × Nat × Core) :=
  match s.namedTask ctx qid lseq with
  | none => .error 3
  | some t =>
    if t.nclus * t.ppc ≤ vcore then .error 3
    else match s.place (t.id, vcore) with
      | none => .error 4
      | some ci => match s.core? ci with
        | none => .error 3
        | some c => .ok (t, ci, c)

/-- A core that awaits an action: trapped, recorded and raised, while no save stands in the way (R392). -/
def State.trappedCore (s : State) (vcore ctx qid lseq : Nat) : Except Nat (Task × Nat × Core) :=
  match s.namedCore vcore ctx qid lseq with
  | .error d => .error d
  | .ok (t, ci, c) =>
    if t.stage.saving || c.trapped.isNone || c.record.isNone || !c.raised then .error 4 else .ok (t, ci, c)

/-- CONTINUE (R392, R424): the core goes on from its record, or from the record and the register areas that the command
names. -/
def continueBody (b : List (BitVec 8)) (s : State) : CmdRes :=
  let recPA := fieldAt b 16 8
  let stPA := fieldAt b 24 8
  match s.trappedCore (fieldAt b 0 4) (fieldAt b 4 1) (fieldAt b 6 2) (fieldAt b 8 8) with
  | .error d => .refuse d s
  | .ok (_, ci, c) =>
    let rec' := readBytes s.mem (if recPA == 0 then c.record.getD 0 else recPA) 2560
    let blk := readBytes s.mem stPA 24576
    if 2 < fieldAt b 5 1 || 2 ^ 39 < recPA + 2560 || 2 ^ 39 < stPA + 24576 then .refuse 5 s
    else if (c.trapped.map (fun h => h.noResume)).getD false then .refuse 4 s
    else if !recordOk s c rec' || (stPA != 0 && !blockOk blk) then .refuse 5 s
    else
      let c1 := c.loadRecord rec'
      .done [] ((s.setCore ci (if stPA == 0 then c1 else c1.loadRegs blk)).resumeCore ci)

/-- CONTINUE (R392): TRAPACT with action 0; an action that the spec does not give is refused. -/
def execContinue (s : State) : Host.Outcome State Fault Refusal :=
  s.command 0x06 32 [] (fun b => !(1 ≤ fieldAt b 5 1 && fieldAt b 5 1 ≤ 2)) continueBody

/-- KILLCORE (R392, R394): TRAPACT with action 1. -/
def execKillcore (s : State) : Host.Outcome State Fault Refusal :=
  s.command 0x06 32 [] (fun b => fieldAt b 5 1 == 1) (fun b s =>
    match s.trappedCore (fieldAt b 0 4) (fieldAt b 4 1) (fieldAt b 6 2) (fieldAt b 8 8) with
    | .error d => .refuse d s
    | .ok (_, ci, _) => .done [] (s.killCore ci))

/-- ENDTASK (R363, R392, R395): TRAPACT with action 2, accepted also while the task is being saved or is saved. -/
def execEndtask (s : State) : Host.Outcome State Fault Refusal :=
  s.command 0x06 32 [] (fun b => fieldAt b 5 1 == 2) (fun b s =>
    match s.namedTask (fieldAt b 4 1) (fieldAt b 6 2) (fieldAt b 8 8) with
    | none => .refuse 3 s
    | some t =>
      let core := s.peerCore t.id (fieldAt b 0 4)
      if t.nclus * t.ppc ≤ fieldAt b 0 4 then .refuse 3 s
      else if !t.stage.saving && !(core.map Core.halted).getD false then .refuse 4 s
      else .done [] (s.endTask t.id 0x31))

/-- CORESTATE (R424): the state block of a frozen core goes to DSTPA once nothing of the core is on its way (R203, R300). -/
def execCorestate (s : State) : Host.Outcome State Fault Refusal :=
  s.command 0x10 24 [(5, 1)] anyPayload (fun b s =>
    let dst := fieldAt b 16 8
    match s.namedCore (fieldAt b 0 4) (fieldAt b 4 1) (fieldAt b 6 2) (fieldAt b 8 8) with
    | .error d => .refuse d s
    | .ok (t, _, c) =>
      if !c.freeze && c.trapped.isNone then .refuse 4 s
      else if 2 ^ 39 < dst + 24576 then .refuse 5 s
      else if s.coreBusy c then .wait s
      else .done [] (s.storeBytes dst (stateBlock t c.landAll)))

/-- Bytes with their poison marks. -/
abbrev Marked := List (BitVec 8 × Bool)

/-- n bytes of memory with their marks. -/
def State.markedBytes (s : State) (a n : Nat) : Marked := tabulate n (fun i => (readByte s.mem (a + i), s.poisoned (a + i)))

/-- A strip whose issue clk count from a given one (R342). -/
def Strip.since (x : Strip) (n : Nat) : Strip := { x with idle := x.idle.map (fun k => k - n), busyTo := x.busyTo - n }

/-- A strip whose issue clk count from 0, put on a die at a given issue clk (R342). -/
def Strip.upTo (x : Strip) (n : Nat) : Strip :=
  { x with idle := x.idle.map (fun k => k + n), busyTo := x.busyTo + n }

/-- Issue clk of a physical cluster's die. -/
def State.iclkAt (s : State) (cl : Nat) : Nat := (s.dies.at' (cl / Config.clustersPerDie)).iclk

/-- The welt state of a task's cluster index (R342): the watchdog and the clk since a beat last moved count from the save. -/
def State.weltImage (s : State) (t : Task) (i : Nat) : WeltImage :=
  let k := s.clusters.at' (t.phys i)
  let n := s.iclkAt (t.phys i)
  { strips := RegFile.tab 4 (fun w => (k.strips.at' w).since n), units := k.units
    routes := tabulate t.ppc (fun j => match s.peerCore t.id (i * t.ppc + j) with
      | some c => RegFile.tab 4 (fun r => { c.routes.at' r with movedAt := s.clk - (c.routes.at' r).movedAt })
      | none => RegFile.fill 4 Route.zero)
    watch := s.clk - k.watch }

/-- The bytes of a core's copy queues in an image (R242, R397). -/
def queueBytes (x : RegFile 2 Channel) : List (BitVec 8) := tabulate 12288 (queueByte x)

/-- The bytes of a cluster's welt state in an image (R397). -/
def weltBytes (w : WeltImage) : List (BitVec 8) := tabulate 262144 (weltByte w)

/-- The core part of an image (R397). -/
def State.corePart (s : State) (t : Task) (c : Core) : Marked :=
  let tile := windowBase + t.phys (c.vcore / t.ppc) * 2 ^ 26 + c.vcore % t.ppc * Config.tileBytes
  s.markedBytes tile Config.tileBytes
    ++ unmarked ((List.range 4).flatMap (fun i => (List.range 4096).flatMap (fun k => leBytes 4 ((c.acc.at' i).elems.at' k).toNat)))
    ++ unmarked ((List.range 32).flatMap (fun i => (List.range 64).flatMap (fun k => leBytes 4 ((c.v.at' i).at' k).toNat)))
    ++ unmarked (stateBlock t c)

/-- Everything of an image behind its header (R397). -/
def State.imageBody (s : State) (t : Task) : Marked :=
  (List.range t.nclus).flatMap (fun i =>
    s.markedBytes (windowBase + t.phys i * 2 ^ 26 + 0x2000000) Config.poolBytes ++ unmarked (weltBytes (s.weltImage t i))
      ++ (List.range t.ppc).flatMap (fun j => match s.peerCore t.id (i * t.ppc + j) with
        | some c => unmarked (queueBytes c.landAll.chans)
        | none => unmarked (List.replicate 12288 0))
      ++ (List.range t.ppc).flatMap (fun j => match s.peerCore t.id (i * t.ppc + j) with
        | some c => s.corePart t c.landAll
        | none => unmarked (List.replicate 622592 0)))

/-- Bytes of a cluster part (R397). -/
def clusterPart (ppc : Nat) : Nat := 17039360 + 12288 * ppc

/-- Size of an image (R397). -/
def imageSize (n ppc : Nat) : Nat := 4096 + n * clusterPart ppc + n * ppc * 622592

/-- The header of an image behind its MAGIC (R398). -/
def imageHeader (t : Task) (clk : Nat) (dig : List (BitVec 8)) : List (BitVec 8) :=
  leBytes 2 1 ++ leBytes 1 t.nclus ++ leBytes 1 t.ppc ++ leBytes 2 t.qid ++ leBytes 1 t.ctx ++ leBytes 1 0 ++ leBytes 4 0
    ++ leBytes 8 t.lseq ++ leBytes 8 (imageSize t.nclus t.ppc) ++ leBytes 8 clk ++ dig
    ++ (List.range 56).flatMap (fun i => leBytes 8 (t.lasts.getD i 0).toNat) ++ leBytes 3576 0

/-- MAGIC of a valid image (R398). -/
abbrev imageMagic : Nat := 0x47564153

/-- Where a save may write a VA (R396): a page with R and W that needs no fill. -/
def State.saveReach (s : State) (cno va : Nat) : Option Nat :=
  match s.xlateFirm cno .store va with
  | .ok e _ a => if e.r then some a else none
  | _ => none

/-- Stores marked bytes (R399). -/
def State.storeMarked (s : State) (a : Nat) (bs : Marked) : State :=
  (bs.zipIdx).foldl (fun t p => if p.1.2 then t.mark (a + p.2) else t) (s.storeBytes a (plain bs))

/-- Writes an image part page by page: the state, and the VA of a save fault (R396, R400); fuel counts pages. -/
def State.savePages (cno : Nat) : Nat → Nat → Marked → State → State × Option Nat
  | 0, _, _, s => (s, none)
  | n + 1, va, bs, s =>
    if bs.isEmpty then (s, none)
    else
      let room := 65536 - va % 65536
      match s.saveReach cno (va % 2 ^ 52) with
      | none => (s, some (va % 2 ^ 52))
      | some a => State.savePages cno n (va + room) (bs.drop room) (s.storeMarked a (bs.take room))

/-- Writes an image part. -/
def State.savePart (s : State) (cno va : Nat) (bs : Marked) : State × Option Nat :=
  State.savePages cno (bs.length / 65536 + 2) va bs s

/-- A save aborts (R400): event 0x80 with the faulting VA, or 0x81 with the bytes written. -/
def State.abortSave (s : State) (t : Task) (typ arg : Nat) : State :=
  (s.event (t.note typ 0xFFFFFFFF arg 0)).updTask t.id (fun t => { t with stage := .aborted })

/-- A save has completed (R364, R399): the clusters are free, pins are released (R316) and the task joins its resume list. -/
def State.saved (s : State) (t : Task) : State :=
  let mine := (s.cores.filter (fun c => c.task == t.id)).map (fun c => { c.landAll with pins := [] })
  let t1 := { t with
    stage := .saved s.clk, clusters := [], slots := [], saveNo := s.fw.saves, savedCores := mine
    savedWelt := tabulate t.nclus (s.weltImage t) }
  (s.releaseClusters t).updFw (fun w => { w with
    tasks := w.tasks.filter (fun x => x.id != t.id) ++ [t1], saves := w.saves + 1 })

/-- The writes of a save in their order (R399): the state, and the event and its argument where it aborts. -/
def State.writeImage (s : State) (t : Task) : State × Option (Nat × Nat) :=
  let va := t.area.1
  let len := t.area.2
  let body := s.imageBody t
  let size := imageSize t.nclus t.ppc
  if len < 4 then (s, some (0x81, 0))
  else match s.savePart t.ctx va (unmarked (leBytes 4 0)) with
    | (s1, some f) => (s1, some (0x80, f))
    | (s1, none) =>
      match s1.savePart t.ctx (va + 4096) (body.take (len - 4096)) with
      | (s2, some f) => (s2, some (0x80, f))
      | (s2, none) =>
        if len < size then (s2, some (0x81, if len ≤ 4096 then 4 else len))
        else match s2.savePart t.ctx (va + 4) (unmarked (imageHeader t t.frozeAt (shake256 (plain body)))) with
          | (s3, some f) => (s3, some (0x80, f))
          | (s3, none) =>
            match s3.savePart t.ctx va (unmarked (leBytes 4 imageMagic)) with
            | (s4, some f) => (s4, some (0x80, f))
            | (s4, none) => (s4, none)

/-- CONTEXT_SAVE (R362, R396-R400): a frozen task with nothing on its way is saved into its area. -/
def execContextSave (t : Nat) (s : State) : Host.Outcome State Fault Refusal :=
  match s.task? t with
  | none => .next s
  | some x =>
    if x.stage != .frozen none || s.taskBusy t then .next s
    else match s.writeImage x with
      | (s1, some (typ, arg)) => .next (s1.abortSave x typ arg)
      | (s1, none) => .next (s1.saved x)

/-- Reads n bytes of an image, page by page; none where a read faults (R401); fuel counts pages. -/
def State.loadPages (s : State) (cno : Nat) : Nat → Nat → Nat → Option Marked
  | 0, _, _ => some []
  | k + 1, va, n =>
    if n == 0 then some []
    else
      let room := Nat.min n (65536 - va % 65536)
      match s.xlateFirm cno .load (va % 2 ^ 52) with
      | .ok _ _ a => (s.loadPages cno k (va + room) (n - room)).map (fun l => s.markedBytes a room ++ l)
      | _ => none

/-- Why a restore is refused, or the body of its image (R401). -/
def State.readImage (s : State) (t : Task) : Except Nat Marked :=
  let size := imageSize t.nclus t.ppc
  match s.loadPages t.ctx 3 t.area.1 4096 with
  | none => .error 4
  | some hm =>
    let h := plain hm
    if fieldAt h 0 4 != imageMagic then .error 0
    else if fieldAt h 4 2 != 1 then .error 1
    else if fieldAt h 6 1 != t.nclus || fieldAt h 7 1 != t.ppc || fieldAt h 8 2 != t.qid || fieldAt h 10 1 != t.ctx
        || fieldAt h 16 8 != t.lseq || fieldAt h 24 8 != size then .error 2
    else match s.loadPages t.ctx (size / 65536 + 2) (t.area.1 + 4096) (size - 4096) with
      | none => .error 4
      | some body => if shake256 (plain body) == (h.drop 40).take 32 then .ok body else .error 3

/-- The copy queues that an image gives: those that were saved where their bytes are the saved ones (R242, R401). -/
def loadQueues (x : RegFile 2 Channel) (b : List (BitVec 8)) : RegFile 2 Channel :=
  if b == queueBytes x then x else queuesOf b

/-- The welt state that an image gives: that which was saved where its bytes are the saved ones (R342, R401). -/
def loadWelt (w : WeltImage) (b : List (BitVec 8)) : WeltImage := if b == weltBytes w then w else weltOf b

/-- A core with its part of an image (R397, R401): q is its copy queues there. -/
def Core.loadState (c : Core) (q : RegFile 2 Channel) (b : List (BitVec 8)) : Core :=
  let word := fun (o : Nat) => BitVec.ofNat 32 (fieldAt b o 4)
  let c1 := { c with chans := q }.loadBlock (b.drop 598016)
  { c1 with
    acc := RegFile.tab 2 (fun i => { c1.acc.at' i with
      elems := RegFile.tab 12 (fun k => word (524288 + 16384 * i + 4 * k)) })
    v := RegFile.tab 5 (fun i => RegFile.tab 6 (fun k => word (589824 + 256 * i + 4 * k)))
    tlb := [] }

/-- What poisoned bytes of an image come to (R402-R404): an accumulator takes PSN, and any other state of a core, which has
no mark of its own, is uncorrectable. bad tells of bytes that the core's part does not hold. -/
def Core.loadMarks (c : Core) (bad : Bool) (b : Marked) (clk free : Nat) : Core :=
  let c1 := { c with acc := RegFile.tab 2 (fun i =>
    { c.acc.at' i with psn := (c.acc.at' i).psn || anyPsn ((b.drop (524288 + 16384 * i)).take 16384) }) }
  if bad || anyPsn (b.drop 589824) then
    { c1 with trapped := some (match c1.trapped with
        | some h => { h with noResume := true }
        | none => headOf (poisonTrap 3 0) (8 + free % 256) clk) }
  else c1

/-- A core that has been loaded (R395, R401): a trapped core stays frozen and its trap is raised again, any other resumes. -/
def Core.wake (c : Core) : Core :=
  if c.trapped.isSome then { c with record := none, raised := false, freeze := false, stopped := false } else c.resume

/-- The cores of a task from the body of an image (R401). -/
def State.loadCores (s : State) (t : Task) (body : Marked) : List Core :=
  let part := clusterPart t.ppc + t.ppc * 622592
  t.savedCores.map (fun c =>
    let i := c.vcore / t.ppc
    let j := c.vcore % t.ppc
    let mine := body.drop (part * i)
    let welt := (mine.drop Config.poolBytes).take 262144
    let q := (mine.drop (Config.poolBytes + 262144 + 12288 * j)).take 12288
    let b := (mine.drop (clusterPart t.ppc + 622592 * j)).take 622592
    let c1 := (c.loadState (loadQueues c.chans (plain q)) (plain b)).loadMarks (anyPsn welt || anyPsn q) b s.clk
      (s.free (freeKey 30 0 c.vcore))
    let w := loadWelt (t.savedWelt.getD i default) (plain welt)
    let c2 := c1.wake
    { c2 with routes := RegFile.tab 4 (fun r =>
        let x := (w.routes.getD j (RegFile.fill 4 Route.zero)).at' r
        { x with movedAt := s.clk - x.movedAt }) })

/-- The strips, transpose units and watchdogs of a task's clusters from the body of an image (R342, R401). -/
def State.loadWelts (s : State) (t : Task) (body : Marked) : State :=
  let part := clusterPart t.ppc + t.ppc * 622592
  (t.clusters.zipIdx).foldl (fun u p =>
    let w := loadWelt (t.savedWelt.getD p.2 default) (plain (((body.drop (part * p.2)).drop Config.poolBytes).take 262144))
    u.updCluster p.1 (fun k => { k with
      strips := RegFile.tab 4 (fun i => (w.strips.at' i).upTo (s.iclkAt p.1)), units := w.units, watch := s.clk - w.watch })) s

/-- The window space of a task's clusters from the body of an image (R401). -/
def State.loadWindows (s : State) (t : Task) (body : Marked) : State :=
  let part := clusterPart t.ppc + t.ppc * 622592
  (t.clusters.zipIdx).foldl (fun u p =>
    let base := windowBase + p.1 * 2 ^ 26
    let mine := body.drop (part * p.2)
    let u1 := u.storeMarked (base + 0x2000000) (mine.take Config.poolBytes)
    (List.range t.ppc).foldl (fun u j =>
      u.storeMarked (base + j * Config.tileBytes) ((mine.drop (clusterPart t.ppc + 622592 * j)).take Config.tileBytes)) u1) s

/-- RESTORE (R401): the image is checked and loaded into the clusters the task has taken, MAGIC is cleared and every strand
goes on; a refused restore ends the launch. -/
def execRestore (t : Nat) (s : State) : Host.Outcome State Fault Refusal :=
  match s.task? t with
  | none => .next s
  | some x =>
    if x.stage != .loading then .next s
    else
      let bad := fun (reason : Nat) => Host.Outcome.next ((s.event (x.note 0x82 0xFFFFFFFF reason 0)).completeTask x (some 0x31))
      match s.readImage x with
      | .error reason => bad reason
      | .ok body =>
        match s.saveReach x.ctx x.area.1 with
        | none => bad 4
        | some _ =>
          let s1 := ((s.clearMagic x).loadWindows x body).loadWelts x body
          .next ({ s1 with cores := s1.cores ++ s.loadCores x body }.updTask t (fun x =>
            { x with stage := .running, savedCores := [], savedWelt := [] }))

/-- SAVEACK (R400, R424): a task whose save aborted goes on to its drain stop point, or ends. -/
def execSaveack (s : State) : Host.Outcome State Fault Refusal :=
  s.command 0x07 32 [(4, 4)] anyPayload (fun b s =>
    match s.namedTask (fieldAt b 0 1) (fieldAt b 2 2) (fieldAt b 8 8) with
    | none => .refuse 3 s
    | some t =>
      let act := fieldAt b 1 1
      if t.stage != .aborted then .refuse 4 s
      else if 2 < act || (act == 1 && decide (2 ^ 52 ≤ fieldAt b 16 8)) then .refuse 5 s
      else if act == 2 then .done [] (s.endTask t.id 0x31)
      else
        let s1 := s.mapCores (fun c => c.task == t.id) (fun c =>
          if c.killed then { c with freeze := false }
          else if c.trapped.isSome then { c with freeze := false, stopped := false }
          else c.resume)
        let s2 := t.clusters.foldl (fun u cl => u.updCluster cl (fun k => { k with closed := false })) s1
        .done [] (s2.updTask t.id (fun t => { t with
          stage := .draining s.clk, area := if act == 1 then (fieldAt b 16 8, fieldAt b 24 8) else t.area })))

/-- UNCORRECTABLE_CORE_STATE (R404, R407): the core traps POISON with DETAIL 3 on a strand, and cannot be continued; its
slot reaches its retirement threshold. -/
def execUncorrectableCoreState (ci k : Nat) (s : State) : Host.Outcome State Fault Refusal :=
  match s.core? ci with
  | none => .next s
  | some c =>
    let e : Eng := if k % 3 == 0 then .a else if k % 3 == 1 then .m else .v
    if c.killed || c.exited then .next s
    else
      let s1 := s.reachUnit 1 (s.slotUnitOf c)
      .next ((s1.takeTrap ci e.tag (some e) (poisonTrap 3 0)).updCore ci (fun c =>
        { c with trapped := c.trapped.map (fun h => { h with noResume := true }) }))

/-- EVENT_WRITE (R393): the oldest waiting event goes to the ring where flow control allows, and vector 0 is raised. -/
def execEventWrite (s : State) : Host.Outcome State Fault Refusal :=
  match s.mgmt.events, s.mgmt.evring with
  | e :: rest, some (pa, elog) =>
    let n := s.mgmt.evcount + 1
    if s.mgmt.evcons + 2 ^ elog < n then .next s
    else
      let s1 := s.storeBytes (hostBase + pa + 64 * (n % 2 ^ elog)) (leBytes 8 n ++ e)
      .next ((s1.updMgmt (fun m => { m with events := rest, evcount := n })).raiseMsix 0)
  | _, _ => .next s

end Sys2Proof.Machine
end

