-- ==== Sys2Proof/Machine/Scalar.lean ====
section
/-! DEFINITION. The scalar block and WSET (spec/05, R113-R122), with the result bounds of R144. -/
namespace Sys2Proof.Machine

/-- sg(x) of R116. -/
def sg (x : Word) : Int := x.toInt

/-- 1 or 0. -/
def bool64 (b : Bool) : Word := if b then 1 else 0

/-- sext(IMM32) of R116. -/
def imm32 (f : FmtSI) : Word := f.imm.signExtend 64

/-- A three-register scalar instruction (R45). -/
def scalar3 (h : Hdr) (f : FmtSR) (lat : Nat) (op : Word → Word → Word) (s : State) : Host.Outcome State Fault Refusal :=
  s.scalarOp h f.sd lat (fun v s => op (s.readS v f.sa) (s.readS v f.sb))

/-- A two-register scalar instruction (R45). -/
def scalar2 (h : Hdr) (f : FmtSR) (lat : Nat) (op : Word → Word) (s : State) : Host.Outcome State Fault Refusal :=
  s.scalarOp h f.sd lat (fun v s => op (s.readS v f.sa))

/-- A scalar instruction with an immediate (R46). -/
def scalarImm (h : Hdr) (f : FmtSI) (op : Word → Word) (s : State) : Host.Outcome State Fault Refusal :=
  s.scalarOp h f.sd 2 (fun v s => op (s.readS v f.sa))

/-- floor(sg(a) sg(b) / 2^64) as 64 bits (R116). -/
def mulhi (a b : Word) : Word := BitVec.ofInt 64 (sg a * sg b / (2 ^ 64 : Nat))

/-- floor(ux(a) ux(b) / 2^64) (R116). -/
def mulhiu (a b : Word) : Word := BitVec.ofNat 64 (a.toNat * b.toNat / 2 ^ 64)

/-- Signed quotient (R117). -/
def divs (a b : Word) : Word := if b == 0 then BitVec.allOnes 64 else BitVec.ofInt 64 (Int.tdiv (sg a) (sg b))

/-- Unsigned quotient (R117). -/
def divu (a b : Word) : Word := if b == 0 then BitVec.allOnes 64 else a / b

/-- Signed remainder (R117). -/
def rems (a b : Word) : Word := if b == 0 then a else BitVec.ofInt 64 (Int.tmod (sg a) (sg b))

/-- Unsigned remainder (R117). -/
def remu (a b : Word) : Word := if b == 0 then a else a % b

/-- The amount of a shift, b[5:0] (R116). -/
def shamt (b : Word) : Nat := b.toNat % 64

/-- ADD (R116). -/
def execAdd (h : Hdr) (f : FmtSR) (s : State) := scalar3 h f 2 (fun a b => a + b) s
/-- SUB (R116). -/
def execSub (h : Hdr) (f : FmtSR) (s : State) := scalar3 h f 2 (fun a b => a - b) s
/-- MUL (R116). -/
def execMul (h : Hdr) (f : FmtSR) (s : State) := scalar3 h f 4 (fun a b => a * b) s
/-- MULH (R116). -/
def execMulh (h : Hdr) (f : FmtSR) (s : State) := scalar3 h f 4 mulhi s
/-- MULHU (R116). -/
def execMulhu (h : Hdr) (f : FmtSR) (s : State) := scalar3 h f 4 mulhiu s
/-- DIV (R117). -/
def execDiv (h : Hdr) (f : FmtSR) (s : State) := scalar3 h f 20 divs s
/-- DIVU (R117). -/
def execDivu (h : Hdr) (f : FmtSR) (s : State) := scalar3 h f 20 divu s
/-- REM (R117). -/
def execRem (h : Hdr) (f : FmtSR) (s : State) := scalar3 h f 20 rems s
/-- REMU (R117). -/
def execRemu (h : Hdr) (f : FmtSR) (s : State) := scalar3 h f 20 remu s
/-- AND (R116). -/
def execAnd (h : Hdr) (f : FmtSR) (s : State) := scalar3 h f 2 (fun a b => a &&& b) s
/-- OR (R116). -/
def execOr (h : Hdr) (f : FmtSR) (s : State) := scalar3 h f 2 (fun a b => a ||| b) s
/-- XOR (R116). -/
def execXor (h : Hdr) (f : FmtSR) (s : State) := scalar3 h f 2 (fun a b => a ^^^ b) s
/-- SHL (R116). -/
def execShl (h : Hdr) (f : FmtSR) (s : State) := scalar3 h f 2 (fun a b => a <<< shamt b) s
/-- SHR (R116). -/
def execShr (h : Hdr) (f : FmtSR) (s : State) := scalar3 h f 2 (fun a b => a >>> shamt b) s
/-- SAR (R116). -/
def execSar (h : Hdr) (f : FmtSR) (s : State) := scalar3 h f 2 (fun a b => a.sshiftRight (shamt b)) s
/-- CMPEQ (R116). -/
def execCmpeq (h : Hdr) (f : FmtSR) (s : State) := scalar3 h f 2 (fun a b => bool64 (a == b)) s
/-- CMPLT (R116). -/
def execCmplt (h : Hdr) (f : FmtSR) (s : State) := scalar3 h f 2 (fun a b => bool64 (decide (sg a < sg b))) s
/-- CMPLTU (R116). -/
def execCmpltu (h : Hdr) (f : FmtSR) (s : State) := scalar3 h f 2 (fun a b => bool64 (decide (a.toNat < b.toNat))) s
/-- SEL (R116). -/
def execSel (h : Hdr) (f : FmtSR) (s : State) :=
  s.scalarOp h f.sd 2 (fun v s => if s.readS v f.sc != 0 then s.readS v f.sa else s.readS v f.sb)
/-- MIN (R116). -/
def execMin (h : Hdr) (f : FmtSR) (s : State) := scalar3 h f 2 (fun a b => if sg a ≤ sg b then a else b) s
/-- MAX (R116). -/
def execMax (h : Hdr) (f : FmtSR) (s : State) := scalar3 h f 2 (fun a b => if sg a ≤ sg b then b else a) s
/-- MINU (R116). -/
def execMinu (h : Hdr) (f : FmtSR) (s : State) := scalar3 h f 2 (fun a b => if a.toNat ≤ b.toNat then a else b) s
/-- MAXU (R116). -/
def execMaxu (h : Hdr) (f : FmtSR) (s : State) := scalar3 h f 2 (fun a b => if a.toNat ≤ b.toNat then b else a) s
/-- MOV (R116). -/
def execMov (h : Hdr) (f : FmtSR) (s : State) := scalar2 h f 2 (fun a => a) s
/-- CLZ (R116). -/
def execClz (h : Hdr) (f : FmtSR) (s : State) := scalar2 h f 2 (fun a => BitVec.ofNat 64 (leadZeros 64 a.toNat)) s
/-- POPC (R116). -/
def execPopc (h : Hdr) (f : FmtSR) (s : State) := scalar2 h f 2 (fun a => BitVec.ofNat 64 (popCount 64 a.toNat)) s
/-- ADDI (R116). -/
def execAddi (h : Hdr) (f : FmtSI) (s : State) := scalarImm h f (fun a => a + imm32 f) s
/-- ANDI (R116). -/
def execAndi (h : Hdr) (f : FmtSI) (s : State) := scalarImm h f (fun a => a &&& imm32 f) s
/-- ORI (R116). -/
def execOri (h : Hdr) (f : FmtSI) (s : State) := scalarImm h f (fun a => a ||| imm32 f) s
/-- XORI (R116). -/
def execXori (h : Hdr) (f : FmtSI) (s : State) := scalarImm h f (fun a => a ^^^ imm32 f) s
/-- LI (R116). -/
def execLi (h : Hdr) (f : FmtSI) (s : State) := scalarImm h f (fun _ => imm32 f) s
/-- LIH (R116). -/
def execLih (h : Hdr) (f : FmtSI) (s : State) :=
  scalarImm h f (fun a => BitVec.ofNat 64 (f.imm.toNat * 2 ^ 32 + a.toNat % 2 ^ 32)) s

/-- The window base that WSET computes, before its checks (R120). -/
def wsetBase (f : FmtY) (a : Word) : Word := a + f.ops.signExtend 64

/-- WSET (R119, R120). -/
def execWset (h : Hdr) (f : FmtY) (e1 : Word) (s : State) : Host.Outcome State Fault Refusal :=
  s.issueWord h 2 noEarly noAgain (fun v s =>
    let base := (wsetBase f (s.readS v f.sa)).toNat
    let e := e1.toNat
    if 2 ^ 26 ≤ base then .trap (windowFault base) s
    else if base % 16 != 0 || bits e 23 0 % 16 != 0 then .trap (alignFault base) s
    else .done (v.putW s f.idx
      { base := BitVec.ofNat 26 base, stride := BitVec.ofNat 24 (bits e 23 0), rowsm1 := BitVec.ofNat 12 (bits e 55 44),
        colsm1 := BitVec.ofNat 12 (bits e 43 32), ty := BitVec.ofNat 4 (bits e 63 60) } 2) 2)

end Sys2Proof.Machine
end

