-- ==== Sys2Proof/Machine/Dispatch.lean ====
section
/-! DEFINITION. One arm for every row of the opcode table, each a direct call of the row's meaning. -/
namespace Sys2Proof.Machine

/-- What an instruction does in a state. -/
def exec (i : Instr) (s : State) : Host.Outcome State Fault Refusal :=
  match i with
  | .add h f => Sys2Proof.Machine.execAdd h f s
  | .sub h f => Sys2Proof.Machine.execSub h f s
  | .mul h f => Sys2Proof.Machine.execMul h f s
  | .mulh h f => Sys2Proof.Machine.execMulh h f s
  | .mulhu h f => Sys2Proof.Machine.execMulhu h f s
  | .div h f => Sys2Proof.Machine.execDiv h f s
  | .divu h f => Sys2Proof.Machine.execDivu h f s
  | .rem h f => Sys2Proof.Machine.execRem h f s
  | .remu h f => Sys2Proof.Machine.execRemu h f s
  | .and h f => Sys2Proof.Machine.execAnd h f s
  | .or h f => Sys2Proof.Machine.execOr h f s
  | .xor h f => Sys2Proof.Machine.execXor h f s
  | .shl h f => Sys2Proof.Machine.execShl h f s
  | .shr h f => Sys2Proof.Machine.execShr h f s
  | .sar h f => Sys2Proof.Machine.execSar h f s
  | .cmpeq h f => Sys2Proof.Machine.execCmpeq h f s
  | .cmplt h f => Sys2Proof.Machine.execCmplt h f s
  | .cmpltu h f => Sys2Proof.Machine.execCmpltu h f s
  | .sel h f => Sys2Proof.Machine.execSel h f s
  | .min h f => Sys2Proof.Machine.execMin h f s
  | .max h f => Sys2Proof.Machine.execMax h f s
  | .minu h f => Sys2Proof.Machine.execMinu h f s
  | .maxu h f => Sys2Proof.Machine.execMaxu h f s
  | .mov h f => Sys2Proof.Machine.execMov h f s
  | .clz h f => Sys2Proof.Machine.execClz h f s
  | .popc h f => Sys2Proof.Machine.execPopc h f s
  | .addi h f => Sys2Proof.Machine.execAddi h f s
  | .andi h f => Sys2Proof.Machine.execAndi h f s
  | .ori h f => Sys2Proof.Machine.execOri h f s
  | .xori h f => Sys2Proof.Machine.execXori h f s
  | .li h f => Sys2Proof.Machine.execLi h f s
  | .lih h f => Sys2Proof.Machine.execLih h f s
  | .wset h f e1 => Sys2Proof.Machine.execWset h f e1 s
  | .fence h f => Sys2Proof.Machine.execFence h f s
  | .waitt h f => Sys2Proof.Machine.execWaitt h f s
  | .waittTake h f => Sys2Proof.Machine.execWaittTake h f s
  | .waittSig h f => Sys2Proof.Machine.execWaittSig h f s
  | .stgacqW h f => Sys2Proof.Machine.execStgacqW h f s
  | .stgacqR h f => Sys2Proof.Machine.execStgacqR h f s
  | .stgrelW h f => Sys2Proof.Machine.execStgrelW h f s
  | .stgrelR h f => Sys2Proof.Machine.execStgrelR h f s
  | .rep h f => Sys2Proof.Machine.execRep h f s
  | .tlrd h f => Sys2Proof.Machine.execTlrd h f s
  | .itrd h f => Sys2Proof.Machine.execItrd h f s
  | .csrr h f => Sys2Proof.Machine.execCsrr h f s
  | .csrw h f => Sys2Proof.Machine.execCsrw h f s
  | .setcf h f => Sys2Proof.Machine.execSetcf h f s
  | .patch h f => Sys2Proof.Machine.execPatch h f s
  | .patchclr h f => Sys2Proof.Machine.execPatchclr h f s
  | .patchclrAll h f => Sys2Proof.Machine.execPatchclrAll h f s
  | .nop h f => Sys2Proof.Machine.execNop h f s
  | .lds h f => Sys2Proof.Machine.execLds h f s
  | .ldsW h f => Sys2Proof.Machine.execLdsW h f s
  | .sts h f => Sys2Proof.Machine.execSts h f s
  | .stsW h f => Sys2Proof.Machine.execStsW h f s
  | .ldtd h f => Sys2Proof.Machine.execLdtd h f s
  | .copy h f e1 => Sys2Proof.Machine.execCopy h f e1 s
  | .tcopy h f e1 e2 e3 => Sys2Proof.Machine.execTcopy h f e1 e2 e3 s
  | .scopy h f e1 => Sys2Proof.Machine.execScopy h f e1 s
  | .ccopyDec h f e1 => Sys2Proof.Machine.execCcopyDec h f e1 s
  | .ccopyEnc h f e1 => Sys2Proof.Machine.execCcopyEnc h f e1 s
  | .pref h f => Sys2Proof.Machine.execPref h f s
  | .coll h f e1 e2 => Sys2Proof.Machine.execColl h f e1 e2 s
  | .drain h f => Sys2Proof.Machine.execDrain h f s
  | .atom h f => Sys2Proof.Machine.execAtom h f s
  | .red h f => Sys2Proof.Machine.execRed h f s
  | .cas h f => Sys2Proof.Machine.execCas h f s
  | .stgcfg h f e1 => Sys2Proof.Machine.execStgcfg h f e1 s
  | .estim h f => Sys2Proof.Machine.execEstim h f s
  | .ipref h f => Sys2Proof.Machine.execIpref h f s
  | .ipin h f => Sys2Proof.Machine.execIpin h f s
  | .iunpin h f => Sys2Proof.Machine.execIunpin h f s
  | .wroute h f e1 e2 => Sys2Proof.Machine.execWroute h f e1 e2 s
  | .wrouteFree h f e1 e2 => Sys2Proof.Machine.execWrouteFree h f e1 e2 s
  | .wload h f => Sys2Proof.Machine.execWload h f s
  | .wstart h f => Sys2Proof.Machine.execWstart h f s
  | .wstop h f => Sys2Proof.Machine.execWstop h f s
  | .wstat h f => Sys2Proof.Machine.execWstat h f s
  | .mzero h f => Sys2Proof.Machine.execMzero h f s
  | .mident h f => Sys2Proof.Machine.execMident h f s
  | .mldacc h f => Sys2Proof.Machine.execMldacc h f s
  | .mstacc h f => Sys2Proof.Machine.execMstacc h f s
  | .mmul h f => Sys2Proof.Machine.execMmul h f s
  | .madda h f => Sys2Proof.Machine.execMadda h f s
  | .mscale h f => Sys2Proof.Machine.execMscale h f s
  | .mtrans h f => Sys2Proof.Machine.execMtrans h f s
  | .mnormFro h f => Sys2Proof.Machine.execMnormFro h f s
  | .mnormMax h f => Sys2Proof.Machine.execMnormMax h f s
  | .mnormUnit h f => Sys2Proof.Machine.execMnormUnit h f s
  | .kmovS h f => Sys2Proof.Machine.execKmovS h f s
  | .kmovK h f => Sys2Proof.Machine.execKmovK h f s
  | .kmovImm h f => Sys2Proof.Machine.execKmovImm h f s
  | .kld h f => Sys2Proof.Machine.execKld h f s
  | .mpoly h f => Sys2Proof.Machine.execMpoly h f s
  | .miter h f => Sys2Proof.Machine.execMiter h f s
  | .vld h f => Sys2Proof.Machine.execVld h f s
  | .vst h f => Sys2Proof.Machine.execVst h f s
  | .vgath h f => Sys2Proof.Machine.execVgath h f s
  | .vscat h f => Sys2Proof.Machine.execVscat h f s
  | .vmov h f => Sys2Proof.Machine.execVmov h f s
  | .vsplat h f => Sys2Proof.Machine.execVsplat h f s
  | .vextr h f => Sys2Proof.Machine.execVextr h f s
  | .vadd h f => Sys2Proof.Machine.execVadd h f s
  | .vsub h f => Sys2Proof.Machine.execVsub h f s
  | .vmul h f => Sys2Proof.Machine.execVmul h f s
  | .vfma h f => Sys2Proof.Machine.execVfma h f s
  | .vfms h f => Sys2Proof.Machine.execVfms h f s
  | .vmin h f => Sys2Proof.Machine.execVmin h f s
  | .vmax h f => Sys2Proof.Machine.execVmax h f s
  | .vabs h f => Sys2Proof.Machine.execVabs h f s
  | .vneg h f => Sys2Proof.Machine.execVneg h f s
  | .vrcp h f => Sys2Proof.Machine.execVrcp h f s
  | .vrsq h f => Sys2Proof.Machine.execVrsq h f s
  | .vsqrt h f => Sys2Proof.Machine.execVsqrt h f s
  | .vexp2 h f => Sys2Proof.Machine.execVexp2 h f s
  | .vlog2 h f => Sys2Proof.Machine.execVlog2 h f s
  | .vtanh h f => Sys2Proof.Machine.execVtanh h f s
  | .vsigm h f => Sys2Proof.Machine.execVsigm h f s
  | .vcvt h f => Sys2Proof.Machine.execVcvt h f s
  | .vbscale h f => Sys2Proof.Machine.execVbscale h f s
  | .viadd h f => Sys2Proof.Machine.execViadd h f s
  | .visub h f => Sys2Proof.Machine.execVisub h f s
  | .vimul h f => Sys2Proof.Machine.execVimul h f s
  | .vand h f => Sys2Proof.Machine.execVand h f s
  | .vor h f => Sys2Proof.Machine.execVor h f s
  | .vxor h f => Sys2Proof.Machine.execVxor h f s
  | .vshl h f => Sys2Proof.Machine.execVshl h f s
  | .vshr h f => Sys2Proof.Machine.execVshr h f s
  | .vsar h f => Sys2Proof.Machine.execVsar h f s
  | .vcmp h f => Sys2Proof.Machine.execVcmp h f s
  | .vsel h f => Sys2Proof.Machine.execVsel h f s
  | .vperm h f => Sys2Proof.Machine.execVperm h f s
  | .vbcast h f => Sys2Proof.Machine.execVbcast h f s
  | .vslide h f => Sys2Proof.Machine.execVslide h f s
  | .vred h f => Sys2Proof.Machine.execVred h f s
  | .vtopk h f => Sys2Proof.Machine.execVtopk h f s
  | .vrand h f => Sys2Proof.Machine.execVrand h f s
  | .pand h f => Sys2Proof.Machine.execPand h f s
  | .por h f => Sys2Proof.Machine.execPor h f s
  | .pxor h f => Sys2Proof.Machine.execPxor h f s
  | .pnot h f => Sys2Proof.Machine.execPnot h f s
  | .pcnt h f => Sys2Proof.Machine.execPcnt h f s
  | .pset h f e1 => Sys2Proof.Machine.execPset h f e1 s
  | .scancfg h f => Sys2Proof.Machine.execScancfg h f s
  | .scanjoin h f => Sys2Proof.Machine.execScanjoin h f s
  | .scanleave h f => Sys2Proof.Machine.execScanleave h f s
  | .scan h f => Sys2Proof.Machine.execScan h f s
  | .scantot h f => Sys2Proof.Machine.execScantot h f s
  | .append h f => Sys2Proof.Machine.execAppend h f s
  | .wlpop h f => Sys2Proof.Machine.execWlpop h f s
  | .nest h f => Sys2Proof.Machine.execNest h f s
  | .endn h f => Sys2Proof.Machine.execEndn h f s
  | .br h f => Sys2Proof.Machine.execBr h f s
  | .jmp h f => Sys2Proof.Machine.execJmp h f s
  | .jmpReg h f => Sys2Proof.Machine.execJmpReg h f s
  | .call h f => Sys2Proof.Machine.execCall h f s
  | .callReg h f => Sys2Proof.Machine.execCallReg h f s
  | .ret h f => Sys2Proof.Machine.execRet h f s
  | .exit h f => Sys2Proof.Machine.execExit h f s
  | .arrive h f => Sys2Proof.Machine.execArrive h f s
  | .waitb h f => Sys2Proof.Machine.execWaitb h f s
  | .sync h f => Sys2Proof.Machine.execSync h f s
  | .dmset h f => Sys2Proof.Machine.execDmset h f s
  | .quiesce h f => Sys2Proof.Machine.execQuiesce h f s
  | .yield h f => Sys2Proof.Machine.execYield h f s
  | .brk h f => Sys2Proof.Machine.execBrk h f s
  | .trap h f => Sys2Proof.Machine.execTrap h f s
  | .illegalWord chk => Sys2Proof.Machine.execIllegalWord chk s
  | .xPass x => Sys2Proof.Machine.execXPass x s
  | .xIdle x => Sys2Proof.Machine.execXIdle x s
  | .xAdd x => Sys2Proof.Machine.execXAdd x s
  | .xMul x => Sys2Proof.Machine.execXMul x s
  | .xFma x => Sys2Proof.Machine.execXFma x s
  | .xMax x => Sys2Proof.Machine.execXMax x s
  | .xMin x => Sys2Proof.Machine.execXMin x s
  | .xAcc x => Sys2Proof.Machine.execXAcc x s
  | .xCmp x => Sys2Proof.Machine.execXCmp x s
  | .xSel x => Sys2Proof.Machine.execXSel x s
  | .xCvt x => Sys2Proof.Machine.execXCvt x s
  | .xScale x => Sys2Proof.Machine.execXScale x s
  | .xLut x => Sys2Proof.Machine.execXLut x s
  | .stripEndMark cl ws => Sys2Proof.Machine.execStripEndMark cl ws s
  | .moBeat ci rt => Sys2Proof.Machine.execMoBeat ci rt s
  | .voSlot ci rt => Sys2Proof.Machine.execVoSlot ci rt s
  | .viSlot ci rt dst => Sys2Proof.Machine.execViSlot ci rt dst s
  | .transposeBlock cl u => Sys2Proof.Machine.execTransposeBlock cl u s
  | .routeDone ci rt => Sys2Proof.Machine.execRouteDone ci rt s
  | .watchdogExpiry ctx cl => Sys2Proof.Machine.execWatchdogExpiry ctx cl s
  | .waitStandstill ctx => Sys2Proof.Machine.execWaitStandstill ctx s
  | .copyRun ci ch w => Sys2Proof.Machine.execCopyRun ci ch w s
  | .phaseCopySlot ci ch => Sys2Proof.Machine.execPhaseCopySlot ci ch s
  | .timelineComplete ci tl => Sys2Proof.Machine.execTimelineComplete ci tl s
  | .tcopyStageRelease ci ch => Sys2Proof.Machine.execTcopyStageRelease ci ch s
  | .pageFill ctx va => Sys2Proof.Machine.execPageFill ctx va s
  | .fillDone ctx va frame ok => Sys2Proof.Machine.execFillDone ctx va frame ok s
  | .cowResolve ci frame => Sys2Proof.Machine.execCowResolve ci frame s
  | .homeAtomic n => Sys2Proof.Machine.execHomeAtomic n s
  | .mergeBufferForward n => Sys2Proof.Machine.execMergeBufferForward n s
  | .homeMigrationWindow => Sys2Proof.Machine.execHomeMigrationWindow s
  | .homeListOp n => Sys2Proof.Machine.execHomeListOp n s
  | .barrierRelease ci lvl remote => Sys2Proof.Machine.execBarrierRelease ci lvl remote s
  | .quiesceDecision ci q => Sys2Proof.Machine.execQuiesceDecision ci q s
  | .scanJoinDecision ci j => Sys2Proof.Machine.execScanJoinDecision ci j s
  | .scanCarryArrival ci y => Sys2Proof.Machine.execScanCarryArrival ci y s
  | .scanTotalArrival ci g => Sys2Proof.Machine.execScanTotalArrival ci g s
  | .coreFreezeRecord ci recPA => Sys2Proof.Machine.execCoreFreezeRecord ci recPA s
  | .eventWrite => Sys2Proof.Machine.execEventWrite s
  | .kick qid seq => Sys2Proof.Machine.execKick qid seq s
  | .evcons v => Sys2Proof.Machine.execEvcons v s
  | .registerWriteIgnored off data => Sys2Proof.Machine.execRegisterWriteIgnored off data s
  | .hostPostedWrite bar addr data poisoned => Sys2Proof.Machine.execHostPostedWrite bar addr data poisoned s
  | .unsupportedRequest kind => Sys2Proof.Machine.execUnsupportedRequest kind s
  | .qsWake => Sys2Proof.Machine.execQsWake s
  | .qsPeriodicWake => Sys2Proof.Machine.execQsPeriodicWake s
  | .selection => Sys2Proof.Machine.execSelection s
  | .bind place => Sys2Proof.Machine.execBind place s
  | .peerJobStart job => Sys2Proof.Machine.execPeerJobStart job s
  | .shareReport ci => Sys2Proof.Machine.execShareReport ci s
  | .launchComplete t => Sys2Proof.Machine.execLaunchComplete t s
  | .queueAudit qid => Sys2Proof.Machine.execQueueAudit qid s
  | .drainStopPoint t => Sys2Proof.Machine.execDrainStopPoint t s
  | .drainLimitExpiry t => Sys2Proof.Machine.execDrainLimitExpiry t s
  | .checkpoint t => Sys2Proof.Machine.execCheckpoint t s
  | .kill t => Sys2Proof.Machine.execKill t s
  | .contextSave t => Sys2Proof.Machine.execContextSave t s
  | .resumeBind t place => Sys2Proof.Machine.execResumeBind t place s
  | .restore t => Sys2Proof.Machine.execRestore t s
  | .invalRange cmd => Sys2Proof.Machine.execInvalRange cmd s
  | .invalAsid cmd => Sys2Proof.Machine.execInvalAsid cmd s
  | .invalAll cmd => Sys2Proof.Machine.execInvalAll cmd s
  | .invalAck => Sys2Proof.Machine.execInvalAck s
  | .registerObject base => Sys2Proof.Machine.execRegisterObject base s
  | .deregisterObject => Sys2Proof.Machine.execDeregisterObject s
  | .registerQueue => Sys2Proof.Machine.execRegisterQueue s
  | .setPbias => Sys2Proof.Machine.execSetPbias s
  | .setContextDescriptor => Sys2Proof.Machine.execSetContextDescriptor s
  | .setTimeShareTable => Sys2Proof.Machine.execSetTimeShareTable s
  | .continue => Sys2Proof.Machine.execContinue s
  | .killcore => Sys2Proof.Machine.execKillcore s
  | .endtask => Sys2Proof.Machine.execEndtask s
  | .saveack => Sys2Proof.Machine.execSaveack s
  | .resync => Sys2Proof.Machine.execResync s
  | .qreset => Sys2Proof.Machine.execQreset s
  | .fnset => Sys2Proof.Machine.execFnset s
  | .fnmodeApply b => Sys2Proof.Machine.execFnmodeApply b s
  | .attest => Sys2Proof.Machine.execAttest s
  | .evring => Sys2Proof.Machine.execEvring s
  | .mapq => Sys2Proof.Machine.execMapq s
  | .retire frame base => Sys2Proof.Machine.execRetire frame base s
  | .setduty => Sys2Proof.Machine.execSetduty s
  | .corestate => Sys2Proof.Machine.execCorestate s
  | .unknownCommand => Sys2Proof.Machine.execUnknownCommand s
  | .frameRetire old frame base => Sys2Proof.Machine.execFrameRetire old frame base s
  | .uncorrectableCoreState ci k => Sys2Proof.Machine.execUncorrectableCoreState ci k s
  | .patrolScrub found => Sys2Proof.Machine.execPatrolScrub found s
  | .shareWindow => Sys2Proof.Machine.execShareWindow s
  | .powerCapAdjust watts duties => Sys2Proof.Machine.execPowerCapAdjust watts duties s
  | .thermalAction die tenths => Sys2Proof.Machine.execThermalAction die tenths s
  | .thermalPowerOff => Sys2Proof.Machine.execThermalPowerOff s
  | .telemetryPeriod watts tenths => Sys2Proof.Machine.execTelemetryPeriod watts tenths s
  | .coldReset fuses pkg others images => Sys2Proof.Machine.execColdReset fuses pkg others images s
  | .functionLevelReset => Sys2Proof.Machine.execFunctionLevelReset s
  | .walkedWord w => Sys2Proof.Machine.execWalkedWord w s
  | .coreSlotRetirement die cl slot => Sys2Proof.Machine.execCoreSlotRetirement die cl slot s
  | .clusterHardFailure die cl => Sys2Proof.Machine.execClusterHardFailure die cl s
  | .remoteCopyArrival kind job cl addr data => Sys2Proof.Machine.execRemoteCopyArrival kind job cl addr data s
  | .dieToDieLinkFailure edge => Sys2Proof.Machine.execDieToDieLinkFailure edge s
  | .scaleOutPortFailure port => Sys2Proof.Machine.execScaleOutPortFailure port s
  | .powerDeliveryTrip => Sys2Proof.Machine.execPowerDeliveryTrip s

end Sys2Proof.Machine
end

