-- ==== Sys2Proof/Machine/Tick.lean ====
section
/-! DEFINITION. The passing of time, who moves next (log entries 1 and 4), and how an instruction is placed for the next
step (log entry 40). -/
namespace Sys2Proof.Machine

/-- Issue clk among the first n clk of a die whose duty is d: clk 0 to d - 1 of each group of 64 (R385). -/
def issueClks (d n : Nat) : Nat := n / 64 * d + min (n % 64) d

/-- A merge buffer holds no entry for more than 64 clk (R273). -/
def HomeReq.age (r : HomeReq) (clk : Nat) : HomeReq := if r.since + 64 ≤ clk then { r with sent := true } else r

/-- Time passes by some clk: each die counts its issue clk (R63, R385), merge buffers forward their entries (R273), and a
freeze that is not complete goes on (R398). -/
def State.pass (s : State) (dt : Nat) : State :=
  { s with
    clk := s.clk + dt
    reqs := s.reqs.map (fun r => r.age (s.clk + dt))
    fw := { s.fw with tasks := s.fw.tasks.map (fun t => if s.freezing t then { t with frozeAt := s.clk + dt } else t) }
    dies := RegFile.tab 3 (fun i =>
      let d := s.dies.at' i
      { d with iclk := d.iclk + (issueClks d.duty (s.clk + dt) - issueClks d.duty s.clk) }) }

/-- Who moves next (log entry 1). -/
def State.turn (s : State) : Turn :=
  match s.agenda with
  | t :: _ => t
  | [] => agentAt s.freeIx

/-- Whether the module has no supply and the next agent is not a cold reset (R406, R427, R428). -/
def State.stuck (s : State) : Bool :=
  !s.mgmt.powered && (match s.turn.who with
    | .event (.coldReset _ _ _ _) => false
    | _ => true)

/-- The agent of this step moves: time passes, the agenda advances, and free values are drawn anew. -/
def State.nextMove (s : State) : Move :=
  let t := s.turn
  let s1 := { s.pass t.dt with agenda := s.agenda.tail, freeIx := s.freeIx + 1 }
  match t.who with
  | .strand ci e b => { s1 with actor := .strand ci e b }.nextInstr ci e
  | .strip cl ws => { s1 with actor := .strip cl ws }.nextStrip cl ws
  | .event i => .run i { s1 with actor := .none }

/-- A kernel-table entry and header of an object that declares every profile (R75-R77). -/
def placedObject : List (BitVec 8) :=
  leBytes 8 0 ++ leBytes 8 64 ++ leBytes 48 0 ++ leBytes 16 0 ++ leBytes 8 0x4131211101 ++ leBytes 40 0

/-- VA and device physical address of the placed text. -/
abbrev placedText : Nat := 0x10000

/-- The task that the placed text belongs to: one core on cluster 0. -/
def placedTask (id : Nat) : Task :=
  { id := id, ctx := 0, qid := 0, lseq := 0, obj := 0, kern := 0, launch := [], nclus := 1, ppc := 1, clusters := [0],
    slots := [[0]], lasts := [], set := Context.zero, prio := 0, late := 0, boundAt := 0, stage := .running, area := (0, 0),
    frozeAt := 0, saveNo := 0, savedCores := [], savedWelt := [] }

/-- An instruction word and its extension words as the text of a new core, with page tables that map it. -/
def State.placeText (s : State) (w : Nat) : State :=
  let e : Eng := match (w / 2 ^ 61) % 8 with
    | 1 => .m
    | 2 => .v
    | _ => .a
  let s1 := ((s.storeNat placedText 32 w).storeNat 0x1000 8 (2 ^ 63 + 0x2000)).storeNat 0x2000 8
    (2 ^ 63 + 2 ^ 62 + 2 ^ 61 + 2 ^ 59)
  let id := s.fw.nextTask
  { s1 with
    cores := [Core.start id 0 (BitVec.ofNat 52 placedText) 1 0 0 0 0 0]
    fw := { s1.fw with
      contexts := s1.fw.contexts.put 0 { s1.fw.contexts.at' 0 with valid := true, root := 0x1000 }
      objects := [{ id := 0, ctx := 0, bytes := placedObject, frames := [] }]
      tasks := [placedTask id], nextTask := id + 1 }
    agenda := [{ dt := 0, who := .strand 0 e 0 }] }

/-- A strip word as the program of strip 0 of cluster 0, on a running route of a core there, with a beat waiting. -/
def State.placeStrip (s : State) (w : Nat) : State :=
  let s1 := s.placeText 0
  let beat : Beat := { lanes := RegFile.fill 6 0, psn := false }
  let s2 := s1.updCore 0 (fun c => { c with routes := c.routes.put 0 { c.routes.at' 0 with
    mode := .run, src := 0x140, strips := [0], dkind := 4, dests := [0], links := [{ cap := 32, items := [some beat] }],
    outs := [{ cap := 32, items := [] }], dstSeq := [0], dstPos := [0], num := 1 } })
  { s2.updCluster 0 (fun k => { k with strips := k.strips.put 0 { k.strips.at' 0 with
      prog := [BitVec.ofNat 32 w], left := 1 } }) with
    agenda := [{ dt := 0, who := .strip 0 0 }] }

/-- The state with an instruction of a given width placed. -/
def State.placeWord (s : State) (nbits w : Nat) : State :=
  if nbits ≤ 32 then s.placeStrip w else s.placeText w

end Sys2Proof.Machine
end

