-- ==== Sys2Proof/Machine/Step.lean ====
section
/-! DEFINITION. One step of the module: clk pass, then a strand, a strip or an event moves (log entries 1 and 4). -/
namespace Sys2Proof.Machine

/-- A move executes its instruction, or is over. -/
def runMove (m : Move) : Host.Outcome State Fault Refusal :=
  match m with
  | .run i s => exec i s
  | .stay s => .next s

/-- One step. A module without supply moves only by COLD_RESET (R406, R427, R428). -/
def step (s : State) : Host.Outcome State Fault Refusal :=
  if s.stuck then .fault .poweredOff else runMove s.nextMove

/-- The state with an instruction placed where step runs it next: instruction words as the text of a task's core with
the strand that executes it next on the agenda, a strip word as the program of a strip of a running route. -/
def State.withFetchWord (s : State) (nbits w : Nat) : State := s.placeWord nbits w

end Sys2Proof.Machine
end

