-- ==== Sys2Proof/Safety.lean ====
section
/-! DEFINITION. The terms that claims about the model use: the invariant of memory, a strand that is ready to issue,
what retirement leaves of a core, and what reaches a register. -/
namespace Sys2Proof.Machine

/-- The invariant of every state: memory stands in its canonical form. -/
abbrev State.Inv (s : State) : Prop := Memory.wf s.mem = true

/-- Every byte of memory reads as before. -/
def SameMem (s t : State) : Prop := ∀ a, readByte t.mem a = readByte s.mem a

/-- Every byte outside some addresses reads as before. -/
def SameMemBut (s t : State) (as : List Nat) : Prop := ∀ a, a ∉ as → readByte t.mem a = readByte s.mem a

/-- The strand that moves stands at a fresh instruction, every counter that it pops holds a token (R298), and no trap has
frozen its core (R389). -/
structure Ready (s : State) (h : Hdr) (v : At) : Prop where
  actor : s.at? = some v
  fresh : v.st.busy = false
  tokens : v.c.lacking (popsOf h v.e) = none
  runs : v.c.trapped = none

/-- Nothing but the cores changes, and of them only the one at a place, which becomes d. -/
structure OnlyCore (s t : State) (ci : Nat) (d : Core) : Prop where
  rest : t = { s with cores := t.cores }
  others : ∀ j, j ≠ ci → t.core? j = s.core? j
  core : t.core? ci = some d

/-- The fields of a strand that issue and retirement change, put back. -/
def Strand.undo (old new : Strand) : Strand :=
  { new with pc := old.pc, dwc := old.dwc, rsn := old.rsn, repn := old.repn, held := old.held, busy := old.busy,
             synced := old.synced, wait := old.wait, fillBad := old.fillBad, pushes := old.pushes }

/-- The fields of a core that issue and retirement change, put back: the strand that executed, the token counters and
the issue clk of the V strand. -/
def Core.undo (old : Core) (e : Eng) (new : Core) : Core :=
  { new.setStrand e (old.strand e) with tokens := old.tokens, vnext := old.vnext }

/-- The same with the results in flight, for an instruction with a result bound (R64). -/
def Core.undoV (old : Core) (e : Eng) (new : Core) : Core := { old.undo e new with flights := old.flights }

/-- What issue leaves (R63, R298, R390): counters popped, a sequence number taken, waits ended, the rest of the strand
kept. -/
structure Issued (s : State) (h : Hdr) (v : At) (dly : Nat) (d : Core) : Prop where
  pops : ∀ k, d.tokens.read k = v.c.tokens.read k - (if k ∈ popsOf h v.e then 1 else 0)
  number : (d.strand v.e).rsn = v.st.rsn + 1
  ready : (d.strand v.e).wait = .none ∧ (d.strand v.e).busy = false
  keeps : v.st.undo (d.strand v.e) = v.st
  delay : d.vnext = if v.e = .v then s.iclk v.c + 1 + dly else v.c.vnext

/-- What retirement leaves of the strand (R40, R66, R314): the PC and dwc advance over len words and the pushes follow
in order; under REP only the last repetition advances, over the REP word too, and adds the pushes of the REP. -/
structure Retires (s : State) (h : Hdr) (len : Nat) (v : At) (d : Core) : Prop where
  issued : Issued s h v h.dly.toNat d
  plain : v.st.rep v.e = none →
    (d.strand v.e).pc = v.st.pc + BitVec.ofNat 52 (8 * len) ∧ (d.strand v.e).dwc = v.st.dwc + BitVec.ofNat 64 len ∧
    (d.strand v.e).pushes.map Push.ctr = v.st.pushes.map Push.ctr ++ pushesOf h v.e
  again : ∀ t n outer, v.st.rep v.e = some (t, n, outer) → t + 1 < n →
    (d.strand v.e).pc = v.st.pc ∧ (d.strand v.e).dwc = v.st.dwc ∧
    (d.strand v.e).repn = BitVec.ofNat 7 (n - 1 - t) ∧
    (d.strand v.e).pushes.map Push.ctr = v.st.pushes.map Push.ctr ++ pushesOf h v.e
  last : ∀ t n outer, v.st.rep v.e = some (t, n, outer) → ¬ t + 1 < n →
    (d.strand v.e).pc = v.st.pc + BitVec.ofNat 52 (8 * (1 + len)) ∧
    (d.strand v.e).dwc = v.st.dwc + BitVec.ofNat 64 (1 + len) ∧ (d.strand v.e).repn = 0 ∧
    (d.strand v.e).pushes.map Push.ctr = v.st.pushes.map Push.ctr ++ pushesOf h v.e ++ outer

/-- A control transfer has issued and the strand goes on at a target (R296, R305): dwc counts the words passed. -/
structure Jumps (s : State) (h : Hdr) (len : Nat) (target : BitVec 52) (v : At) (d : Core) : Prop where
  issued : Issued s h v 0 d
  pc : (d.strand v.e).pc = target
  dwc : (d.strand v.e).dwc = v.st.dwc + BitVec.ofNat 64 len

/-- A V instruction has put one result in flight to a destination, with a bound of lat issue clk (R64): it lands at an issue
clk within the bound, and the instruction's pushes fall due then (R66). Another strand's results are there at once. -/
def Flies (s : State) (v : At) (dest : Dest) (lanes : BitVec 64) (lat : Nat) (old : Old) (d : Core) : Prop :=
  (v.e ≠ .v → d.flights = v.c.flights) ∧
  (v.e = .v → ∃ land, (0 < lat → s.iclk v.c < land) ∧ land ≤ s.iclk v.c + lat ∧
    d.flights = { dest := dest, lanes := lanes, landAt := s.iclk v.c + lat, seenAt := land, old := old } :: v.c.flights ∧
    ∀ p, p ∈ (d.strand .v).pushes.drop v.st.pushes.length → p.due = land)

/-- x reaches scalar register sd with a bound of lat issue clk (R41, R64, R65): s0 discards it; where a result to sd is
in flight the register ends with either. Every other scalar register keeps its value. -/
structure ToS (s : State) (v : At) (sd : BitVec 5) (x : Word) (lat : Nat) (d : Core) : Prop where
  keeps : ∀ r, r ≠ sd ∨ sd = 0 → d.s.read r = v.c.s.read r
  value : sd ≠ 0 → v.c.flight? (s.iclk v.c) (.s sd) = none → d.s.read sd = x
  overlap : sd ≠ 0 → d.s.read sd = x ∨ d.s.read sd = v.c.s.read sd
  zero : sd = 0 → d.flights = v.c.flights
  bound : sd ≠ 0 → Flies s v (.s sd) 1 lat (.s (v.c.s.read sd)) d

/-- g j reaches element j, of w bits, of vector register vd in the lanes of a mask, with a bound (R64, R65, R123, R125):
the other lanes and registers keep their values; where a result to vd is in flight a lane ends with either. -/
structure ToV (s : State) (v : At) (vd : BitVec 5) (lanes : BitVec 64) (w : Nat) (g : Nat → Nat) (lat : Nat) (d : Core) :
    Prop where
  keeps : ∀ r, r ≠ vd → d.v.read r = v.c.v.read r
  masked : ∀ i, i < 64 → lanes.getLsbD i = false → (d.v.read vd).at' i = (v.c.v.read vd).at' i
  value : v.c.flight? (s.iclk v.c) (.v vd) = none →
    ∀ j, j < 2048 / w → lanes.getLsbD (j * w / 32) = true → elemOf w (d.v.read vd) j = g j % 2 ^ w
  overlap : ∀ i, i < 64 → (d.v.read vd).at' i = (v.c.v.read vd).at' i ∨
    ∀ j, j * w / 32 = i → elemOf w (d.v.read vd) j = g j % 2 ^ w
  bound : Flies s v (.v vd) lanes lat .none d

/-- The bits of a mask of x reach predicate register pd, with a bound (R64, R65, R139, R143). -/
structure ToP (s : State) (v : At) (pd : BitVec 3) (lanes x : BitVec 64) (lat : Nat) (d : Core) : Prop where
  keeps : ∀ r, r ≠ pd → d.p.read r = v.c.p.read r
  masked : ∀ i, i < 64 → lanes.getLsbD i = false → (d.p.read pd).getLsbD i = (v.c.p.read pd).getLsbD i
  value : ∀ i, i < 64 → lanes.getLsbD i = true → v.c.flight? (s.iclk v.c) (.p pd) = none →
    (d.p.read pd).getLsbD i = x.getLsbD i
  bound : Flies s v (.p pd) lanes lat .none d

/-- An instruction of a strand completes: it answers a next state in which nothing but the strand's core changed, that
core retired len words, and the rest of the core is as a relation says. -/
def Completes (i : Instr) (s : State) (h : Hdr) (len : Nat) (v : At) (rel : Core → Prop) : Prop :=
  ∃ t d, exec i s = .next t ∧ OnlyCore s t v.ci d ∧ SameMem s t ∧ Retires s h len v d ∧ rel d

/-- An instruction completes and writes one scalar register, which the strand may write (R113); nothing else of the core
changes. -/
def CompletesS (i : Instr) (s : State) (h : Hdr) (v : At) (sd : BitVec 5) (lat : Nat) (x : Word) : Prop :=
  Completes i s h 1 v (fun d => ToS s v sd x lat d ∧ { v.c.undoV v.e d with s := v.c.s } = v.c)

/-- From s to t an instruction has completed and written one scalar register, with a bound; nothing else of the core
changes. -/
def WroteS (s t : State) (h : Hdr) (v : At) (sd : BitVec 5) (lat : Nat) (x : Word) (d : Core) : Prop :=
  OnlyCore s t v.ci d ∧ SameMem s t ∧ Retires s h 1 v d ∧ ToS s v sd x lat d ∧ { v.c.undoV v.e d with s := v.c.s } = v.c

/-- An instruction completes and writes elements of one vector register; nothing else of the core changes. -/
def CompletesV (i : Instr) (s : State) (h : Hdr) (v : At) (vd : BitVec 5) (lanes : BitVec 64) (w lat : Nat)
    (g : Nat → Nat) : Prop :=
  v.tyCheck i = none → Completes i s h 1 v (fun d => ToV s v vd lanes w g lat d ∧ { v.c.undoV v.e d with v := v.c.v } = v.c)

/-- An instruction completes and writes bits of one predicate register; nothing else of the core changes. -/
def CompletesP (i : Instr) (s : State) (h : Hdr) (len : Nat) (v : At) (pd : BitVec 3) (lanes x : BitVec 64) (lat : Nat) :
    Prop :=
  Completes i s h len v (fun d => ToP s v pd lanes x lat d ∧ { v.c.undoV v.e d with p := v.c.p } = v.c)

/-- An instruction completes with stores to the bytes of a list of addresses: every other byte reads as before, poison
marks may only be cleared, no other core changes and this one retires len words. -/
def CompletesStore (i : Instr) (s : State) (h : Hdr) (len : Nat) (v : At) (as : List Nat) (rel : State → Core → Prop) :
    Prop :=
  ∃ t d, exec i s = .next t ∧ t = { s with cores := t.cores, mem := t.mem, poison := t.poison, watched := t.watched } ∧
    (∀ j, j ≠ v.ci → t.core? j = s.core? j) ∧ t.core? v.ci = some d ∧ Retires s h len v d ∧
    SameMemBut s t as ∧ (∀ g, g ∈ t.poison → g ∈ s.poison) ∧ rel t d

/-- The addresses of the bytes of an element of a window, as the strand reaches them (R121). -/
def At.elemBytes (v : At) (s : State) (w : Window) (t : Fmt) (r c : Nat) : List Nat :=
  match s.elemAddrs v.c w t r c with
  | .ok as => as
  | .error _ => []

/-- The number that an M instruction takes on tl3 is done when it retires (R148, R228). -/
def TakesM (v : At) (d : Core) : Prop :=
  (d.tls.at' 3).iss = (v.c.tls.at' 3).iss + 1 ∧
  ((v.c.tls.at' 3).comp = (v.c.tls.at' 3).iss → (v.c.tls.at' 3).dones = [] → (v.c.tls.at' 3).iss.toNat + 1 < 2 ^ 64 →
    (d.tls.at' 3).comp = (d.tls.at' 3).iss ∧ (d.tls.at' 3).dones = []) ∧
  ∀ k, k < 8 → k ≠ 3 → d.tls.at' k = v.c.tls.at' k

/-- No MMUL and no MITER is suspended (R162, R170). -/
def At.settledM (v : At) : Prop := v.c.mmulOpen = false ∧ v.c.miterOpen = false

/-- An M instruction with nothing suspended completes and changes no register but accumulators and coefficients. -/
def CompletesM (i : Instr) (s : State) (h : Hdr) (v : At) (rel : Core → Prop) : Prop :=
  v.tyCheck i = none → v.settledM →
    Completes i s h 1 v (fun d => TakesM v d ∧ { v.c.undo v.e d with acc := v.c.acc, k := v.c.k, tls := v.c.tls } = v.c ∧ rel d)

/-- The accumulator d gets the elements of a function and a tag, its PSN is clear, and the other accumulators and every
coefficient keep their values (R146). -/
def ToAcc (v : At) (acd : BitVec 2) (tag : Bool) (g : Nat → Nat → Nat) (d : Core) : Prop :=
  (∀ i j, i < 64 → j < 64 → (d.acc.read acd).el i j = g i j % 2 ^ 32) ∧ (d.acc.read acd).tag = tag ∧
  (d.acc.read acd).psn = false ∧ (∀ a, a ≠ acd → d.acc.read a = v.c.acc.read a)

/-- An instruction traps: the core freezes with this cause in the strand's block (R389), and memory is as it was. -/
def Traps (i : Instr) (s : State) (v : At) (x : TrapInfo) : Prop :=
  exec i s = .next (s.takeTrap v.ci v.e.tag (some v.e) x)

/-- The same strand at a core whose copies of a flag hold a value that has just been written (R301). -/
def At.withFlag (v : At) (n : Nat) (f : Bool) : At :=
  { v with c := v.c.writeFlag n f, st := (v.c.writeFlag n f).strand v.e }

/-- The same strand with other contents, in the same core. -/
def At.withStrand (v : At) (st : Strand) : At := { v with c := v.c.setStrand v.e st, st := st }

/-- An instruction completes, and beside what retirement changes only the contents of its own strand change, to st. -/
def CompletesStrand (i : Instr) (s : State) (h : Hdr) (v : At) (st : Strand) : Prop :=
  ∃ t d, exec i s = .next t ∧ OnlyCore s t v.ci d ∧ SameMem s t ∧ Retires s h 1 (v.withStrand st) d ∧
    (v.withStrand st).c.undo v.e d = (v.withStrand st).c

/-- From s to t a strand goes on behind its word: beside what retirement changes only its own contents change, to st. -/
def FallsThrough (s t : State) (h : Hdr) (v : At) (st : Strand) (d : Core) : Prop :=
  OnlyCore s t v.ci d ∧ SameMem s t ∧ Retires s h 1 (v.withStrand st) d ∧
  (v.withStrand st).c.undo v.e d = (v.withStrand st).c

/-- From s to t a strand goes on at a target: only its own contents change, to st. -/
def GoesTo (s t : State) (h : Hdr) (v : At) (target : BitVec 52) (st : Strand) (d : Core) : Prop :=
  OnlyCore s t v.ci d ∧ SameMem s t ∧ Jumps s h 1 target (v.withStrand st) d ∧
  (v.withStrand st).c.undo v.e d = (v.withStrand st).c

/-- A control transfer goes to a target; only its own strand, with the contents st, and registers that a relation names
change. -/
def TransfersTo (i : Instr) (s : State) (h : Hdr) (v : At) (target : BitVec 52) (st : Strand) (rel : Core → Prop) : Prop :=
  ∃ t d, exec i s = .next t ∧ OnlyCore s t v.ci d ∧ SameMem s t ∧ Jumps s h 1 target (v.withStrand st) d ∧ rel d

/-- An instruction completes and changes nothing beside what retirement changes. -/
def CompletesPlain (i : Instr) (s : State) (h : Hdr) (v : At) : Prop :=
  Completes i s h 1 v (fun d => v.c.undo v.e d = v.c)

/-- An instruction has not issued: only what its strand waits for is noted (R30, R298). -/
def Waits (i : Instr) (s : State) (v : At) (w : Wait) : Prop := exec i s = .next (s.waitOn v.ci v.e w)

/-- An access by VA completes: only memory, poison marks, the strand's core and the translations that its cluster and the
walker of its die hold change, the core retires one word, and bytes outside a list of addresses read as before. -/
def CompletesAccess (i : Instr) (s : State) (h : Hdr) (v : At) (as : List Nat) (rel : State → Core → Prop) : Prop :=
  ∃ t d, exec i s = .next t ∧
    t = { s with cores := t.cores, clusters := t.clusters, dies := t.dies, mem := t.mem, poison := t.poison, watched := t.watched } ∧
    (∀ k, { t.clusters.at' k with tlb := (s.clusters.at' k).tlb } = s.clusters.at' k) ∧
    (∀ k, { t.dies.at' k with walks := (s.dies.at' k).walks } = s.dies.at' k) ∧
    (∀ j, j ≠ v.ci → t.core? j = s.core? j) ∧ t.core? v.ci = some d ∧ Retires s h 1 v d ∧
    SameMemBut s t as ∧ (∀ g, g ∈ t.poison → g ∈ s.poison) ∧ rel t d

/-- An access by VA traps for its translation: beside the trap, the walker of the core's die may hold the entries that led to
it (R377). -/
def TrapsAt (i : Instr) (s : State) (v : At) (x : TrapInfo) : Prop :=
  exec i s = .next ((s.holdFault v.ci x).takeTrap v.ci v.e.tag (some v.e) x)

/-- An access in parts has issued (R213, R214): nothing is performed yet, and its strand is to perform these parts. -/
def StartsParts (i : Instr) (s : State) (h : Hdr) (v : At) (x : Split) : Prop :=
  ∃ t d, exec i s = .next t ∧ SameMem s t ∧ t.core? v.ci = some d ∧ d.split = some x ∧ (d.strand v.e).busy = true ∧
    (d.strand v.e).wait = .midway ∧ (d.strand v.e).pc = v.st.pc ∧ (d.strand v.e).rsn = v.st.rsn + 1 ∧ d.s = v.c.s ∧
    d.d = v.c.d ∧ ∀ k, d.tokens.read k = v.c.tokens.read k - (if k ∈ popsOf h v.e then 1 else 0)

/-- A strand performs one part of its access, the first one where the parts are ordered, else any of those left (R213): the
others stay, and the last one ends the instruction, with all the bytes read. -/
def DoesPart (i : Instr) (s : State) (v : At) (x : Split) (write : Bool) (last : Core → List (Nat × BitVec 8) → Prop) : Prop :=
  ∃ k t d, k < x.todo.length ∧ (x.ordered = true → k = 0) ∧ exec i s = .next t ∧ t.core? v.ci = some d ∧
    let part := x.todo.getD k []
    let got := x.got ++ part.map (fun b => (b.1, readByte s.mem b.2.1))
    t.mem = (if write then writeCells s.mem (part.map (fun b => b.2)) else s.mem) ∧
    (1 < x.todo.length → d.split = some { x with todo := x.todo.eraseIdx k, got := got } ∧ (d.strand v.e).busy = true ∧
      (d.strand v.e).pc = v.st.pc) ∧
    (x.todo.length = 1 → d.split = none ∧ (d.strand v.e).busy = false ∧ (d.strand v.e).pc = v.st.pc + 8 ∧
      (d.strand v.e).dwc = v.st.dwc + 1 ∧ last d got)

/-- An access stands at a page that is being filled (R266): the fill is wanted, the walker holds the entries that led to it
(R377), and the strand waits for it. -/
def WaitsForFill (i : Instr) (s : State) (v : At) (x : Fill) (write : Bool) : Prop :=
  exec i s = .next ((s.holdFill v.ci x).waitOn v.ci v.e (.fill x.va write))

/-- The doorbell of command n has been rung (R423): a code and a payload length stand in the mailbox, the reserved bytes of
the head are 0, and the command may run (R428). -/
structure Rung (s : State) (n code len : Nat) : Prop where
  bell : s.mgmt.bell = some n
  op : readNat s.mem mailboxBase 1 = code
  zeros : readNat s.mem (mailboxBase + 1) 3 = 0
  size : readNat s.mem (mailboxBase + 4) 4 = len
  ready : s.mgmt.ready = true ∨ code = 0x0B

/-- Byte n to n + k - 1 of the payload of the mailbox command, as a number. -/
def State.arg (s : State) (n k : Nat) : Nat := readNat s.mem (mailboxBase + 16 + n) k

/-- A mailbox command completes (R423, R424): it answers with a payload over a state of which a relation says more. -/
def CommandDone (i : Instr) (s : State) (n : Nat) (payload : List (BitVec 8)) (rel : State → Prop) : Prop :=
  ∃ t, exec i s = .next (t.respond n 0 0 (readNat s.mem (mailboxBase + 8) 8) payload) ∧ rel t

/-- A mailbox command is refused with a DETAIL (R424); nothing but the answer changes. -/
def CommandRefused (i : Instr) (s : State) (n detail : Nat) : Prop :=
  exec i s = .next (s.respond n 1 detail (readNat s.mem (mailboxBase + 8) 8) [])

/-- Bytes stand at addresses; an address that comes again later holds its later byte. -/
def Stands (s : State) (as : List Nat) (bs : List (BitVec 8)) : Prop :=
  ∀ i, i < as.length → (∀ j, i < j → j < as.length → as.getD j 0 ≠ as.getD i 0) →
    readByte s.mem (as.getD i 0) = bs.getD i 0

/-- Nothing but the management state changes, and of it a relation says how. -/
def OnlyMgmt (i : Instr) (s : State) (m : Mgmt) : Prop := exec i s = .next { s with mgmt := m }

/-- The management state with one more event waiting (R393). -/
def Mgmt.withEvent (m : Mgmt) (n : Note) : Mgmt := { m with events := m.events ++ [n.bytes] }

/-- The cores that a property holds of are frozen for good by an event, at a boundary (R361, R362). -/
def Frozen (s t : State) (p : Core → Bool) : Prop :=
  t.cores.length = s.cores.length ∧ ∀ ci c, s.core? ci = some c → ∃ d, t.core? ci = some d ∧
    (p c = false → d = c) ∧
    (p c = true → d.freeze = true ∧ d.halted = true ∧ d.s = c.s ∧ d.v = c.v ∧ d.p = c.p ∧ d.acc = c.acc ∧
      ∀ e, (d.strand e).pc = (c.strand e).pc ∧ (d.strand e).rsn = (c.strand e).rsn)

/-- A status write of a queue has been performed (R409): the queue has these values with the next WSEQ, its mirror and 64
bytes at addresses hold their record. -/
def WroteStatus (t : State) (q : Queue) (as : List Nat) : Prop :=
  let q1 := { q with wseq := (q.wseq + 1) % 2 ^ 64 }
  t.queue? q.qid = some { q1 with mirror := q1.status, stWait := none, owedIrq := false } ∧ Stands t as q1.status

/-- Launch n of a queue has completed, as COMPLETED and DONE say (R409). -/
def Queue.has (q : Queue) (n : Nat) : Prop := n ≤ q.completed ∨ (n ≤ q.completed + 64 ∧ q.done.getLsbD (n - q.completed - 1) = true)

/-- From u to t the launch seq of a queue completes, with an error code or none (R356): where the status page of the queue
can be reached in device memory its record is written, and a completion vector is raised if the launch asks for one. -/
def Finishes (u t : State) (qid seq : Nat) (head : List (BitVec 8)) (err : Option Nat) : Prop :=
  t = { u with fw := t.fw, mem := t.mem, poison := t.poison, watched := t.watched, mgmt := t.mgmt } ∧
  t.fw.tasks = u.fw.tasks ∧
  ∀ q as, u.getQueue qid = some q → u.firmReach q.ctx .store q.stva 64 = .ok as →
    (∀ a, a ∈ as → a < hostBase ∨ windowBase ≤ a) →
    WroteStatus t (q.complete seq err) as ∧
    t.mgmt.msix = u.mgmt.msix ++ (if q.owedIrq = true ∨ (head.getD 43 0).getLsbD 1 = true then [q.msix] else [])

/-- A task gives its clusters back and is gone (R356, R362). -/
def Released (s u : State) (x : Task) : Prop :=
  (∀ c, c ∈ u.cores → c.task ≠ x.id) ∧ (∀ y, y ∈ u.fw.tasks ↔ y ∈ s.fw.tasks ∧ y.id ≠ x.id) ∧
  (∀ cl, cl ∈ x.clusters → (u.clusters.at' cl).lastCtx = some x.ctx ∧ (u.clusters.at' cl).closed = false) ∧
  u.mem = s.mem ∧ u.fw.queues = s.fw.queues

/-- An event of a task changes the stage of the task and nothing else. -/
def OnlyStage (i : Instr) (s : State) (x : Task) (stage : TaskStage) : Prop :=
  let tasks := s.fw.tasks.map (fun y => if y.id == x.id then { y with stage := stage } else y)
  exec i s = .next { s with fw := { s.fw with tasks := tasks } }

/-- An event freezes the cores of a task and closes its clusters to packets; its stage becomes frozen (R361, R362). -/
def FreezesTask (i : Instr) (s : State) (x : Task) : Prop :=
  ∃ t, exec i s = .next t ∧ t = { s with cores := t.cores, clusters := t.clusters, fw := t.fw } ∧
    Frozen s t (fun c => c.task == x.id) ∧ t.task? x.id = some { x with stage := .frozen none, frozeAt := s.clk } ∧
    ∀ cl, cl < 64 →
      (cl ∈ x.clusters → t.clusters.at' cl = { s.clusters.at' cl with closed := true }) ∧
      (cl ∉ x.clusters → t.clusters.at' cl = s.clusters.at' cl)

/-- A RED, an atomic or a list operation of a task is on its way to its home (R362). -/
def State.Owes (s : State) (x : Task) : Prop :=
  (∃ r k, r ∈ s.reqs ∧ k ∈ r.cores ∧ k.1 = x.id) ∨ ∃ r, r ∈ s.lists ∧ r.core.1 = x.id

/-- From s to t a task ends with an error code (R362, R363, R392, R395): its cores are killed, and what their copies have sent
is performed; once nothing of it is on its way to a home its clusters are given back and its launch completes. A task that is
being saved or is saved leaves an image without MAGIC. -/
def Ends (s t : State) (x : Task) (code : Nat) : Prop :=
  let stored := (∃ n, x.stage = .saved n) ∨ x.stage = .loading
  let base := if x.stage = .frozen none then s.clearMagic x else s
  let quiet := ∀ c, c ∈ s.cores → c.task = x.id → c.sending (fun _ => true) = false
  (stored → ∃ u, Released (s.clearMagic x) u x ∧ Finishes u t x.qid x.lseq x.launch (some code)) ∧
  (¬ stored → s.Owes x → t.task? x.id = some { x with stage := .frozen (some code), frozeAt := s.clk } ∧
    (quiet → t.mem = base.mem) ∧ ∀ c, c ∈ t.cores → c.task = x.id → c.killed = true ∧ c.exited = true) ∧
  (¬ stored → ¬ s.Owes x → ∃ b u, b = { base with mem := b.mem, poison := b.poison, watched := b.watched } ∧
    (quiet → b.mem = base.mem) ∧ Released b u x ∧ Finishes u t x.qid x.lseq x.launch (some code))

/-- Channel ch of the core at ci may make an element of its next copy x, whose target is on this package (R235, R238, R242):
the core runs, none of its REDs is on its way (log entry 2), the copy is no phase copy, has more to make, and all that it has
sent is performed. -/
structure CopyTurn (s : State) (ci ch : Nat) (c : Core) (x : Copy) (rest : List Copy) : Prop where
  core : s.core? ci = some c
  lt : ch < 4
  head : (c.chans.at' ch).queue = x :: rest
  runs : c.halted = false
  reds : s.redsPending c = false
  sound : x.fault = none
  started : x.started = true ∧ x.openAt = none
  sent : x.sent = []
  here : x.here s = true
  more : x.made = false

/-- The next copy of a channel, with what a relation says, or the same copy at the end of those whose accesses are all
performed (R228). -/
def NextCopy (c d : Core) (ch : Nat) (x : Copy) (rest : List Copy) (p : Copy → Prop) : Prop :=
  ∃ y, y.n0 = x.n0 ∧ y.n1 = x.n1 ∧ p y ∧
    ((d.chans.at' ch).queue = y :: rest ∨
      (d.chans.at' ch).queue.length = rest.length ∧ (d.chans.at' ch).ending = (c.chans.at' ch).ending ++ [y])

/-- A channel makes one element: memory changes at addresses only, registers, strands and timelines of the core stay as they
are, and a relation says more of the state and the copy. -/
def CopyMakes (s : State) (ci ch : Nat) (c : Core) (x : Copy) (rest : List Copy) (as : List Nat) (p : State → Copy → Prop) :
    Prop :=
  ∃ t d, exec (.copyRun ci ch ⟨1, 0⟩) s = .next t ∧ SameMemBut s t as ∧ t.core? ci = some d ∧ d.s = c.s ∧ d.tls = c.tls ∧
    (∀ e, d.strand e = c.strand e) ∧ d.trapped = c.trapped ∧ NextCopy c d ch x rest (p t)

/-- A channel makes nothing yet: its copy stands where it stood. -/
def CopyStalls (s : State) (ci ch : Nat) (c : Core) (x : Copy) (rest : List Copy) : Prop :=
  ∃ t d y, exec (.copyRun ci ch ⟨1, 0⟩) s = .next t ∧ SameMem s t ∧ t.core? ci = some d ∧ d.s = c.s ∧ d.tls = c.tls ∧
    d.trapped = c.trapped ∧ (d.chans.at' ch).queue = y :: rest ∧ y.n0 = x.n0 ∧ y.prog = x.prog ∧ y.unit = x.unit

/-- Whether nothing of a read is left to be made apart (R213): it is of one byte, or the copy has read every byte of it. -/
def Copy.sure (x : Copy) (ps : List Place) : Prop := ps.length ≤ 1 ∨ ∀ p, p ∈ ps → x.hasRead p.addr = true

/-- A channel makes one element for which it reads bytes at places. Its accesses are byte accesses (R213): while a read of
several bytes is not whole, the element may wait. -/
def CopyReads (s : State) (ci ch : Nat) (c : Core) (x : Copy) (rest : List Copy) (rs : List (List Place)) (as : List Nat)
    (p : State → Copy → Prop) : Prop :=
  (CopyMakes s ci ch c x rest as p ∨ CopyStalls s ci ch c x rest) ∧
  ((∀ ps, ps ∈ rs → x.sure ps) → CopyMakes s ci ch c x rest as p)

/-- A copy has stopped at a fault (R240): its core is frozen, the entry stays with the copy and its progress is kept. -/
def CopyStopped (t : State) (ci ch : Nat) (c : Core) (x : Copy) (p : TrapInfo) (fe write : Bool) : Prop :=
  ∃ d hd y, t.core? ci = some d ∧ d.trapped = some hd ∧ hd.info = { p with addr := 0 } ∧ hd.src = 3 + ch ∧
    (d.chans.at' ch).queue.head? = some y ∧ y.prog = x.prog ∧ y.fault = some { info := p, write := write, fillErr := fe } ∧
    d.s = c.s

/-- Places name each byte once, and none of them lies on a UN page. -/
def PlainPlaces (ps : List Place) : Prop := (∀ p, p ∈ ps → p.un = false) ∧ (ps.map Place.addr).Nodup

/-- What a trap record has room for (R304, R308, R341, R391): 16 return addresses for each strand, 16 patches, and one
wait-for record. -/
def Core.Recordable (c : Core) : Prop :=
  (∀ e, (c.strand e).ret.length ≤ 16) ∧ c.overlay.length ≤ 16 ∧ c.waitRec.length ≤ 1056

end Sys2Proof.Machine
end

