-- ==== Sys2Proof/WellFormed.lean ====
section
/-! DEFINITION. Well-formed instructions: the words that pass the checks of R54 which need no state, and strip words
that WLOAD accepts (R332); event rows carry no encoding. -/
namespace Sys2Proof

/-- The tag is one whose map holds the row, and a word of tag 3 has no token bit (R39, R54 checks 1 to 3). -/
def tagOk (i : Instr) : Bool :=
  match hdrOf i with
  | none => true
  | some h => (tagsOf i).contains h.eng && !(h.eng == 3 && h.anyToken)

/-- A well-formed instruction: its tag, its form, the reserved and forbidden values of check 6, and a type code its
entry accepts (check 7). -/
def Instr.wf (i : Instr) : Bool := tagOk i && formOk i && Machine.check6 i && Machine.tyStatic i

/-- The same as a proposition. -/
abbrev WellFormed (i : Instr) : Prop := i.wf = true

end Sys2Proof
end

