-- ==== Sys2Proof/Certificates/Slice0/Obligations.lean ====
section
/-! DEFINITION. The statements for the provers. -/

section
open Sys2Proof Sys2Proof.Machine

/-- R116: the two- and three-register scalar instructions complete where the strand owns sd, write the result of the
table, computed over exact integers and taken modulo 2^64, and change nothing else. -/
def Obligations.ScalarArithmeticResults : Prop :=
  ∀ (s : State) (v : At) (h : Hdr) (f : FmtSR), Ready s h v → v.foreign f.sd = false →
    let a := s.readS v f.sa
    let b := s.readS v f.sb
    let c := s.readS v f.sc
    let n := b.toNat % 64
    CompletesS (.add h f) s h v f.sd 2 (BitVec.ofNat 64 (a.toNat + b.toNat)) ∧
    CompletesS (.sub h f) s h v f.sd 2 (BitVec.ofInt 64 (a.toInt - b.toInt)) ∧
    CompletesS (.mul h f) s h v f.sd 4 (BitVec.ofNat 64 (a.toNat * b.toNat)) ∧
    CompletesS (.mulh h f) s h v f.sd 4 (BitVec.ofInt 64 (a.toInt * b.toInt / 2 ^ 64)) ∧
    CompletesS (.mulhu h f) s h v f.sd 4 (BitVec.ofNat 64 (a.toNat * b.toNat / 2 ^ 64)) ∧
    CompletesS (.and h f) s h v f.sd 2 (a &&& b) ∧
    CompletesS (.or h f) s h v f.sd 2 (a ||| b) ∧
    CompletesS (.xor h f) s h v f.sd 2 (a ^^^ b) ∧
    CompletesS (.shl h f) s h v f.sd 2 (BitVec.ofNat 64 (a.toNat * 2 ^ n)) ∧
    CompletesS (.shr h f) s h v f.sd 2 (BitVec.ofNat 64 (a.toNat / 2 ^ n)) ∧
    CompletesS (.sar h f) s h v f.sd 2 (BitVec.ofInt 64 (a.toInt / 2 ^ n)) ∧
    CompletesS (.cmpeq h f) s h v f.sd 2 (if a = b then 1 else 0) ∧
    CompletesS (.cmplt h f) s h v f.sd 2 (if a.toInt < b.toInt then 1 else 0) ∧
    CompletesS (.cmpltu h f) s h v f.sd 2 (if a.toNat < b.toNat then 1 else 0) ∧
    CompletesS (.sel h f) s h v f.sd 2 (if c = 0 then b else a) ∧
    CompletesS (.min h f) s h v f.sd 2 (BitVec.ofInt 64 (min a.toInt b.toInt)) ∧
    CompletesS (.max h f) s h v f.sd 2 (BitVec.ofInt 64 (max a.toInt b.toInt)) ∧
    CompletesS (.minu h f) s h v f.sd 2 (BitVec.ofNat 64 (min a.toNat b.toNat)) ∧
    CompletesS (.maxu h f) s h v f.sd 2 (BitVec.ofNat 64 (max a.toNat b.toNat)) ∧
    CompletesS (.mov h f) s h v f.sd 2 a ∧
    (∃ x : Word, CompletesS (.clz h f) s h v f.sd 2 x ∧ x.toNat ≤ 64 ∧
      (∀ i, 64 - x.toNat ≤ i → a.getLsbD i = false) ∧ (x.toNat < 64 → a.getLsbD (63 - x.toNat) = true)) ∧
    CompletesS (.popc h f) s h v f.sd 2 (BitVec.ofNat 64 (((List.range 64).filter (fun i => a.getLsbD i)).length))

/-- R113, R116, R119, R120: the scalar instructions with an immediate; every instruction of the scalar formats, PCNT and ITRD
whose destination another strand owns traps ILLEGAL_OP (that DETAIL is 6 is the model's reading, log entry 12). WSET
completes with the five fields of the window register when the base it computes lies below 2^26 and base and stride are
multiples of 16; otherwise it traps WINDOW_FAULT or, after that check, ALIGN_FAULT (that the record's ADDR is the base, also
where only the stride is misaligned, is the model's reading, log entry 19). -/
def Obligations.ScalarImmediateAndWindowResults : Prop :=
  (∀ (s : State) (v : At) (h : Hdr) (f : FmtSI), Ready s h v → v.foreign f.sd = false →
     let a := s.readS v f.sa
     CompletesS (.addi h f) s h v f.sd 2 (BitVec.ofInt 64 (a.toInt + f.imm.toInt)) ∧
     CompletesS (.andi h f) s h v f.sd 2 (a &&& BitVec.ofInt 64 f.imm.toInt) ∧
     CompletesS (.ori h f) s h v f.sd 2 (a ||| BitVec.ofInt 64 f.imm.toInt) ∧
     CompletesS (.xori h f) s h v f.sd 2 (a ^^^ BitVec.ofInt 64 f.imm.toInt) ∧
     CompletesS (.li h f) s h v f.sd 2 (BitVec.ofInt 64 f.imm.toInt) ∧
     CompletesS (.lih h f) s h v f.sd 2 (BitVec.ofNat 64 (f.imm.toNat * 2 ^ 32 + a.toNat % 2 ^ 32))) ∧
  (∀ (s : State) (v : At) (h : Hdr) (f : FmtY) (e1 : Word), Ready s h v →
     let base := (s.readS v f.sa + BitVec.ofInt 64 f.ops.toInt).toNat
     let stride := e1.toNat % 2 ^ 24
     (2 ^ 26 ≤ base → Traps (.wset h f e1) s v (windowFault base)) ∧
     (base < 2 ^ 26 → base % 16 ≠ 0 ∨ stride % 16 ≠ 0 → Traps (.wset h f e1) s v (alignFault base)) ∧
     (base < 2 ^ 26 → base % 16 = 0 → stride % 16 = 0 →
       Completes (.wset h f e1) s h 2 v (fun d =>
         (v.c.flight? (s.iclk v.c) (.w f.idx) = none → d.w.read f.idx =
           { base := BitVec.ofNat 26 base, stride := BitVec.ofNat 24 stride, rowsm1 := e1.extractLsb' 44 12,
             colsm1 := e1.extractLsb' 32 12, ty := e1.extractLsb' 60 4 }) ∧
         (∀ r, r ≠ f.idx → d.w.read r = v.c.w.read r) ∧
         { v.c.undoV v.e d with w := v.c.w } = v.c))) ∧
  (∀ (s : State) (v : At) (h : Hdr) (f : FmtSI) (g : FmtSR) (p : FmtP) (y : FmtY), Ready s h v →
     (v.foreign f.sd = true → ∀ i, i ∈ [Instr.addi h f, .andi h f, .ori h f, .xori h f, .li h f, .lih h f] →
       Traps i s v (illegalOp 6)) ∧
     (v.foreign g.sd = true → ∀ i, i ∈ [Instr.add h g, .sub h g, .mul h g, .mulh h g, .mulhu h g, .and h g, .or h g, .xor h g,
         .shl h g, .shr h g, .sar h g, .cmpeq h g, .cmplt h g, .cmpltu h g, .sel h g, .min h g, .max h g, .minu h g,
         .maxu h g, .mov h g, .clz h g, .popc h g, .div h g, .divu h g, .rem h g, .remu h g] → Traps i s v (illegalOp 6)) ∧
     (v.foreign p.sd = true → Traps (.pcnt h p) s v (illegalOp 6)) ∧
     (v.foreign y.sd = true → Traps (.itrd h y) s v (illegalOp 6)))

/-- R117: no division traps; a divisor of 0 gives an all-ones quotient and the dividend as remainder; the most negative
number divided by -1 gives itself and 0; any other quotient truncates towards zero. -/
def Obligations.DivisionResults : Prop :=
  ∀ (s : State) (v : At) (h : Hdr) (f : FmtSR), Ready s h v → v.foreign f.sd = false →
    let a := s.readS v f.sa
    let b := s.readS v f.sb
    (b = 0 →
      CompletesS (.div h f) s h v f.sd 20 0xFFFFFFFFFFFFFFFF ∧ CompletesS (.divu h f) s h v f.sd 20 0xFFFFFFFFFFFFFFFF ∧
      CompletesS (.rem h f) s h v f.sd 20 a ∧ CompletesS (.remu h f) s h v f.sd 20 a) ∧
    (a.toInt = -2 ^ 63 → b.toInt = -1 →
      CompletesS (.div h f) s h v f.sd 20 a ∧ CompletesS (.rem h f) s h v f.sd 20 0) ∧
    (b ≠ 0 →
      CompletesS (.div h f) s h v f.sd 20 (BitVec.ofInt 64 (a.toInt.tdiv b.toInt)) ∧
      CompletesS (.rem h f) s h v f.sd 20 (BitVec.ofInt 64 (a.toInt.tmod b.toInt)) ∧
      CompletesS (.divu h f) s h v f.sd 20 (BitVec.ofNat 64 (a.toNat / b.toNat)) ∧
      CompletesS (.remu h f) s h v f.sd 20 (BitVec.ofNat 64 (a.toNat % b.toNat)))

/-- R143: the predicate instructions write all 64 bits of pd, PCNT a scalar register that its strand may write. -/
def Obligations.PredicateResults : Prop :=
  ∀ (s : State) (v : At) (h : Hdr) (f : FmtP) (e1 : Word), Ready s h v →
    let a := s.readP v f.pa
    let b := s.readP v f.pb
    let all := BitVec.allOnes 64
    CompletesP (.pand h f) s h 1 v f.pd all (a &&& b) 1 ∧
    CompletesP (.por h f) s h 1 v f.pd all (a ||| b) 1 ∧
    CompletesP (.pxor h f) s h 1 v f.pd all (a ^^^ b) 1 ∧
    CompletesP (.pnot h f) s h 1 v f.pd all (~~~a) 1 ∧
    CompletesP (.pset h f e1) s h 2 v f.pd all e1 1 ∧
    (v.foreign f.sd = false →
      CompletesS (.pcnt h f) s h v f.sd 2 (BitVec.ofNat 64 (((List.range 64).filter (fun i => a.getLsbD i)).length)))

/-- R132: the element-wise arithmetic of set F: exact operation, one rounding under RM, in active lanes only. -/
def Obligations.VectorFloatResults : Prop :=
  ∀ (s : State) (v : At) (h : Hdr) (f : FmtV) (ty : Nat), Ready s h v → v.ty f.ty.toNat = ty → ty ∈ [0, 1, 2] →
    let w := if ty = 0 then 32 else 16
    let t := fmtOf ty
    let rm := Rm.ofField f.rm
    let act := if f.pneg = 1 then ~~~(s.readP v f.pred) else s.readP v f.pred
    let a := elemOf w (s.readV v f.va)
    let x := fun j => decodeNum t (a j)
    let y := fun j => decodeNum t (elemOf w (s.readV v f.vb) j)
    let z := fun j => decodeNum t (elemOf w (s.readV v f.vc) j)
    let R := fun n => cvt t rm false n
    CompletesV (.vadd h f) s h v f.vd act w 4 (fun j => R (FNum.add rm (x j) (y j))) ∧
    CompletesV (.vsub h f) s h v f.vd act w 4 (fun j => R (FNum.add rm (x j) (y j).negate)) ∧
    CompletesV (.vmul h f) s h v f.vd act w 4 (fun j => R ((x j).mul (y j))) ∧
    CompletesV (.vfma h f) s h v f.vd act w 5 (fun j => R (FNum.add rm ((x j).mul (y j)) (z j))) ∧
    CompletesV (.vfms h f) s h v f.vd act w 5 (fun j => R (FNum.add rm ((x j).mul (y j)) (z j).negate)) ∧
    CompletesV (.vmin h f) s h v f.vd act w 4 (fun j => cvt t .rne false ((x j).min (y j))) ∧
    CompletesV (.vmax h f) s h v f.vd act w 4 (fun j => cvt t .rne false ((x j).max (y j))) ∧
    CompletesV (.vabs h f) s h v f.vd act w 4 (fun j => a j &&& (2 ^ (w - 1) - 1)) ∧
    CompletesV (.vneg h f) s h v f.vd act w 4 (fun j => a j ^^^ 2 ^ (w - 1))

/-- R133, R134: the functions of one operand, in FP32 and BF16, in active lanes only. -/
def Obligations.VectorFunctionResults : Prop :=
  ∀ (s : State) (v : At) (h : Hdr) (f : FmtV) (ty : Nat), Ready s h v → v.ty f.ty.toNat = ty → ty ∈ [0, 1] →
    let w := if ty = 0 then 32 else 16
    let t := fmtOf ty
    let rm := Rm.ofField f.rm
    let act := if f.pneg = 1 then ~~~(s.readP v f.pred) else s.readP v f.pred
    let x := fun j => decodeNum t (elemOf w (s.readV v f.va) j)
    CompletesV (.vrcp h f) s h v f.vd act w 12 (fun j => cvt t rm false (FNum.div .one (x j))) ∧
    CompletesV (.vrsq h f) s h v f.vd act w 12 (fun j => cvt t rm false (x j).rsqrt) ∧
    CompletesV (.vsqrt h f) s h v f.vd act w 12 (fun j => cvt t rm false (x j).sqrt) ∧
    CompletesV (.vexp2 h f) s h v f.vd act w 12 (fun j => cvt t rm false (x j).exp2) ∧
    CompletesV (.vlog2 h f) s h v f.vd act w 12 (fun j => cvt t rm false (x j).log2) ∧
    CompletesV (.vtanh h f) s h v f.vd act w 30 (fun j => vtanh t rm (x j)) ∧
    CompletesV (.vsigm h f) s h v f.vd act w 30 (fun j => vsigm t rm (x j))

/-- R137, R138: the integer, bitwise and shift instructions of set I, in active lanes only. -/
def Obligations.VectorIntegerResults : Prop :=
  ∀ (s : State) (v : At) (h : Hdr) (f : FmtV) (ty : Nat), Ready s h v → v.ty f.ty.toNat = ty →
    let w := if ty = 11 then 32 else if ty = 10 then 16 else 8
    let act := if f.pneg = 1 then ~~~(s.readP v f.pred) else s.readP v f.pred
    let a := elemOf w (s.readV v f.va)
    let b := elemOf w (s.readV v f.vb)
    let lo : Int := if ty = 9 then 0 else -2 ^ (w - 1)
    let hi : Int := if ty = 9 then 255 else 2 ^ (w - 1) - 1
    let sg := fun (x : Nat) => if x < 2 ^ (w - 1) then (x : Int) else (x : Int) - 2 ^ w
    let val := fun (x : Nat) => if ty = 9 then (x : Int) else sg x
    let out := fun (x : Int) => ((if f.ops.getLsbD 7 then max lo (min hi x) else x) % 2 ^ w).toNat
    let n := fun j => if f.ops.getLsbD 7 then f.ops.toNat % 64 else b j
    let lane := fun (g : BitVec 32 → BitVec 32 → BitVec 32) i =>
      (g ((s.readV v f.va).at' i) ((s.readV v f.vb).at' i)).toNat
    (ty ∈ [8, 9, 10, 11] →
      CompletesV (.viadd h f) s h v f.vd act w 3 (fun j => out (val (a j) + val (b j))) ∧
      CompletesV (.visub h f) s h v f.vd act w 3 (fun j => out (val (a j) - val (b j))) ∧
      CompletesV (.vimul h f) s h v f.vd act w 4 (fun j => out (val (a j) * val (b j))) ∧
      CompletesV (.vshl h f) s h v f.vd act w 3 (fun j => a j * 2 ^ n j % 2 ^ w) ∧
      CompletesV (.vshr h f) s h v f.vd act w 3 (fun j => a j / 2 ^ n j) ∧
      CompletesV (.vsar h f) s h v f.vd act w 3 (fun j => (sg (a j) / 2 ^ n j % 2 ^ w).toNat)) ∧
    (ty = 0 →
      CompletesV (.vand h f) s h v f.vd act 32 2 (lane (fun p q => p &&& q)) ∧
      CompletesV (.vor h f) s h v f.vd act 32 2 (lane (fun p q => p ||| q)) ∧
      CompletesV (.vxor h f) s h v f.vd act 32 2 (lane (fun p q => p ^^^ q)))

/-- R131: the instructions that move data between lanes copy bits, in active lanes only; VEXTR writes a scalar register
that its strand may write. -/
def Obligations.VectorMoveResults : Prop :=
  ∀ (s : State) (v : At) (h : Hdr) (f : FmtV) (ty : Nat), Ready s h v → v.ty f.ty.toNat = ty →
    ty ∈ [0, 1, 2, 3, 4, 6, 8, 9, 10, 11] →
    let w := if ty ∈ [0, 11] then 32 else if ty ∈ [1, 2, 10] then 16 else 8
    let n := 2048 / w
    let act := if f.pneg = 1 then ~~~(s.readP v f.pred) else s.readP v f.pred
    let a := elemOf w (s.readV v f.va)
    let b := elemOf w (s.readV v f.vb)
    let la := fun i => ((s.readV v f.va).at' i).toNat
    let lb := fun i => ((s.readV v f.vb).at' i).toNat
    let k := f.ops.toNat % 256
    CompletesV (.vmov h f) s h v f.vd act 32 2 la ∧
    CompletesV (.vsplat h f) s h v f.vd act w 2 (fun _ => (s.readS v f.va).toNat) ∧
    CompletesV (.vbcast h f) s h v f.vd act w 2 (fun _ => a k) ∧
    CompletesV (.vslide h f) s h v f.vd act w 2 (fun j =>
      if f.ops.getLsbD 8 then (if k ≤ j then a (j - k) else b (n - k + j)) else if j + k < n then a (j + k) else b (j + k - n)) ∧
    CompletesV (.vperm h f) s h v f.vd act 32 2 (fun i => if lb i < 64 then la (lb i) else 0) ∧
    CompletesV (.vsel h f) s h v f.vd act 32 2 (fun i =>
      if (s.readP v (f.ops.setWidth 3)).getLsbD i then la i else lb i) ∧
    (v.foreign f.vd = false → v.tyCheck (.vextr h f) = none →
      CompletesS (.vextr h f) s h v f.vd 3
        (if ty ∈ [8, 10, 11] ∧ 2 ^ (w - 1) ≤ a k then BitVec.ofInt 64 ((a k : Int) - 2 ^ w) else BitVec.ofNat 64 (a k)))

/-- R135, R136, R142: conversions between types, block scales and random lanes, in active lanes only; a VCVT into a register of
more elements writes the lanes of its part alone. -/
def Obligations.VectorConversionResults : Prop :=
  ∀ (s : State) (v : At) (h : Hdr) (f : FmtV) (ty sty : Nat), Ready s h v → v.ty f.ty.toNat = ty →
    sty = f.ops.toNat / 256 % 16 →
    let wide := fun (t : Nat) => if t ∈ [0, 11] then 32 else if t ∈ [1, 2, 10] then 16 else 8
    let D := [0, 1, 2, 3, 4, 6, 8, 9, 10, 11]
    let act := if f.pneg = 1 then ~~~(s.readP v f.pred) else s.readP v f.pred
    let rm := Rm.ofField f.rm
    let w := wide ty
    let ns := 2048 / wide sty
    let nd := 2048 / w
    let m := min ns nd
    let part := f.ops.toNat / 16 % 4
    let conv := fun (x e : Nat) =>
      if sty = ty then (if decodeNum (fmtOf ty) x = .nan then nanCode (fmtOf ty) else x)
      else if f.ops.getLsbD 6 then
        cvtSr (fmtOf ty) (f.ops.getLsbD 7) (srbits v.c.rseed.toNat (v.st.rsn.toNat + 1) e 2) (decodeNum (fmtOf sty) x)
      else cvt (fmtOf ty) rm (f.ops.getLsbD 7) (decodeNum (fmtOf sty) x)
    let into := if nd ≤ ns then act else act &&& (BitVec.ofNat 64 (2 ^ (64 * ns / nd) - 1) <<< (part * (64 * ns / nd)))
    (ty ∈ D → sty ∈ D → CompletesV (.vcvt h f) s h v f.vd into w 4 (fun jd =>
      conv (elemOf (wide sty) (s.readV v f.va) (if nd ≤ ns then part * m + jd else jd - part * m)) jd)) ∧
    (ty ∈ [0, 1, 2] → CompletesV (.vbscale h f) s h v f.vd act w 4 (fun j =>
      let b := elemOf 8 (s.readV v f.vb) (j / 32)
      let q : FNum := if b = 255 then .nan else .dy false 1 (if f.ops.getLsbD 7 then 127 - (b : Int) else (b : Int) - 127)
      cvt (fmtOf ty) rm false ((decodeNum (fmtOf ty) (elemOf w (s.readV v f.va) j)).mul q))) ∧
    (ty ∈ [0, 11] → CompletesV (.vrand h f) s h v f.vd act 32 4 (fun i =>
      let r := srbits v.c.rseed.toNat (v.st.rsn.toNat + 1) i 2
      if ty = 11 then r else cvt .fp32 .rne false (.dy false (r / 2 ^ 8) (-24))))

/-- R139-R141: comparisons write the bits of the active lanes; reductions write a scalar register that the strand may
write, over the elements of the active lanes; VTOPK ranks the active lanes by value, then by lane, NaNs last, and writes every
lane of vd and vc; by R88 a selected NaN is written canonical. -/
def Obligations.VectorCompareAndReduceResults : Prop :=
  (∀ (s : State) (v : At) (h : Hdr) (f : FmtV) (ty : Nat), Ready s h v → v.ty f.ty.toNat = ty →
    let act := if f.pneg = 1 then ~~~(s.readP v f.pred) else s.readP v f.pred
    let a := fun i => ((s.readV v f.va).at' i).toNat
    let b := fun i => ((s.readV v f.vb).at' i).toNat
    let un := fun i => ty = 0 ∧ (f32 (a i) = .nan ∨ f32 (b i) = .nan)
    let o := fun i => if ty = 0 then (f32 (a i)).cmp (f32 (b i))
      else if f.ops.getLsbD 3 then compare (a i) (b i)
      else compare ((s.readV v f.va).at' i).toInt ((s.readV v f.vb).at' i).toInt
    let cc := f.ops.toNat % 8
    let w := if ty ∈ [0, 11] then 32 else if ty ∈ [1, 2, 10] then 16 else 8
    let es := ((List.range (2048 / w)).filter (fun j => act.getLsbD (j * w / 32))).map (elemOf w (s.readV v f.va))
    let sg := fun (x : Nat) => if ty = 9 ∨ x < 2 ^ (w - 1) then (x : Int) else (x : Int) - 2 ^ w
    let rm := Rm.ofField f.rm
    let fl := fun (xs : List Nat) (g : FNum → FNum → FNum) (unit : FNum) =>
      match xs.map (decodeNum (fmtOf ty)) with
      | [] => unit
      | x :: xs => xs.foldl g x
    let op := f.ops.toNat % 4
    (ty ∈ [0, 11] → cc < 7 → v.tyCheck (.vcmp h f) = none → ∃ x : BitVec 64,
      CompletesP (.vcmp h f) s h 1 v (f.vd.setWidth 3) act x 3 ∧
      ∀ i, i < 64 → (x.getLsbD i = true ↔
        (cc = 0 ∧ ¬un i ∧ o i = .eq) ∨ (cc = 1 ∧ (un i ∨ o i ≠ .eq)) ∨ (cc = 2 ∧ ¬un i ∧ o i = .lt) ∨
        (cc = 3 ∧ ¬un i ∧ o i ≠ .gt) ∨ (cc = 4 ∧ ¬un i ∧ o i = .gt) ∨ (cc = 5 ∧ ¬un i ∧ o i ≠ .lt) ∨ (cc = 6 ∧ un i))) ∧
    (v.foreign f.vd = false → v.tyCheck (.vred h f) = none → op < 3 →
      (ty ∈ [8, 9, 10, 11] → CompletesS (.vred h f) s h v f.vd 10 (BitVec.ofInt 64
        (if op = 0 then (es.map sg).sum
         else if op = 1 then (es.map sg).foldl max (if ty = 9 then 0 else -2 ^ (w - 1))
         else (es.map sg).foldl min (if ty = 9 then 255 else 2 ^ (w - 1) - 1)))) ∧
      (ty ∈ [0, 1, 2] → CompletesS (.vred h f) s h v f.vd 10 (BitVec.ofNat 64 (cvt (fmtOf ty) rm false
        (if op = 0 then fl es (FNum.add rm) (.zero false)
         else if op = 1 then fl es FNum.max (.inf true) else fl es FNum.min (.inf false))))))) ∧
  (∀ (s : State) (v : At) (h : Hdr) (f : FmtV) (ty : Nat), Ready s h v → v.ty f.ty.toNat = ty → ty ∈ [0, 11] →
    v.tyCheck (.vtopk h f) = none → f.vd ≠ f.vc → v.c.flight? (s.iclk v.c) (.v f.vd) = none →
    v.c.flight? (s.iclk v.c) (.v f.vc) = none →
    let act := if f.pneg = 1 then ~~~(s.readP v f.pred) else s.readP v f.pred
    let a := (s.readV v f.va).at'
    let nan := fun (x : BitVec 32) => ty = 0 ∧ f32 x.toNat = .nan
    let o := fun (x y : BitVec 32) => if ty = 0 then (f32 x.toNat).cmp (f32 y.toNat) else compare x.toInt y.toInt
    let before := fun (i j : Nat) =>
      (nan (a i) ∧ nan (a j) ∧ i < j) ∨ (¬nan (a i) ∧ nan (a j)) ∨
      (¬nan (a i) ∧ ¬nan (a j) ∧ (o (a i) (a j) = (if f.ops.getLsbD 4 then .lt else .gt) ∨ (o (a i) (a j) = .eq ∧ i < j)))
    let k := f.ops.toNat % 16
    ∃ order : List Nat, order.Perm ((List.range 64).filter (fun i => act.getLsbD i)) ∧ order.Pairwise before ∧
      Completes (.vtopk h f) s h 1 v (fun d =>
        (∀ i, i < 64 →
          (d.v.read f.vd).at' i = (if k ≤ i then 0 else match order[i]? with
            | some j => if nan (a j) then 0x7FC00000 else a j
            | none => if ty = 0 then 0x7FC00000 else 0x80000000) ∧
          (d.v.read f.vc).at' i = (if k ≤ i then 0 else match order[i]? with
            | some j => BitVec.ofNat 32 j
            | none => 0xFFFFFFFF)) ∧
        (∀ r, r ≠ f.vd → r ≠ f.vc → d.v.read r = v.c.v.read r) ∧ { v.c.undoV v.e d with v := v.c.v } = v.c))

/-- R248, R250-R263: what an element of a copy leaves, by its kind. A COPY takes the bytes of the beats at CI in order and
discards the rest of the last, and forms beats of 256 bytes for CO, padded with zeros. A TCOPY converts an element of the
tensor, or its fill element, for the tile, and back; with WELT it sends the tile to CO as beats. SCOPY moves the bytes that an
index names. CCOPY.dec writes the raw bytes of a chunk, poisoned ones for a malformed chunk; CCOPY.enc writes chunk after
chunk, then the index and the header. A COLL writes each rank's reduction of all ranks' elements; it stops every rank where
they differ, and where one was killed. While a read of several bytes is not whole the element may wait (R213). The model's
readings: the units of a CCOPY and what stands for a malformed chunk (log entry 27), the places of a COLL's elements (log entry
30), reads made byte by byte (log entry 57). -/
def Obligations.CopyElementResults : Prop :=
  (∀ (s : State) (ci ch : Nat) (c : Core) (x : Copy) (rest : List Copy), s.Inv → CopyTurn s ci ch c x rest →
    let makes := CopyMakes s ci ch c x rest
    let reads := CopyReads s ci ch c x rest
    let clean := fun (ps : List Place) => ∀ b, b ∈ x.bytesAt s ps → b.2 = false
    let val := fun (ps : List Place) => plain (x.bytesAt s ps)
    let port := s.routeFrom (s.phys c) (5 * 64 + s.slot c)
    let emits := fun (b : Beat → Prop) (p : Copy → Prop) =>
      ((∀ ri rt r, port = some (ri, rt, r) → r.canEmit 1 = false ∨ c.coBusy x.f.ch.toNat = true) → CopyStalls s ci ch c x rest) ∧
      (∀ ri rt r, port = some (ri, rt, r) → r.canEmit 1 = true → c.coBusy x.f.ch.toNat = false →
        makes [] (fun t y => p y ∧ y.unit = x.unit + 1 ∧ ∃ beat o, b beat ∧ t.core? ri = some o ∧
          o.routes.at' rt = (r.emit beat).noteMove r s.clk))
    (x.kind = .copy → x.sk = 2 → bitAt x.o 11 = false → x.dk ≤ 1 → x.out = [] →
      (x.part = [] → (∀ b ri rt k, s.portIn c 4 ≠ .beat b ri rt k) → s.portIn c 4 ≠ .zeros → CopyStalls s ci ch c x rest) ∧
      (∀ b ri rt k p s1 x1, x.part = [] → s.portIn c 4 = .beat b ri rt k → b.psn = false →
        { x with part := unmarked b.bytes }.reachDst ci c (s.takePort ri rt k) x.prog 1 = .ok [p] s1 x1 → p.un = false →
        makes [p.addr] (fun t y => readByte t.mem p.addr = (b.lanes.at' 0).extractLsb' 0 8 ∧ y.prog = x.prog + 1 ∧
          (x.prog + 1 < x.total → plain y.part = b.bytes.tail) ∧
          ∀ o, (s.takePort ri rt k).core? ri = some o → ∃ o1, t.core? ri = some o1 ∧ o1.routes = o.routes)) ∧
      (∀ v vs p s1 x1, x.part = (v, false) :: vs → x.reachDst ci c s x.prog 1 = .ok [p] s1 x1 → p.un = false →
        makes [p.addr] (fun t y => readByte t.mem p.addr = v ∧ y.prog = x.prog + 1 ∧
          (x.prog + 1 < x.total → y.part = vs)))) ∧
    (x.kind = .copy → x.sk ≤ 1 → bitAt x.o 11 = false → x.dk = 2 →
      (∀ p s1 x1, x.beatReady = false → x.reachSrc ci c s x.prog 1 = .ok [p] s1 x1 → s.poisoned p.addr = false →
        makes [] (fun _ y => y.out = x.out ++ [(readByte s.mem p.addr, false)] ∧ y.prog = x.prog + 1)) ∧
      (x.out.length = 256 ∨ (x.prog = x.total ∧ x.out ≠ []) →
        emits (fun b => (∀ j, j < 64 → b.lanes.at' j = BitVec.ofNat 32 (leNat (((plain x.out).drop (4 * j)).take 4))) ∧
          b.psn = anyPsn x.out) (fun y => y.out = [] ∧ y.prog = x.prog))) ∧
    (x.kind = .tcopy →
      let d := x.desc.toNat
      let tt := fmtOf (descTy d)
      let ct := fmtOf x.ty
      let p := x.tileRC x.prog
      let at' := elemAddrsIn (s.physOf c (x.cluster s c)) (s.ppc c) (s.slot c)
      let scaled := fun (b : Nat) (q : List Place) =>
        (x.sm ≠ 2 ∧ b = 127 ∧ q = []) ∨
        (x.sm = 2 ∧ ∃ as, at' x.xw .uint8 p.1 (p.2 / 32) = .ok as ∧ q = winPlaces as ∧ clean q ∧
          b = (tileElem x.xw .uint8 p.1 (p.2 / 32) (x.bytesAt s q)).1)
      let element := fun (v : FNum) (rs : List Place) =>
        (x.tensorVa x.prog = none ∧ rs = [] ∧ v = decodeNum tt (d / 2 ^ (64 + 32) % 2 ^ 32 % 2 ^ tt.bits)) ∨
        (∃ va s1 x1, x.tensorVa x.prog = some va ∧ reachVa ci .load (spansOf va x.tensorBytes) s x = .ok rs s1 x1 ∧ clean rs ∧
          v = decodeNum tt (leNat (val rs)))
      let holds := fun (t : State) (w : Window) (f : Fmt) (k : Nat) (as : List Nat) =>
        (tileElem w f p.1 k (unmarked (as.map (readByte t.mem)))).1
      let slabs := x.sm = 2 ∧ (x.ty = 5 ∨ x.ty = 7)
      let more := x.prog < x.total
      (∀ v rs b q, more → x.dir = false → ¬ slabs → element v rs → scaled b q →
        let code := cvtRnd ct x.rm x.sat (x.rnd p.1 p.2) (if x.sm = 1 then v.div x.tscale
          else if x.sm = 2 then (if b = 0xFF then .nan else v.shift (127 - (b : Int))) else v)
        (∀ as, x.welt = false → at' x.dw ct p.1 p.2 = .ok as → as.Nodup →
          reads [rs, q] as (fun t y => holds t x.dw ct p.2 as = code % 2 ^ ct.bits ∧ y.prog = x.prog + 1)) ∧
        (x.welt = true → x.unit < x.beatCount →
          reads [rs, q] [] (fun _ y => y.codes = x.codes ++ [(code, false)] ∧ y.prog = x.prog + 1))) ∧
      (more → x.dir = true → x.tensorVa x.prog = none → makes [] (fun _ y => y.prog = x.prog + 1)) ∧
      (∀ va as b q ps s1 x1, more → x.dir = true → x.tensorVa x.prog = some va → at' x.dw ct p.1 p.2 = .ok as →
        clean (winPlaces as) → scaled b q →
        reachVa ci .store (spansOf va x.tensorBytes) s { x with mixed := true } = .ok ps s1 x1 → PlainPlaces ps →
        let code := (tileElem x.dw ct p.1 p.2 (x.bytesAt s (winPlaces as))).1
        let v := if x.sm = 1 then (decodeNum ct code).mul x.tscale else if x.sm = 2 then decodeScaled ct b code
          else decodeNum ct code
        reads [winPlaces as, q] (ps.map Place.addr) (fun t y =>
          ps.map (fun q => readByte t.mem q.addr) = leBytes x.tensorBytes (cvtRnd tt x.rm x.sat (x.rnd p.1 p.2) v) ∧
          y.prog = x.prog + 1)) ∧
      (∀ v rs as sc, more → x.dir = false → slabs → x.welt = false → x.b 0 * x.b 1 = 1 → element v rs →
        at' x.dw ct p.1 p.2 = .ok as → at' x.xw .uint8 p.1 0 = .ok sc → (as ++ sc).Nodup →
        let scale := chooseScale ct [v]
        reads [rs] (as ++ sc) (fun t y => holds t x.xw .uint8 0 sc = scale % 256 ∧
          holds t x.dw ct p.2 as = (if scale = 0xFF then 0
            else cvtRnd ct x.rm x.sat (x.rnd p.1 p.2) (v.shift (127 - (scale : Int)))) % 2 ^ ct.bits ∧
          y.prog = x.prog + 1)) ∧
      (more → x.dir = false → slabs → ∃ t d y, exec (.copyRun ci ch ⟨1, 0⟩) s = .next t ∧ t.core? ci = some d ∧
        ((d.chans.at' ch).queue = y :: rest ∨ (d.chans.at' ch).ending = (c.chans.at' ch).ending ++ [y]) ∧ y.n0 = x.n0 ∧
        ((y.prog = x.prog ∧ SameMem s t) ∨ y.prog = x.prog + x.b 0 * x.b 1)) ∧
      (x.total ≤ x.prog → (∀ g, g ∈ x.codes → g.1 < 2 ^ ct.bits ∧ g.2 = false) →
        emits (fun b => b.psn = false ∧ ∀ j i, j < 64 → i < 32 →
          let n := 32 * x.unit + i
          (b.lanes.at' j).getLsbD i = (decide (j < x.tileRows ∧ n / ct.bits < x.tileCols) &&
            (x.tileCode j (n / ct.bits)).1.testBit (n % ct.bits))) (fun y => y.prog = x.prog))) ∧
    (x.kind = .scopy →
      let r := x.prog / x.xw.cols
      let k := x.prog % x.xw.cols
      let at' := elemAddrsIn (s.phys c) (s.ppc c) (s.slot c) x.xw .int32 r k
      let index := fun (ia : List Nat) => (tileElem x.xw .int32 r k (x.bytesAt s (winPlaces ia))).1
      let from' := fun ia => if x.scat then x.prog * x.esz else index ia * x.esz
      let to' := fun ia => if x.scat then index ia * x.esz else x.prog * x.esz
      let stops := fun (p : TrapInfo) (fe write : Bool) =>
        ∃ t, exec (.copyRun ci ch ⟨1, 0⟩) s = .next t ∧ SameMem s t ∧ CopyStopped t ci ch c x p fe write
      (∀ e, at' = .error e → stops e false false) ∧
      (∀ ia p fe s1, at' = .ok ia → x.sure (winPlaces ia) → x.reachSrc ci c s (from' ia) x.esz = .fault p fe s1 →
        stops p fe false) ∧
      (∀ ia ps s1 x1 qs s2 x2, at' = .ok ia → clean (winPlaces ia) →
        x.reachSrc ci c s (from' ia) x.esz = .ok ps s1 x1 → clean ps →
        { x1 with mixed := true }.reachDst ci c s1 (to' ia) x.esz = .ok qs s2 x2 → PlainPlaces qs →
        reads [winPlaces ia, ps] (qs.map Place.addr) (fun t y =>
          qs.map (fun q => readByte t.mem q.addr) = val ps ∧ y.prog = x.prog + 1))) ∧
    (x.kind = .dec →
      (∀ v vs p s1 x1, x.part = (v, false) :: vs → x.reachDst ci c s x.prog 1 = .ok [p] s1 x1 → p.un = false →
        makes [p.addr] (fun t y => readByte t.mem p.addr = v ∧ y.prog = x.prog + 1 ∧ y.part = vs)) ∧
      (∀ hd en cm pl p s1 x1, x.part = [] → x.sk = 1 → x.reachSrc ci c s 0 32 = .ok hd s x →
        let head := val hd
        let nch := fieldAt head 4 4
        let index := fieldAt head 16 8
        let k := x.cnt.toNat % 2 ^ 32 + x.unit
        x.reachSrc ci c s (index + 8 * k) 8 = .ok en s x →
        let off := leNat (val en)
        x.reachSrc ci c s off 16 = .ok cm s x →
        let chunk := val cm
        let clen := fieldAt chunk 4 4
        x.reachSrc ci c s (off + 16) clen = .ok pl s x →
        clean hd → clean en → clean cm → clean pl →
        fieldAt head 0 4 = 0x53314B50 → fieldAt head 24 8 = 0 → k < nch → off % 8 = 0 → 32 ≤ off → off + 16 + clen ≤ index →
        x.reachDst ci c s x.prog 1 = .ok [p] s1 x1 → p.un = false →
        let i := x.prog - 4096 * x.unit
        (∀ raw, decodeChunk chunk (val pl) = some raw → i < raw.length →
          reads [hd, en, cm, pl] [p.addr] (fun t y =>
            readByte t.mem p.addr = raw.getD i 0 ∧ y.prog = x.prog + 1 ∧ y.unit = x.unit + 1)) ∧
        (decodeChunk chunk (val pl) = none → i < (if fieldAt chunk 2 2 = 0 ∨ 4096 < fieldAt chunk 2 2 ∨
            (fieldAt chunk 2 2 % 2 = 1 ∧ (fieldAt chunk 0 1 = 1 ∨ fieldAt chunk 0 1 = 2)) then 4096 else fieldAt chunk 2 2) →
          reads [hd, en, cm, pl] [p.addr] (fun t y =>
            t.poisoned p.addr = true ∧ y.prog = x.prog + 1 ∧ y.unit = x.unit + 1)))) ∧
    (x.kind = .enc → x.taint = false →
      let offs := if x.offs = [] then [32] else x.offs
      let at' := offs.getLastD 32
      let nch := (x.total + 4095) / 4096
      (∀ ps s1 x1 qs s2 x2, x.prog < x.total →
        let n := min 4096 (x.total - x.prog)
        x.reachSrc ci c s x.prog n = .ok ps s1 x1 → clean ps →
        let bs := encodeChunk (x.o / 2 ^ 9 % 4) (val ps)
        { x1 with mixed := true }.reachDst ci c s1 at' bs.length = .ok qs s2 x2 → PlainPlaces qs →
        reads [ps] (qs.map Place.addr) (fun t y => qs.map (fun q => readByte t.mem q.addr) = bs ∧ y.prog = x.prog + n ∧
          y.unit = x.unit + 1 ∧ y.offs = offs ++ [at' + bs.length])) ∧
      (∀ qs s1 x1 hs s2 x2, x.total ≤ x.prog → nch ≤ offs.length → x.reachDst ci c s at' (8 * nch) = .ok qs s1 x1 →
        x1.reachDst ci c s1 0 32 = .ok hs s2 x2 → PlainPlaces (qs ++ hs) →
        makes ((qs ++ hs).map Place.addr) (fun t y =>
          qs.map (fun q => readByte t.mem q.addr) = (offs.take nch).flatMap (leBytes 8) ∧
          hs.map (fun q => readByte t.mem q.addr) =
            leBytes 4 0x53314B50 ++ leBytes 4 nch ++ leBytes 8 x.total ++ leBytes 8 at' ++ leBytes 8 0 ∧
          y.unit = nch + 1)))) ∧
  (∀ (fmt : Nat) (raw : List (BitVec 8)), fmt = 0 ∨ (fmt < 3 ∧ raw.length % 2 = 1) →
    encodeChunk fmt raw = [0, 0] ++ leBytes 2 raw.length ++ leBytes 4 raw.length ++ leBytes 8 0 ++ raw ++
      List.replicate ((8 - raw.length % 8) % 8) 0) ∧
  (∀ (s : State) (ci ch cj ck : Nat) (c o : Core) (x y : Copy) (rest later : List Copy), s.Inv → CopyTurn s ci ch c x rest →
    CopyTurn s cj ck o y later → ci ≠ cj → x.kind = .coll → y.kind = .coll →
    let run := exec (.copyRun ci ch ⟨1, 0⟩) s
    let stopped := fun (t : State) (p : TrapInfo) =>
      CopyStopped t ci ch c x p false false ∧ CopyStopped t cj ck o y p false false
    (s.collBroken c.task x = true → ∃ t, run = .next t ∧ SameMem s t ∧ CopyStopped t ci ch c x (barrierBroken x.lvl) false false) ∧
    (s.collBroken c.task x = false → s.collHeads c.task x x.ranks = some [(ci, ch, x), (cj, ck, y)] →
      (x.collSame y = false → ∃ t, run = .next t ∧ SameMem s t ∧ stopped t (domainFault 7)) ∧
      (x.collSame y = true → x.before = 0 → x.after = 0 → x.ranks.length = 2 → x.sty ∉ [5, 7] → x.dty ∉ [5, 7] → x.cop ≤ 2 →
        x.sk = 1 → y.sk = 1 → x.dk = 1 → y.dk = 1 → x.prog < x.total → y.prog = x.prog → y.total = x.total →
        ∀ as bs, x.reachDst ci c s (dataSpan x.dty x.prog).1 (dataSpan x.dty x.prog).2 = .ok as s x →
          y.reachDst cj o s (dataSpan x.dty x.prog).1 (dataSpan x.dty x.prog).2 = .ok bs s y → PlainPlaces (as ++ bs) →
          let st := fmtOf x.sty
          let dt := fmtOf x.dty
          let rm := Rm.ofField (BitVec.ofNat 2 (x.e 0 / 2 ^ 54 % 4))
          let sat := bitAt (x.e 0) 53
          let span := fun (z : Copy) (ri : Nat) (r : Core) (i : Nat) (ps : List Place) =>
            z.reachSrc ri r s (dataSpan x.sty i).1 (dataSpan x.sty i).2 = .ok ps s z ∧ ∀ b, b ∈ z.bytesAt s ps → b.2 = false
          let item := fun (z : Copy) (i : Nat) (ps : List Place) =>
            decodeNum st (leNat (plain (z.bytesAt s ps)) / 2 ^ (i * st.bits % 8) % 2 ^ st.bits)
          let holds := fun (t : State) (ps : List Place) =>
            leNat (ps.map (fun p => readByte t.mem p.addr)) / 2 ^ (x.prog * dt.bits % 8) % 2 ^ dt.bits
          let writes := fun (sure : Prop) (u w : FNum → Prop) (sat : Bool) =>
            let made := ∃ t d e, run = .next t ∧ SameMemBut s t ((as ++ bs).map Place.addr) ∧
              (∃ a, u a ∧ holds t as = cvt dt rm sat a % 2 ^ dt.bits) ∧ (∃ a, w a ∧ holds t bs = cvt dt rm sat a % 2 ^ dt.bits) ∧
              t.core? ci = some d ∧ NextCopy c d ch x rest (fun z => z.prog = x.prog + 1) ∧
              t.core? cj = some e ∧ NextCopy o e ck y later (fun z => z.prog = x.prog + 1)
            (made ∨ CopyStalls s ci ch c x rest) ∧ (sure → made)
          let red := fun (a b : FNum) (z : FNum) =>
            (x.cop = 0 ∧ st.isInt = true ∧ z = FNum.add .rne (FNum.add .rne (.zero false) a) b) ∨
            (x.cop = 0 ∧ st.isInt = false ∧ (z = f32 (rneF (FNum.add .rne a b)) ∨ z = f32 (rneF (FNum.add .rne b a)))) ∨
            (x.cop = 1 ∧ z = FNum.max a b) ∨ (x.cop = 2 ∧ z = FNum.min a b)
          (∀ ps qs : Nat → List Place, x.ckind ≠ 1 →
            let i := fun (p : Nat) => if x.ckind = 0 then p * (x.n / 2) + x.prog else x.prog
            (∀ p, p < 2 → span x ci c (i p) (ps p) ∧ span y cj o (i p) (qs p)) →
            writes (∀ p, p < 2 → x.sure (ps p) ∧ y.sure (qs p))
              (red (item x (i 0) (ps 0)) (item y (i 0) (qs 0))) (red (item x (i 1) (ps 1)) (item y (i 1) (qs 1))) sat) ∧
          (∀ ps, x.ckind = 1 → x.cop = 0 →
            let i := x.prog % x.n
            let first := x.prog < x.n
            (first → span x ci c i ps) → (¬ first → span y cj o i ps) →
            let v := if first then item x i ps else item y i ps
            writes ((first → x.sure ps) ∧ (¬ first → y.sure ps)) (fun a => a = v) (fun a => a = v) false))))

/-- R128, R129: the loads of the vector strand. Where the window's type lies in set D and no check of R121 fails over the
elements of the active lanes, they complete; a window of another type and a failing check trap without effect (that a window
of another type traps ILLEGAL_OP with DETAIL 7 is the model's reading, log entry 19). -/
def Obligations.VectorLoadResults : Prop :=
  ∀ (s : State) (v : At) (h : Hdr) (f : FmtV) (ty wty : Nat), Ready s h v → v.ty f.ty.toNat = ty →
    let win := s.readW v (f.ops.extractLsb' 8 4)
    let w := if ty ∈ [0, 11] then 32 else if ty ∈ [1, 2, 10] then 16 else 8
    let act := if f.pneg = 1 then ~~~(s.readP v f.pred) else s.readP v f.pred
    let r := (s.readS v f.va).toNat
    let c0 := (s.readS v f.vb).toNat
    let js := activeElems act ty
    let ix := fun i => ((s.readV v f.vb).at' i).toNat
    let get := fun rr cc => cvt (fmtOf ty) (Rm.ofField f.rm) false
      (decodeNum (fmtOf wty) (s.readElem v.c win (fmtOf wty) rr cc))
    (ty ∈ [0, 1, 2, 3, 4, 6, 8, 9, 10, 11] → v.winTy win false = .ok wty → v.tyCheck (.vld h f) = none →
      (wty ∉ [0, 1, 2, 3, 4, 6, 8, 9, 10, 11] → Traps (.vld h f) s v (illegalOp 7)) ∧
      (wty ∈ [0, 1, 2, 3, 4, 6, 8, 9, 10, 11] →
        (∀ x, rowChecks s v win wty r c0 js false = some x → Traps (.vld h f) s v x) ∧
        (rowChecks s v win wty r c0 js false = none →
          CompletesV (.vld h f) s h v f.vd act w 6 (fun j => if c0 + j < win.cols then get r (c0 + j) else 0)))) ∧
    (ty ∈ [0, 11] → v.winTy win false = .ok wty → v.tyCheck (.vgath h f) = none →
      (wty ∉ [0, 1, 2, 3, 4, 6, 8, 9, 10, 11] → Traps (.vgath h f) s v (illegalOp 7)) ∧
      (wty ∈ [0, 1, 2, 3, 4, 6, 8, 9, 10, 11] →
        (∀ x, gatherChecks s v win wty (gatherElems act (s.readV v f.vb) win.cols) false = some x →
          Traps (.vgath h f) s v x) ∧
        (gatherChecks s v win wty (gatherElems act (s.readV v f.vb) win.cols) false = none →
          CompletesV (.vgath h f) s h v f.vd act 32 6 (fun i => get (ix i / win.cols) (ix i % win.cols)))))

/-- R128, R129: the stores of the vector strand. They store the elements of the active lanes that lie in the window,
of one VSCAT only the highest lane of an element, and no other byte changes; a window of another type and a failing check
trap without effect (that a window of another type traps ILLEGAL_OP with DETAIL 7 is the model's reading, log entry 19). -/
def Obligations.VectorStoreResults : Prop :=
  ∀ (s : State) (v : At) (h : Hdr) (f : FmtV) (ty wty : Nat), s.Inv → Ready s h v → v.ty f.ty.toNat = ty →
    let win := s.readW v (f.ops.extractLsb' 8 4)
    let t := fmtOf wty
    let w := if ty ∈ [0, 11] then 32 else if ty ∈ [1, 2, 10] then 16 else 8
    let act := if f.pneg = 1 then ~~~(s.readP v f.pred) else s.readP v f.pred
    let r := (s.readS v f.va).toNat
    let c0 := (s.readS v f.vb).toNat
    let js := activeElems act ty
    let es := gatherElems act (s.readV v f.vb) win.cols
    let out := fun x => cvt t (Rm.ofField f.rm) (f.ops.getLsbD 7) (decodeNum (fmtOf ty) x) % 2 ^ t.bits
    let addrs := v.elemBytes s win t
    (ty ∈ [0, 1, 2, 3, 4, 6, 8, 9, 10, 11] → v.winTy win false = .ok wty → v.tyCheck (.vst h f) = none →
      (wty ∉ [0, 1, 2, 3, 4, 6, 8, 9, 10, 11] → Traps (.vst h f) s v (illegalOp 7)) ∧
      (wty ∈ [0, 1, 2, 3, 4, 6, 8, 9, 10, 11] →
        (∀ x, rowChecks s v win wty r c0 js true = some x → Traps (.vst h f) s v x) ∧
        (rowChecks s v win wty r c0 js true = none →
          CompletesStore (.vst h f) s h 1 v ((js.filter (fun j => c0 + j < win.cols)).flatMap (fun j => addrs r (c0 + j)))
            (fun u d => v.c.undo v.e d = v.c ∧ ∀ j, j ∈ js → c0 + j < win.cols →
              u.readElem v.c win t r (c0 + j) = out (elemOf w (s.readV v f.vd) j))))) ∧
    (ty ∈ [0, 11] → v.winTy win false = .ok wty → v.tyCheck (.vscat h f) = none →
      (wty ∉ [0, 1, 2, 3, 4, 6, 8, 9, 10, 11] → Traps (.vscat h f) s v (illegalOp 7)) ∧
      (wty ∈ [0, 1, 2, 3, 4, 6, 8, 9, 10, 11] →
        (∀ x, gatherChecks s v win wty es true = some x → Traps (.vscat h f) s v x) ∧
        (gatherChecks s v win wty es true = none →
          CompletesStore (.vscat h f) s h 1 v (es.flatMap (fun e => addrs e.2.1 e.2.2))
            (fun u d => v.c.undo v.e d = v.c ∧ ∀ e, e ∈ es →
              (∀ e', e' ∈ es → e.1 < e'.1 → ∀ x, x ∈ addrs e'.2.1 e'.2.2 → x ∉ addrs e.2.1 e.2.2) →
              u.readElem v.c win t e.2.1 e.2.2 = out ((s.readV v f.vd).at' e.1).toNat))))

/-- R147, R154, R164, R165: the instructions on whole accumulators. Each takes and completes its number on tl3; an accumulator
of the wrong TAG traps ILLEGAL_OP, and one whose PSN is set, among those whose values an entry takes, traps POISON with
source 1; neither has an effect. That the TAG is checked before the PSN is the model's reading (log entry 19), that MNORM.unit
clears the PSN of its destination too (log entry 76). -/
def Obligations.AccumulatorResults : Prop :=
  (∀ (s : State) (v : At) (h : Hdr) (f : FmtM), Ready s h v →
     let a := v.c.acc.read f.acs
     let d0 := v.c.acc.read f.acd
     let n := f.ops.toNat % 16
     let kn := (v.c.k.at' n).toNat
     let rm := Rm.ofField f.rm
     let sub := f.flg.getLsbD 3
     let sg := fun (x : Nat) => if x < 2 ^ 31 then (x : Int) else (x : Int) - 2 ^ 32
     let xs := (pairs 64 64).map (fun p => f32 (a.el p.1 p.2))
     let fro := cvt .fp32 .rne false (xs.foldl (fun t x => FNum.add .rne t (x.mul x)) (.zero false)).sqrt
     let top := cvt .fp32 .rne false (xs.foldl (fun t x => FNum.max t x.abs) (.zero false))
     let setK := fun (x : Nat) (d : Core) => (d.k.at' n).toNat = x % 2 ^ 32 ∧ ∀ m, m < 16 → m ≠ n → d.k.at' m = v.c.k.at' m
     CompletesM (.mzero h f) s h v (fun d => ToAcc v f.acd (f.ty == 11) (fun _ _ => 0) d ∧ d.k = v.c.k) ∧
     CompletesM (.mident h f) s h v (fun d => ToAcc v f.acd false (fun i j => if i = j then kn else 0) d ∧ d.k = v.c.k) ∧
     (a.psn = false →
       CompletesM (.mtrans h f) s h v (fun d => ToAcc v f.acd a.tag (fun i j => a.el j i) d ∧ d.k = v.c.k)) ∧
     (a.psn = false → d0.psn = false → a.tag = true → d0.tag = true → f.rm = 0 →
       CompletesM (.madda h f) s h v (fun d => ToAcc v f.acd true (fun i j =>
         ((if sub then sg (d0.el i j) - sg (a.el i j) else sg (d0.el i j) + sg (a.el i j)) % 2 ^ 32).toNat) d ∧
         d.k = v.c.k)) ∧
     (a.psn = false → d0.psn = false → a.tag = false → d0.tag = false →
       CompletesM (.madda h f) s h v (fun d => ToAcc v f.acd false (fun i j => cvt .fp32 rm false
         (FNum.add rm (f32 (d0.el i j)) (if sub then (f32 (a.el i j)).negate else f32 (a.el i j)))) d ∧ d.k = v.c.k)) ∧
     (a.psn = false → a.tag = false →
       CompletesM (.mscale h f) s h v (fun d => ToAcc v f.acd false (fun i j =>
         cvt .fp32 rm false ((f32 (a.el i j)).mul (f32 kn))) d ∧ d.k = v.c.k) ∧
       CompletesM (.mnormFro h f) s h v (fun d => setK fro d ∧ d.acc = v.c.acc) ∧
       CompletesM (.mnormMax h f) s h v (fun d => setK top d ∧ d.acc = v.c.acc) ∧
       CompletesM (.mnormUnit h f) s h v (fun d => setK fro d ∧ ToAcc v f.acd false (fun i j =>
         if fro = 0 then a.el i j else cvt .fp32 rm false ((f32 (a.el i j)).div (f32 fro))) d))) ∧
  (∀ (s : State) (v : At) (h : Hdr) (f : FmtM), Ready s h v →
     let a := v.c.acc.read f.acs
     let d0 := v.c.acc.read f.acd
     (a.tag = true → v.tyCheck (.mscale h f) = none → Traps (.mscale h f) s v (illegalOp 0)) ∧
     (a.tag = true → v.tyCheck (.mnormFro h f) = none → Traps (.mnormFro h f) s v (illegalOp 0)) ∧
     (a.tag = true → v.tyCheck (.mnormMax h f) = none → Traps (.mnormMax h f) s v (illegalOp 0)) ∧
     (a.tag = true → v.tyCheck (.mnormUnit h f) = none → Traps (.mnormUnit h f) s v (illegalOp 0)) ∧
     (a.tag ≠ d0.tag → v.tyCheck (.madda h f) = none → Traps (.madda h f) s v (illegalOp 0)) ∧
     (a.psn = true →
       (v.tyCheck (.mtrans h f) = none → Traps (.mtrans h f) s v (poisonTrap 1 0)) ∧
       (a.tag = false → v.tyCheck (.mscale h f) = none → Traps (.mscale h f) s v (poisonTrap 1 0)) ∧
       (a.tag = false → v.tyCheck (.mnormFro h f) = none → Traps (.mnormFro h f) s v (poisonTrap 1 0)) ∧
       (a.tag = false → v.tyCheck (.mnormMax h f) = none → Traps (.mnormMax h f) s v (poisonTrap 1 0)) ∧
       (a.tag = false → v.tyCheck (.mnormUnit h f) = none → Traps (.mnormUnit h f) s v (poisonTrap 1 0))) ∧
     (a.psn = true ∨ d0.psn = true → a.tag = d0.tag → (a.tag = true → f.rm = 0) → v.tyCheck (.madda h f) = none →
       Traps (.madda h f) s v (poisonTrap 1 0)))

/-- R155, R156: MLDACC and MSTACC complete where the window has the instruction's type and at most 64 rows and columns
and no check of R121 fails; MSTACC stores the elements inside the window and no other byte. Of MXFP4 and T6 it takes the
bytes that it rewrites in a step of its own (R213; that these are two steps is the model's way, log entry 57), then it
completes: it stores to bytes of its elements and of their scales and to no other byte. -/
def Obligations.AccumulatorMoveResults : Prop :=
  ∀ (s : State) (v : At) (h : Hdr) (f : FmtM) (ty : Nat), s.Inv → Ready s h v → v.ty f.ty.toNat = ty →
    let w := s.readW v f.wa
    let t := fmtOf ty
    let a := v.c.acc.read f.acs
    let sat := f.flg.getLsbD 3
    let val := fun i j => if a.tag then FNum.ofInt (toSigned 32 (a.el i j)) else f32 (a.el i j)
    w.rows ≤ 64 → w.cols ≤ 64 →
    (v.winTy w false = .ok ty → (∀ i j, i < w.rows → j < w.cols → s.checkRead v.c w t i j = none) →
      CompletesM (.mldacc h f) s h v (fun d => ToAcc v f.acd (decide (8 ≤ ty)) (fun i j =>
        if i < w.rows ∧ j < w.cols then
          let x := s.readElem v.c w t i j
          if ty = 9 then x
          else if 8 ≤ ty then (toSigned t.bits x % 2 ^ 32).toNat
          else cvt .fp32 .rne false (decodeNum t x)
        else 0) d ∧ d.k = v.c.k)) ∧
    (f.ty.toNat ≠ 15 → ty ∈ [0, 1, 2, 3, 4, 6, 8, 9, 10, 11] → v.winTy w true = .ok ty → a.psn = false →
      (∀ i j, i < w.rows → j < w.cols → s.checkWrite v.c w t i j = none) →
      (∀ p q, p ∈ pairs w.rows w.cols → q ∈ pairs w.rows w.cols → p ≠ q →
        ∀ x, x ∈ v.elemBytes s w t p.1 p.2 → x ∉ v.elemBytes s w t q.1 q.2) →
      v.tyCheck (.mstacc h f) = none → v.settledM →
      CompletesStore (.mstacc h f) s h 1 v ((pairs w.rows w.cols).flatMap (fun p => v.elemBytes s w t p.1 p.2)) (fun u d =>
        TakesM v d ∧ { v.c.undo v.e d with tls := v.c.tls, taken := v.c.taken } = v.c ∧ d.taken = none ∧
        ∀ i j, i < w.rows → j < w.cols → u.readElem v.c w t i j =
          (if f.flg.getLsbD 2 then cvtSr t sat (srbits v.c.rseed.toNat (v.st.rsn.toNat + 1) (64 * i + j) 1) (val i j)
           else cvt t (Rm.ofField f.rm) sat (val i j)) % 2 ^ t.bits)) ∧
    (ty ∈ [5, 7] → v.winTy w true = .ok ty → a.psn = false →
      let ws := s.readW v (f.ops.extractLsb' 0 4)
      let nb := (w.cols + 31) / 32
      v.winTy ws true = .ok 9 → w.rows ≤ ws.rows → nb ≤ ws.cols →
      (∀ i j, i < w.rows → j < w.cols → s.checkWrite v.c w t i j = none) →
      (∀ i b, i < w.rows → b < nb → s.checkWrite v.c ws .uint8 i b = none) →
      v.tyCheck (.mstacc h f) = none →
      (v.c.taken = none → ∃ l, exec (.mstacc h f) s =
        .next ((s.updCore v.ci (fun c => { c with taken := some l })).waitOn v.ci v.e .midway)) ∧
      (v.c.taken ≠ none → v.settledM →
        CompletesStore (.mstacc h f) s h 1 v ((pairs w.rows w.cols).flatMap (fun p => v.elemBytes s w t p.1 p.2) ++
            (pairs w.rows nb).flatMap (fun p => v.elemBytes s ws .uint8 p.1 p.2)) (fun _ d =>
          TakesM v d ∧ { v.c.undo v.e d with tls := v.c.tls, taken := v.c.taken } = v.c ∧ d.taken = none)))

/-- R157-R160: an MMUL that starts anew and whose checks pass, given as many groups as it has, retires: every element of
the block of M rows and N columns takes, in each pass and group in order, the exact sum of exact products, added with one
rounding or modulo 2^32; the rest of the accumulator is zero under Z and else keeps its bits. With windows and
accumulators as sources nothing else changes; with the port MB it does so once the port holds ceil(K / e) sound beats. -/
def Obligations.MmulResults : Prop :=
  ∀ (s : State) (v : At) (h : Hdr) (f : FmtM), Ready s h v → v.settledM → v.budget = 0 →
    v.tyCheck (.mmul h f) = none →
    let x := mmulOf f v s
    let c0 := { v.c with mread := [] }
    let z := f.flg.getLsbD 3
    let d0 := v.c.acc.read f.acd
    let src := v.c.acc.read f.acs
    let int := if z then decide (x.ty = 8 ∨ x.ty = 9) else d0.tag
    let start := fun i j => if z then 0 else d0.el i j
    let steps := (List.range x.passes).flatMap (fun p => (List.range (ceilDiv x.k x.g)).map (fun g => (p, g)))
    let group := fun (bs : List Beat) (p g i j : Nat) =>
      dot (x.rowA s c0 src p g i) ((x.cols g).map (fun k =>
        if x.bsrc = 0 then partOf p false false (x.winVal s c0 false j k) (.zero false)
        else if x.bsrc = 3 then partOf p false false (x.beatVal s v.c bs 0 j k) (.zero false)
        else accPart x.bsrc p false (src.el j k)))
    let result := fun (bs : List Beat) (i j : Nat) =>
      if i < x.m ∧ j < x.n then
        steps.foldl (fun e q =>
          if int then ((toSigned 32 e + (group bs q.1 q.2 i j).toInt) % 2 ^ 32).toNat
          else cvt .fp32 .rne false (FNum.add .rne (f32 e) (group bs q.1 q.2 i j))) (start i j)
      else start i j
    x.issueBad f v s = none →
    (x.bsrc ≠ 3 → Completes (.mmul h f) s h 1 v (fun d =>
      TakesM v d ∧ ToAcc v f.acd int (result []) d ∧ d.mprog = 0 ∧
      { v.c.undo v.e d with acc := v.c.acc, tls := v.c.tls, mprog := v.c.mprog, mmul := v.c.mmul, work := v.c.work,
                            mbeats := v.c.mbeats, mread := v.c.mread } = v.c)) ∧
    (x.bsrc = 3 → x.passes = 1 → ∀ bs u, takeBeats s v.ci 1 (ceilDiv x.k x.lane) = some (bs, u) →
      (∀ b, b ∈ bs → b.psn = false) →
      ∃ t d, exec (.mmul h f) s = .next t ∧ t.core? v.ci = some d ∧ SameMem s t ∧ Retires s h 1 v d ∧ TakesM v d ∧
        ToAcc v f.acd int (result bs) d ∧ d.mprog = 0 ∧ t = { s with cores := t.cores })

/-- R162, R180: an MMUL that continues the one mprog records pops no token and takes no number. An M instruction that reaches
issue while an MMUL or a MITER is suspended abandons it: its number completes, the accumulators stay, and the new
instruction is executed normally (shown for MZERO; which instructions do so: log entry 58). -/
def Obligations.ResumedMatrixWork : Prop :=
  (∀ (s t : State) (v : At) (h : Hdr) (f : FmtM) (d : Core), s.at? = some v → v.st.busy = false →
     mmulAgain f v = true → exec (.mmul h f) s = .next t → t.core? v.ci = some d → d.trapped = none →
     d.tokens = v.c.tokens ∧ (d.strand v.e).rsn = v.st.rsn ∧ (d.tls.at' 3).iss = (v.c.tls.at' 3).iss) ∧
  (∀ (s : State) (v : At) (h : Hdr) (f : FmtM), Ready s h v → v.tyCheck (.mzero h f) = none →
     (v.c.tls.at' 3).dones = [] → (v.c.tls.at' 3).comp.toNat + 1 = (v.c.tls.at' 3).iss.toNat →
     (v.c.tls.at' 3).iss.toNat + 1 < 2 ^ 64 → (v.c.mmulOpen != v.c.miterOpen) = true →
     Completes (.mzero h f) s h 1 v (fun d =>
       ToAcc v f.acd (f.ty == 11) (fun _ _ => 0) d ∧ (v.c.mmulOpen = true → d.mprog = 0) ∧
       (v.c.mmulOpen = false → d.mprog = v.c.mprog) ∧ d.its = v.c.its &&& 0x7FFFFFFFFFFFFFFF ∧
       (d.tls.at' 3).iss = (v.c.tls.at' 3).iss + 1 ∧ (d.tls.at' 3).comp = (d.tls.at' 3).iss))

/-- R168, R169, R171: KMOV in its three forms and KLD write coefficient registers bit for bit, a register outside the window
being +0; ITRD reads a coefficient register, its, or a field of it, into a scalar register that its strand may write. -/
def Obligations.CoefficientResults : Prop :=
  (∀ (s : State) (v : At) (h : Hdr) (f : FmtM), Ready s h v →
     let n := f.ops.toNat % 16
     let only := fun (m : Nat) (x : Nat → Nat) (d : Core) => d.acc = v.c.acc ∧
       ∀ i, i < 16 → (d.k.at' i).toNat = if n ≤ i ∧ i < n + m then x (i - n) % 2 ^ 32 else (v.c.k.at' i).toNat
     let w := s.readW v f.wa
     let ty := f.ty.toNat
     let row := f.ops.toNat / 256 % 64
     let count := f.ops.toNat / 16 % 16 + 1
     CompletesM (.kmovS h f) s h v (only 1 (fun _ => (s.readS v (f.ops.extractLsb' 4 5)).toNat)) ∧
     CompletesM (.kmovK h f) s h v (only 1 (fun _ => (v.c.k.at' (f.ops.toNat / 16 % 16)).toNat)) ∧
     CompletesM (.kmovImm h f) s h v (only 1 (fun _ => f.ops.toNat / 16 * 2 ^ 16)) ∧
     (ty ∈ [0, 1] → n + count ≤ 16 → v.winTy w false = .ok ty → row < w.rows →
       (∀ j, j < count → j < w.cols → s.checkRead v.c w (fmtOf ty) row j = none) →
       CompletesM (.kld h f) s h v (only count (fun j =>
         (if j < w.cols then s.readElem v.c w (fmtOf ty) row j else 0) * (if ty = 1 then 2 ^ 16 else 1))))) ∧
  (∀ (s : State) (v : At) (h : Hdr) (f : FmtY), Ready s h v → v.foreign f.sd = false →
     let sel := f.ops.toNat % 32
     (sel < 16 → CompletesS (.itrd h f) s h v f.sd 3 (BitVec.ofNat 64 (v.c.k.at' sel).toNat)) ∧
     (sel = 16 → CompletesS (.itrd h f) s h v f.sd 3 v.c.its) ∧
     (sel = 17 → CompletesS (.itrd h f) s h v f.sd 3 (BitVec.ofNat 64 (v.c.its.toNat / 2 ^ 40 % 256))) ∧
     (sel = 18 → CompletesS (.itrd h f) s h v f.sd 3 (BitVec.ofNat 64 (v.c.its.toNat % 2 ^ 32))))

/-- R172, R173: MPOLY, where its step runs it whole (log entry 1), evaluates its polynomial by Horner's rule over whole
products. -/
def Obligations.MpolyResults : Prop :=
  ∀ (s : State) (v : At) (h : Hdr) (f : FmtM), Ready s h v → v.budget = 0 → f.acd ≠ f.acs →
    let x := v.c.acc.read f.acs
    let d := f.ops.toNat % 16
    let D := fun (n i j : Nat) => if i = j then (v.c.k.at' n).toNat else 0
    x.tag = false → x.psn = false →
    CompletesM (.mpoly h f) s h v (fun e => e.k = v.c.k ∧ ToAcc v f.acd false
      (((List.range d).reverse.foldl (fun t n => mprod (f.flg.getLsbD 3) 0x3F800000 t.el x.el (D n))
        (Acc.of false (D d))).el) e)

/-- R174-R179: a new MITER with a cap of 1 whose iterate and residual are finite retires: X, in ACD, is the new iterate
of its form, ACS holds the old one, its.CONV and cf0 say whether the residual met the tolerance k14. A MITER that resumes
pops no token and takes no number. One that resumes at its phase 3 decides it: an iterate or residual that is not finite, and
a second growth in a row, trap ITER_DIVERGE with both accumulators as they were, its.V 0, its.DIV 1 and its.PHASE 3 and the
flags unchanged; a residual that meets k14, and the last iteration that the cap allows, end the run, and the new iterate is
in ACD. -/
def Obligations.MiterResults : Prop :=
  (∀ (s t : State) (v : At) (h : Hdr) (f : FmtM) (d : Core), s.at? = some v → v.st.busy = false →
    miterAgain f v = true → exec (.miter h f) s = .next t → t.core? v.ci = some d → d.trapped = none →
    d.tokens = v.c.tokens ∧ (d.strand v.e).rsn = v.st.rsn ∧ (d.tls.at' 3).iss = (v.c.tls.at' 3).iss) ∧
  (∀ (s : State) (v : At) (h : Hdr) (f : FmtM), s.at? = some v → v.st.busy = false → v.c.trapped = none → v.budget = 0 →
    v.tyCheck (.miter h f) = none → f.acd ≠ f.acs →
    let its := v.c.its
    let form := f.ops.toNat / 1024 % 4
    let cap := f.ops.toNat % 256
    let xa := its.extractLsb' 56 2
    let wa := its.extractLsb' 54 2
    let aa := f.ops.extractLsb' 12 2
    let n := its.toNat / 2 ^ 40 % 256 + 1
    let divc := its.toNat / 2 ^ 50 % 4
    let X := v.c.acc.read xa
    let W := v.c.acc.read wa
    its.getLsbD 63 = true → its.toNat / 2 ^ 61 % 4 = form → its.getLsbD 58 = f.flg.getLsbD 3 →
    its.toNat / 2 ^ 52 % 4 = 3 → divc ≠ 3 → n ≤ cap →
    ((xa = f.acd ∧ wa = f.acs) ∨ (xa = f.acs ∧ wa = f.acd)) → X.tag = false → W.tag = false → X.psn = false →
    W.psn = false → (form = 2 → (v.c.acc.read aa).tag = false ∧ (v.c.acc.read aa).psn = false) →
    let k := fun m => (v.c.k.at' m).toNat
    let r := cvt .fp32 .rne false ((pairs 64 64).foldl (fun t p =>
      let e := FNum.add .rne (f32 (W.el p.1 p.2)) (f32 (X.el p.1 p.2)).negate
      FNum.add .rne t (e.mul e)) (.zero false)).sqrt
    let finite := (∀ i j, i < 64 → j < 64 → (f32 (W.el i j)).notFinite = false) ∧ (f32 r).notFinite = false
    let met := f32 (k 14) ≠ .nan ∧ (f32 r).cmp (f32 (k 14)) ≠ .gt
    let grows := 2 ≤ n ∧ (f32 r).cmp ((f32 (k 15)).mul (f32 (its.toNat % 2 ^ 32))) = .gt
    let second := grows ∧ divc = 1
    let diverges := fun (detail : Nat) => ∃ t d, exec (.miter h f) s = .next t ∧ SameMem s t ∧ t.core? v.ci = some d ∧
      (d.strand v.e).trap = some (trapOf 0x0A detail 0) ∧ (d.strand v.e).pc = v.st.pc ∧ d.acc = v.c.acc ∧ d.k = v.c.k ∧
      d.its.getLsbD 63 = false ∧ d.its.getLsbD 60 = true ∧ d.its.toNat / 2 ^ 52 % 4 = 3 ∧
      (∀ i, i < 64 → i ∉ [52, 53, 60, 63] → d.its.getLsbD i = its.getLsbD i) ∧
      (∀ e, (d.strand e).cfok = (v.c.strand e).cfok ∧ (d.strand e).cfv = (v.c.strand e).cfv) ∧
      (d.tls.at' 3).iss = (v.c.tls.at' 3).iss ∧
      ((v.c.tls.at' 3).dones = [] → (v.c.tls.at' 3).comp + 1 = (v.c.tls.at' 3).iss →
        (v.c.tls.at' 3).comp.toNat + 1 = (v.c.tls.at' 3).iss.toNat → (d.tls.at' 3).comp = (v.c.tls.at' 3).iss)
    (¬ finite → diverges 0) ∧ (finite → ¬ met → second → diverges 1) ∧
    (finite → (¬ met → ¬ second) → met ∨ n = cap → v.c.flagFree 0 = true → v.st.rep v.e = none →
      ∃ t d, exec (.miter h f) s = .next t ∧ OnlyCore s t v.ci d ∧ SameMem s t ∧ d.tokens = v.c.tokens ∧ d.k = v.c.k ∧
        (d.strand v.e).rsn = v.st.rsn ∧ (d.strand v.e).pc = v.st.pc + 8 ∧ (d.strand v.e).dwc = v.st.dwc + 1 ∧
        (d.tls.at' 3).iss = (v.c.tls.at' 3).iss ∧
        (∀ i j, i < 64 → j < 64 → (d.acc.read f.acd).el i j = W.el i j ∧ (d.acc.read f.acs).el i j = X.el i j) ∧
        d.its.getLsbD 63 = false ∧ (d.its.getLsbD 59 = true ↔ met) ∧ (d.its.extractLsb' 40 8).toNat = n ∧
        (d.its.extractLsb' 0 32).toNat = r % 2 ^ 32 ∧
        ∀ e, (d.strand e).cfok.getLsbD 0 = true ∧ ((d.strand e).cfv.getLsbD 0 = true ↔ met))) ∧
  ∀ (s : State) (v : At) (h : Hdr) (f : FmtM), Ready s h v → v.settledM → v.budget = 0 →
    v.tyCheck (.miter h f) = none → f.acd ≠ f.acs →
    let form := f.ops.toNat / 1024 % 4
    let aa := f.ops.extractLsb' 12 2
    form < 3 → (form = 2 → aa ≠ f.acd ∧ aa ≠ f.acs ∧ (v.c.acc.read aa).tag = false ∧ (v.c.acc.read aa).psn = false) →
    f.ops.toNat % 256 = 1 → (v.c.acc.read f.acd).tag = false → (v.c.acc.read f.acs).tag = false →
    (v.c.acc.read f.acd).psn = false → v.c.flagFree 0 = true →
    let x3 := f.flg.getLsbD 3
    let X := (v.c.acc.read f.acd).el
    let A := (v.c.acc.read aa).el
    let k := fun n => (v.c.k.at' n).toNat
    let one := 0x3F800000
    let zero := fun (_ _ : Nat) => 0
    let R := fun (c : Nat) (t : Nat → Nat → Nat) i j => cvt .fp32 .rne false ((f32 c).mul (f32 (t i j)))
    let W0 := if form = 2 then mprod x3 one A X zero else mprod x3 one X (fun i j => X j i) zero
    let W1 := if form = 0 then Acc.of false (R (k 1) W0.el)
      else if form = 1 then mprod x3 (k 2) W0.el W0.el (R (k 1) W0.el)
      else Acc.of false (fun i j => cvt .fp32 .rne false
        (if i = j then FNum.add .rne (.dy false 2 0) (f32 (W0.el i j)).negate else (f32 (W0.el i j)).negate))
    let W := if form = 2 then mprod x3 one X W1.el zero else mprod x3 one W1.el X (R (k 0) X)
    let r := cvt .fp32 .rne false ((pairs 64 64).foldl (fun t p =>
      let e := FNum.add .rne (f32 (W.el p.1 p.2)) (f32 (X p.1 p.2)).negate
      FNum.add .rne t (e.mul e)) (.zero false)).sqrt
    let met := decide (f32 (k 14) ≠ .nan) && decide ((f32 r).cmp (f32 (k 14)) ≠ .gt)
    (∀ i j, i < 64 → j < 64 → (f32 (W.el i j)).notFinite = false) → (f32 r).notFinite = false →
    ∃ t d, exec (.miter h f) s = .next t ∧ OnlyCore s t v.ci d ∧ SameMem s t ∧ Retires s h 1 (v.withFlag 0 met) d ∧
      TakesM v d ∧ d.k = v.c.k ∧
      (∀ i j, i < 64 → j < 64 → (d.acc.read f.acd).el i j = W.el i j ∧ (d.acc.read f.acs).el i j = X i j) ∧
      (∀ a, a ≠ f.acd → a ≠ f.acs → d.acc.read a = v.c.acc.read a) ∧
      d.its.getLsbD 63 = false ∧ d.its.getLsbD 59 = met ∧ (d.its.extractLsb' 40 8).toNat = 1 ∧
      (d.its.extractLsb' 0 32).toNat = r % 2 ^ 32 ∧
      ∀ e, (d.strand e).cfok.getLsbD 0 = true ∧ (d.strand e).cfv.getLsbD 0 = met

/-- R303-R306: the loops and the direct transfers complete, in each strand: NEST, ENDN, BR, JMP, CALL and RET answer a next
state in which the strand goes on behind the word or at the target; a return entry that is no multiple of 8 traps ALIGN_FAULT
at the RET (R69). A register-form JMP or CALL completes too: the strand whose ownership covers
sa fills an empty jump slot and takes its own part, the others take theirs once the slot is full; a strand that has taken
its part and a reader that finds the slot full wait; the third to take empties the slot. A target that is not a multiple
of 8 traps ALIGN_FAULT at the reader. -/
def Obligations.ControlTransferResults : Prop :=
  (∀ (s : State) (v : At) (h : Hdr) (f : FmtK), Ready s h v →
     let st := v.st
     let l := f.lv.toNat
     let n := f.cf.toNat
     let rel := st.pc + BitVec.ofInt 52 (8 * f.imm.toInt)
     let active := st.lact.getLsbD l
     let more := (st.lc.at' l + 1).toNat < (st.lb.at' l).toNat
     let counted := { st with lc := st.lc.put l (st.lc.at' l + 1) }
     let used := { st with cfok := putBit st.cfok n false }
     (∃ t d, exec (.nest h f) s = .next t ∧ FallsThrough s t h v
       { st with lb := st.lb.put l f.imm, lc := st.lc.put l 0, lact := st.lact ||| (1#4 <<< l) } d) ∧
     (active = false → Traps (.endn h f) s v (illegalOp 0)) ∧
     (active = true → more → ∃ t d, exec (.endn h f) s = .next t ∧ GoesTo s t h v rel counted d) ∧
     (active = true → ¬ more → ∃ t d, exec (.endn h f) s = .next t ∧
       FallsThrough s t h v { counted with lact := st.lact &&& ~~~(1#4 <<< l) } d) ∧
     (st.cfok.getLsbD n = false → Waits (.br h f) s v (.flag n)) ∧
     (st.cfok.getLsbD n = true → st.cfv.getLsbD n ≠ f.cn.getLsbD 0 →
       ∃ t d, exec (.br h f) s = .next t ∧ GoesTo s t h v rel used d) ∧
     (st.cfok.getLsbD n = true → st.cfv.getLsbD n = f.cn.getLsbD 0 →
       ∃ t d, exec (.br h f) s = .next t ∧ FallsThrough s t h v used d) ∧
     (∃ t d, exec (.jmp h f) s = .next t ∧ GoesTo s t h v rel st d) ∧
     (16 ≤ st.ret.length → Traps (.call h f) s v (illegalOp 0)) ∧
     (st.ret.length < 16 →
       ∃ t d, exec (.call h f) s = .next t ∧ GoesTo s t h v rel { st with ret := (st.pc + 8) :: st.ret } d) ∧
     (st.ret = [] → Traps (.ret h f) s v (illegalOp 0)) ∧
     (∀ pc rest, st.ret = pc :: rest → pc.toNat % 8 = 0 →
       ∃ t d, exec (.ret h f) s = .next t ∧ GoesTo s t h v pc { st with ret := rest } d) ∧
     (∀ pc rest, st.ret = pc :: rest → pc.toNat % 8 ≠ 0 → Traps (.ret h f) s v (alignFault pc.toNat))) ∧
  (∀ (s : State) (v : At) (h : Hdr) (f : FmtK), Ready s h v →
     let st := v.st
     let reader := if f.sa ≠ 0 ∧ v.c.sown.getLsbD f.sa.toNat = true then Eng.v else Eng.a
     let target := s.readS v f.sa
     let mark : BitVec 3 := 1#3 <<< v.e.tag
     let called := { st with ret := (st.pc + 8) :: st.ret }
     let taken := v.c.jumpTaken ||| mark
     let through := fun (t : State) (pc : BitVec 52) (st' : Strand) (d : Core) =>
       OnlyCore s t v.ci d ∧ SameMem s t ∧ Jumps s h 1 pc (v.withStrand st') d ∧
       { (v.withStrand st').c.undo v.e d with jump := v.c.jump, jumpTaken := v.c.jumpTaken } = (v.withStrand st').c ∧
       (taken = 7 → d.jump = none ∧ d.jumpTaken = 0) ∧ (taken ≠ 7 → d.jump = some pc ∧ d.jumpTaken = taken)
     (v.e = reader → v.c.jump = none → target.toNat % 8 = 0 →
       (∃ t d, exec (.jmpReg h f) s = .next t ∧ through t (target.setWidth 52) st d) ∧
       (st.ret.length < 16 → ∃ t d, exec (.callReg h f) s = .next t ∧ through t (target.setWidth 52) called d)) ∧
     (v.e = reader → v.c.jump = none → target.toNat % 8 ≠ 0 →
       Traps (.jmpReg h f) s v (alignFault target.toNat) ∧
       (st.ret.length < 16 → Traps (.callReg h f) s v (alignFault target.toNat))) ∧
     ((v.e = reader ∧ v.c.jump ≠ none) ∨ (v.e ≠ reader ∧ (v.c.jump = none ∨ v.c.jumpTaken &&& mark ≠ 0)) →
       Waits (.jmpReg h f) s v .jump ∧ (st.ret.length < 16 → Waits (.callReg h f) s v .jump)) ∧
     (∀ pc, v.e ≠ reader → v.c.jump = some pc → v.c.jumpTaken &&& mark = 0 →
       (∃ t d, exec (.jmpReg h f) s = .next t ∧ through t pc st d) ∧
       (st.ret.length < 16 → ∃ t d, exec (.callReg h f) s = .next t ∧ through t pc called d)) ∧
     (16 ≤ st.ret.length → Traps (.callReg h f) s v (illegalOp 0)))

/-- R38, R40, R296, R304, R307, R315-R317: NOP, IPREF and, with no checkpoint of the task decided, YIELD have no effect; ESTIM
records its estimate and nothing else; under a decided checkpoint YIELD freezes the core at the YIELD. A strand walks past
a word that it does not execute, and past a loop of no iterations to its end. EXIT stops its strand with its dwc
counted, and makes the arrivals that only that strand was missing from (R225); with the third strand the core exits, once its
scan groups let it leave (R193): its overlay is cleared, its pins are released and its routes are free.
That the PC stays at the EXIT is the model's reading (log entry 43). -/
def Obligations.HintAndExitResults : Prop :=
  (∀ (s : State) (v : At) (h : Hdr) (f : FmtK) (g : FmtY), Ready s h v →
     CompletesPlain (.nop h f) s h v ∧ CompletesPlain (.ipref h g) s h v ∧
     Completes (.estim h g) s h 1 v (fun d => d.estim = s.readS v g.sa ∧ { v.c.undo v.e d with estim := v.c.estim } = v.c) ∧
     ((∀ t, s.task? v.c.task = some t → t.stage ≠ .decided none) → CompletesPlain (.yield h f) s h v) ∧
     (∀ t, s.task? v.c.task = some t → t.stage = .decided none →
       ∃ u d, exec (.yield h f) s = .next u ∧ OnlyCore s u v.ci d ∧ d.freeze = true ∧ (d.strand v.e).pc = v.st.pc ∧
         (d.strand v.e).rsn = v.st.rsn)) ∧
  (∀ (s : State) (v : At) (h : Hdr) (f : FmtK), Ready s h v →
     let last := ∀ e, e ≠ v.e → (v.c.strand e).exited = true
     let arrivals := fun (d : Core) => ∀ l, l < 5 →
       let b := v.c.bars.at' l
       let whole := (∀ e, e = v.e ∨ (v.c.strand e).exited = true ∨ b.made + 1 ≤ b.by e) ∧ ∃ e, b.made + 1 ≤ b.by e
       (whole → d.bars.at' l = { b with made := b.made + 1 }) ∧ (¬ whole → d.bars.at' l = b)
     (¬ last → TransfersTo (.exit h f) s h v v.st.pc { v.st with exited := true } (fun d => arrivals d ∧
       { (v.withStrand { v.st with exited := true }).c.undo v.e d with bars := v.c.bars } =
         (v.withStrand { v.st with exited := true }).c)) ∧
     (last → ∀ g, s.leaveHeld v.c = some g → Waits (.exit h f) s v (.scan g 0)) ∧
     (last → s.leaveHeld v.c = none → ∃ t d, exec (.exit h f) s = .next t ∧ t.core? v.ci = some d ∧ SameMem s t ∧
       Jumps s h 1 v.st.pc (v.withStrand { v.st with exited := true }) d ∧ arrivals d ∧ d.exited = true ∧ d.overlay = [] ∧
       d.pins = [] ∧
       ∀ rt, rt < 16 → (d.routes.at' rt).mode = .free)) ∧
  (∀ (s : State) (v : At) (w : Word), s.at? = some v → ∃ t d, exec (.walkedWord w) s = .next t ∧ OnlyCore s t v.ci d ∧
     SameMem s t ∧ v.st.undo (d.strand v.e) = { v.st with lact := (d.strand v.e).lact } ∧
     d.setStrand v.e v.st = v.c ∧
     (let n := 1 + w.toNat / 2 ^ 46 % 4
      (d.strand v.e).pc = v.st.pc + BitVec.ofNat 52 (8 * n) ∧ (d.strand v.e).dwc = v.st.dwc + BitVec.ofNat 64 n ∧
      (d.strand v.e).rsn = v.st.rsn ∧ (d.strand v.e).wait = .none) ∧
     (closes w = none ∨ v.st.skipping = false → (d.strand v.e).lact = v.st.lact) ∧
     (∀ l, closes w = some l → v.st.skipping = true →
       (v.st.lb.at' l = 0 → (d.strand v.e).lact = v.st.lact &&& ~~~(1#4 <<< l)) ∧
       (v.st.lb.at' l ≠ 0 → (d.strand v.e).lact = v.st.lact)))

/-- R301, R302, R316: a flag write waits until every copy of the flag is invalid, and then sets the three copies in one
step. IPIN writes whether its lines could be pinned, and pins them all or none; IUNPIN releases this core's pins of a
range. -/
def Obligations.FlagWriteResults : Prop :=
  ∀ (s : State) (v : At) (h : Hdr) (f : FmtY), Ready s h v →
    let n := f.idx.toNat
    let x := if f.ops.getLsbD 19 then f.ops.getLsbD 0 else decide (s.readS v f.sa ≠ 0)
    let cl := f.ops.getLsbD 0
    let set := fun (b : Bool) (d : Core) =>
      n < 8 → ∀ e, (d.strand e).cfok.getLsbD n = true ∧ (d.strand e).cfv.getLsbD n = b
    let va := (s.readS v f.sa).toNat
    let size := (s.readS v f.sb).toNat
    (v.c.flagFree n = false → Waits (.setcf h f) s v (.flag n) ∧ Waits (.ipin h f) s v (.flag n)) ∧
    (v.c.flagFree n = true →
      (∃ t d, exec (.setcf h f) s = .next t ∧ OnlyCore s t v.ci d ∧ Retires s h 1 (v.withFlag n x) d ∧ set x d ∧
        (v.withFlag n x).c.undo v.e d = (v.withFlag n x).c) ∧
      (s.pinsOf v f = none → ∃ t d, exec (.ipin h f) s = .next t ∧ OnlyCore s t v.ci d ∧
        Retires s h 1 (v.withFlag n false) d ∧ set false d ∧
        (v.withFlag n false).c.undo v.e d = (v.withFlag n false).c) ∧
      (∀ ps, s.pinsOf v f = some ps → ∃ t d, exec (.ipin h f) s = .next t ∧
        t = { s with cores := t.cores, clusters := t.clusters } ∧ t.core? v.ci = some d ∧
        Retires s h 1 (v.withFlag n true) d ∧ set true d ∧
        (cl = false → d.pins = v.c.pins ++ ps ∧ t.clusters = s.clusters) ∧
        (cl = true → d.pins = v.c.pins ∧
          (t.clusters.at' (s.phys v.c)).pins = (s.clusters.at' (s.phys v.c)).pins ++ ps))) ∧
    (∃ t d, exec (.iunpin h f) s = .next t ∧ t = { s with cores := t.cores, clusters := t.clusters } ∧
      t.core? v.ci = some d ∧ Retires s h 1 v d ∧
      ∀ p : Pin, (cl = false → (p ∈ d.pins ↔ p ∈ v.c.pins ∧
          ¬(p.core = v.c.vcore ∧ size ≠ 0 ∧ va / 128 ≤ p.line ∧ p.line ≤ (va + size - 1) / 128))) ∧
        (cl = true → (p ∈ (t.clusters.at' (s.phys v.c)).pins ↔ p ∈ (s.clusters.at' (s.phys v.c)).pins ∧
          ¬(p.core = v.c.vcore ∧ size ≠ 0 ∧ va / 128 ≤ p.line ∧ p.line ≤ (va + size - 1) / 128))))

/-- R54, R315, R388: a word that fails a check of R54 traps ILLEGAL_OP with the number of the check, BRK and TRAP trap with
their codes in DETAIL. -/
def Obligations.SoftwareTrapResults : Prop :=
  ∀ (s : State) (v : At) (h : Hdr) (f : FmtK) (chk : BitVec 8), s.at? = some v →
    Traps (.illegalWord chk) s v { cause := 1, detail := chk.setWidth 32, addr := 0, write := false } ∧
    (v.st.busy = false → v.c.lacking (popsOf h v.e) = none →
      Traps (.brk h f) s v { cause := 0x12, detail := BitVec.ofNat 32 (f.imm.toNat % 2 ^ 16), addr := 0, write := false } ∧
      Traps (.trap h f) s v { cause := 0x13, detail := BitVec.ofNat 32 (f.ops.toNat % 2 ^ 8), addr := 0, write := false })

/-- R300, R389, R391, R392: taking a trap freezes the core: the strand keeps its PC and holds the cause, the head of the record
names the first cause of the freeze, every other strand stands at a boundary with its PC, registers keep their values and
no memory changes; the head of a core that had trapped before names the first of the two causes in the order of R389. While
a core is frozen none of its strands issues, but for one that is in the middle of an instruction that runs to its end and,
on the clk of the first trap, for one that traps as well; a resume ends the freeze: the strands go on from their recorded
PCs. -/
def Obligations.TrapEntryState : Prop :=
  (∀ (s : State) (v : At) (x : TrapInfo), s.at? = some v →
     ∃ d, OnlyCore s (s.takeTrap v.ci v.e.tag (some v.e) x) v.ci d ∧ SameMem s (s.takeTrap v.ci v.e.tag (some v.e) x) ∧
       (d.strand v.e).trap = some x ∧
       (v.c.trapped = none → ∃ hd, d.trapped = some hd ∧ hd.info = x ∧ hd.src = v.e.tag ∧ hd.clk = s.clk) ∧
       (∀ hd, v.c.trapped = some hd → ∃ hn, d.trapped = some hn ∧
         (hd.clk = s.clk → v.e.tag < hd.src → hn.info = x ∧ hn.src = v.e.tag ∧ hn.clk = s.clk) ∧
         (¬ (hd.clk = s.clk ∧ v.e.tag < hd.src) → hn = hd)) ∧ d.halted = true ∧
       (∀ e, (d.strand e).pc = (v.c.strand e).pc ∧ (d.strand e).dwc = (v.c.strand e).dwc ∧
         (d.strand e).rsn = (v.c.strand e).rsn ∧ (d.strand e).cfv = (v.c.strand e).cfv ∧
         (d.strand e).cfok = (v.c.strand e).cfok ∧ (d.strand e).ret = (v.c.strand e).ret) ∧
       d.s = v.c.s ∧ d.v = v.c.v ∧ d.p = v.c.p ∧ d.w = v.c.w ∧ d.k = v.c.k ∧ d.acc = v.c.acc ∧ d.its = v.c.its ∧
       d.sown = v.c.sown ∧ d.ft = v.c.ft ∧ d.ftsel = v.c.ftsel ∧ d.d = v.c.d ∧ d.dm = v.c.dm ∧ d.bars = v.c.bars ∧
       d.tls = v.c.tls ∧ d.stages = v.c.stages ∧ d.overlay = v.c.overlay ∧ d.routes = v.c.routes ∧
       d.flights = [] ∧ d.mmul = none ∧ d.work = none ∧
       (v.c.work = none → d.mprog = v.c.mprog) ∧
       (v.c.work ≠ none → d.mprog = v.c.mprog &&& ~~~0x300001FFF#64)) ∧
  ((∀ (s : State) (ci : Nat) (e : Eng) (c : Core), s.core? ci = some c → c.halted = true →
     (c.strand e).midway = false → (∀ hd, c.trapped = some hd → hd.clk ≠ s.clk) → ∃ t, s.nextInstr ci e = .stay t ∧ SameMem s t ∧ ∀ d, t.core? ci = some d →
       ∀ e', (d.strand e').pc = (c.strand e').pc ∧ (d.strand e').rsn = (c.strand e').rsn) ∧
   (∀ c : Core, c.killed = false → c.started = true → c.resume.halted = false ∧
     ∀ e, (c.resume.strand e).pc = (c.strand e).pc ∧ (c.resume.strand e).dwc = (c.strand e).dwc ∧
       (c.resume.strand e).trap = none))

/-- R308-R310, R313, R314: PATCH and PATCHCLR: once the target's words have been read, a field the target does not carry, a
value outside its range and a full overlay trap PATCH_RANGE, a target fetched too far ahead traps PATCH_LATE, in that
order; otherwise the entry is added, changed or removed and nothing else changes but the translations held. REP checks
every repetition before any is made (log entry 20), over words that it fetches once; it takes its own tokens and its number, and its strand
then holds the words to repeat with the number of repetitions to come. -/
def Obligations.PatchAndRepResults : Prop :=
  (∀ (s s1 s2 : State) (v : At) (h : Hdr) (f : FmtK) (w : Word) (ext : List Word), Ready s h v →
     let code := f.ops.toNat
     let d := f.imm.toNat
     let x := v.st.pc + BitVec.ofNat 52 (8 * d)
     let trap := fun (cause : BitVec 8) =>
       ({ cause := cause, detail := BitVec.ofNat 32 (code % 256 + 256 * (d % 4096)), addr := 0, write := false } : TrapInfo)
     let n : Int := if code = 0x0D then (s.readS v f.sa).toInt else (s.readS v f.sa).toNat
     let late := fun y => ∃ e p, p ∈ (v.c.strand e).history ∧ p.2 = y ∧ v.st.dwc.toNat < p.1
     let here := fun (p : PatchEntry) => p.x = x ∧ p.field.toNat = code
     let carried := ∃ i, decode (w :: ext) = .ok i ∧ (patchPlace code i).isSome = true
     let done := fun i (ov : List PatchEntry → Prop) => ∃ t c, exec i s = .next t ∧ t.core? v.ci = some c ∧ SameMem s t ∧
       Retires s h 1 v c ∧ ov c.overlay ∧ { v.c.undo v.e c with overlay := v.c.overlay, tlb := v.c.tlb } = v.c
     (d = 0 ∨ 4095 < d ∨ code = 0 ∨ 15 < code →
       Traps (.patch h f) s v (trap 8) ∧ Traps (.patchclr h f) s v (trap 8)) ∧
     (d ≠ 0 → d ≤ 4095 → code ≠ 0 → code ≤ 15 → s.fetchWords v.ci v.st.fillBad 1 x = .got [w] s1 →
       s1.fetchWords v.ci v.st.fillBad (w.toNat / 2 ^ 46 % 4) (x + 8) = .got ext s2 →
       (¬ carried ∨ patchRange code n = false →
         exec (.patch h f) s = .next (s2.takeTrap v.ci v.e.tag (some v.e) (trap 8))) ∧
       (¬ carried → exec (.patchclr h f) s = .next (s2.takeTrap v.ci v.e.tag (some v.e) (trap 8))) ∧
       (carried → patchRange code n = true → late x →
         exec (.patch h f) s = .next (s2.takeTrap v.ci v.e.tag (some v.e) (trap 9))) ∧
       (carried → patchRange code n = true → ¬ late x → (∀ p, p ∈ v.c.overlay → ¬ here p) → v.c.overlay.length < 16 →
         done (.patch h f) (fun ov => ov = v.c.overlay ++
           [{ x := x, field := BitVec.ofNat 8 code, value := BitVec.ofInt 32 n }])) ∧
       (carried → patchRange code n = true → ¬ late x → (∀ p, p ∈ v.c.overlay → ¬ here p) → 16 ≤ v.c.overlay.length →
         exec (.patch h f) s = .next (s2.takeTrap v.ci v.e.tag (some v.e) (trap 8))) ∧
       (carried → patchRange code n = true → ¬ late x → (∃ p, p ∈ v.c.overlay ∧ here p) →
         done (.patch h f) (fun ov => ov.length = v.c.overlay.length ∧ ∀ p, p ∈ ov →
           (here p → p.value = BitVec.ofInt 32 n) ∧ (¬ here p → p ∈ v.c.overlay))) ∧
       (carried → ¬ late x → done (.patchclr h f) (fun ov => ∀ p, p ∈ ov ↔ p ∈ v.c.overlay ∧ ¬ here p))) ∧
     ((∃ p, p ∈ v.c.overlay ∧ late p.x) → Traps (.patchclrAll h f) s v (trap 9)) ∧
     ((∀ p, p ∈ v.c.overlay → ¬ late p.x) → done (.patchclrAll h f) (fun ov => ov = []))) ∧
  (∀ (s s1 s2 : State) (v : At) (h : Hdr) (f : FmtK) (rw : Word) (ws : List Word), s.at? = some v →
     (v.st.held = some (rw :: ws) ∧ ws ≠ [] ∧ s2 = s) ∨
       (v.st.held = some [rw] ∧ ∃ w ext, s.fetchWords v.ci v.st.fillBad 1 (v.st.pc + 8) = .got [w] s1 ∧
         leadCheck w = none ∧ s1.fetchWords v.ci v.st.fillBad (w.toNat / 2 ^ 46 % 4) (v.st.pc + 16) = .got ext s2 ∧
         ws = v.c.overlaid (v.st.pc + 8) (w :: ext)) →
     let n := f.ops.toNat % 64 + 1
     (∀ x, repBad s2 v rw n ws = some x → exec (.rep h f) s = .next (s2.takeTrap v.ci v.e.tag (some v.e) x)) ∧
     (∀ k, repBad s2 v rw n ws = none → v.c.lacking (popsOf h v.e) = some k →
       ∃ t d, exec (.rep h f) s = .next t ∧ t.core? v.ci = some d ∧ (d.strand v.e).held = some (rw :: ws) ∧
         (d.strand v.e).wait = .token k.toNat ∧ (d.strand v.e).rsn = v.st.rsn) ∧
     (repBad s2 v rw n ws = none → v.c.lacking (popsOf h v.e) = none →
       ∃ t d, exec (.rep h f) s = .next t ∧ t.core? v.ci = some d ∧ SameMem s t ∧
         (∀ k, d.tokens.read k = v.c.tokens.read k - (if k ∈ popsOf h v.e then 1 else 0)) ∧
         (d.strand v.e).rsn = v.st.rsn + 1 ∧ (d.strand v.e).repn = BitVec.ofNat 7 n ∧
         (d.strand v.e).held = some (rw :: ws) ∧ (d.strand v.e).pc = v.st.pc ∧ (d.strand v.e).dwc = v.st.dwc ∧
         d.s = v.c.s ∧ d.v = v.c.v ∧ d.acc = v.c.acc ∧ d.tls = v.c.tls))

/-- R110, R113, R162, R170, R277, R297, R318, R319: CSRR, TLRD and CSRW complete. CSRR reads each numbered register (where a
SCANCFG of the V strand is in flight the CFG field of scg is unspecified, R64), TLRD a timeline's completion counter or
issue count. CSRW writes its register and nothing else; a value with a bit that the register does not have, or outside
the range of slipw, traps ILLEGAL_OP; a write of mprog or its waits for the M strand. -/
def Obligations.StateRegisterResults : Prop :=
  (∀ (s : State) (v : At) (h : Hdr) (f : FmtY), Ready s h v → v.foreign f.sd = false →
     let n := f.ops.toNat % 4096
     let reads := fun x => ∃ t d, exec (.csrr h f) s = .next t ∧ WroteS s t h v f.sd 3 x d
     (n = 0x000 → reads v.c.sown) ∧ (n = 0x001 → reads (v.c.slipw.setWidth 64)) ∧ (n = 0x002 → reads v.c.ftsel) ∧
     (n = 0x003 → reads v.c.rseed) ∧ (n = 0x004 → reads v.c.mprog) ∧ (n = 0x005 → reads v.c.its) ∧
     (n = 0x006 → reads v.c.wlt) ∧ (n = 0x007 → reads s.mgmt.fnmode) ∧ (n = 0x008 → reads v.st.dwc) ∧
     (∀ t, n = 0x009 → s.task? v.c.task = some t → reads (BitVec.ofNat 64 t.late)) ∧
     (∀ l, l < 4 → n = 0x00C + l → reads ((v.st.lc.at' l).setWidth 64)) ∧
     (∀ j, j < 16 → n = 0x010 + j → reads ((v.c.ft.at' j).setWidth 64)) ∧
     (∀ l, l < 4 → n = 0x021 + l → reads (v.c.dm.at' l)) ∧
     (∀ g, g < 4 → n = 0x028 + g →
       (v.e ≠ .v ∨ v.c.flight? (s.iclk v.c) (.g g) = none → reads (v.c.scans.at' g).scg) ∧
       ∃ x, reads x ∧ ∀ i, i < 48 ∨ 56 ≤ i → x.getLsbD i = (v.c.scans.at' g).scg.getLsbD i) ∧
     (f.ops.getLsbD 0 = false →
       ∃ t d, exec (.tlrd h f) s = .next t ∧ WroteS s t h v f.sd 3 (v.c.tls.at' f.idx.toNat).comp d) ∧
     (f.ops.getLsbD 0 = true →
       ∃ t d, exec (.tlrd h f) s = .next t ∧ WroteS s t h v f.sd 3 (v.c.tls.at' f.idx.toNat).iss d)) ∧
  (∀ (s : State) (v : At) (h : Hdr) (f : FmtY), Ready s h v →
     let n := f.ops.toNat % 4096
     let x := s.readS v f.sa
     let write := fun (c : Core) => ∃ t d, exec (.csrw h f) s = .next t ∧ OnlyCore s t v.ci d ∧ SameMem s t ∧
       Retires s h 1 v d ∧ v.c.undo v.e d = c
     let clear := fun (m : BitVec 64) => x &&& m = 0
     let ftBits : BitVec 64 := 0xCF
     (n = 0 → clear 0xFFFFFFFF00000001 → write { v.c with sown := x }) ∧
     (n = 0 → ¬ clear 0xFFFFFFFF00000001 → Traps (.csrw h f) s v (illegalOp 0)) ∧
     (n = 1 → 16 ≤ x.toNat → x.toNat ≤ 4096 → write { v.c with slipw := x.setWidth 13 }) ∧
     (n = 1 → x.toNat < 16 ∨ 4096 < x.toNat → Traps (.csrw h f) s v (illegalOp 0)) ∧
     (n = 2 → clear (~~~3#64) → write { v.c with ftsel := x }) ∧
     (n = 2 → ¬ clear (~~~3#64) → Traps (.csrw h f) s v (illegalOp 0)) ∧
     (n = 3 → write { v.c with rseed := x }) ∧
     (n = 5 → v.c.strandM.busy = false → v.c.miterOpen = false → clear 0x000300FF00000000 → write { v.c with its := x }) ∧
     (n = 5 → ¬ clear 0x000300FF00000000 → Traps (.csrw h f) s v (illegalOp 0)) ∧
     (n = 5 → v.c.strandM.busy = true → clear 0x000300FF00000000 → Waits (.csrw h f) s v .mstrand) ∧
     (n = 4 → v.c.strandM.busy = false → clear 0x3FFFFFFC3FFFE000 → x.getLsbD 63 = true → v.c.mmulOpen = true →
       ∃ t d, exec (.csrw h f) s = .next t ∧ OnlyCore s t v.ci d ∧ SameMem s t ∧ Retires s h 1 v d ∧
         { v.c.undo v.e d with mprog := v.c.mprog } = v.c ∧
         d.mprog = (x &&& 0xC000000300001FFF) ||| (v.c.mprog &&& 0x00000000C0000000)) ∧
     (n = 4 → v.c.strandM.busy = false → clear 0x3FFFFFFC3FFFE000 → v.c.mmulOpen = false → write v.c) ∧
     (n = 4 → ¬ clear 0x3FFFFFFC3FFFE000 → Traps (.csrw h f) s v (illegalOp 0)) ∧
     (n = 4 → v.c.strandM.busy = true → clear 0x3FFFFFFC3FFFE000 → Waits (.csrw h f) s v .mstrand) ∧
     (∀ j, j < 16 → n = 0x10 + j → clear (~~~ftBits) → write { v.c with ft := v.c.ft.put j (x.setWidth 16) }) ∧
     (∀ j, j < 16 → n = 0x10 + j → ¬ clear (~~~ftBits) → Traps (.csrw h f) s v (illegalOp 0)))

/-- R274-R276: FENCE and the three forms of WAITT. A FENCE, and a signal, wait until no RED of the core is on its way (that
nothing else is ever outstanding is the model's memory order, log entry 2); a wait for a number that only the strand
itself could still issue traps ILLEGAL_OP. On the M strand nothing is suspended that they would abandon (R162). -/
def Obligations.FenceAndTimelineResults : Prop :=
  ∀ (s : State) (v : At) (h : Hdr) (f : FmtY), Ready s h v → (v.e = .m → v.settledM) →
    let k := f.idx.toNat
    let t := v.c.tls.at' k
    let n := if f.ops.getLsbD 19 then f.ops.toNat % 2 ^ 16 else (s.readS v f.sa).toNat
    let pending := ∃ r, r ∈ s.reqs ∧ r.kind = .red ∧ (v.c.task, v.c.vcore) ∈ r.cores
    let own := (v.e = .a ∧ (k ≤ 2 ∨ k = 4)) ∨ (v.e = .m ∧ k = 3)
    (¬ pending → CompletesPlain (.fence h f) s h v) ∧ (pending → Waits (.fence h f) s v .home) ∧
    (own → t.iss.toNat < n → Traps (.waitt h f) s v (illegalOp 0)) ∧
    (¬ (own ∧ t.iss.toNat < n) → n ≤ t.comp.toNat → CompletesPlain (.waitt h f) s h v) ∧
    (¬ (own ∧ t.iss.toNat < n) → t.comp.toNat < n → Waits (.waitt h f) s v (.timeline k n)) ∧
    (k < 8 → v.foreign f.sd = false → Completes (.waittTake h f) s h 1 v (fun d =>
      ToS s v f.sd (BitVec.ofNat 64 (t.iss.toNat + 1)) 2 d ∧ (d.tls.at' k).iss = t.iss + 1 ∧
      (d.tls.at' k).comp = t.comp ∧ (∀ j, j < 8 → j ≠ k → d.tls.at' j = v.c.tls.at' j) ∧
      { v.c.undoV v.e d with s := v.c.s, tls := v.c.tls } = v.c)) ∧
    (t.iss.toNat < n → Traps (.waittSig h f) s v (illegalOp 0)) ∧
    (n ≤ t.iss.toNat → pending → Waits (.waittSig h f) s v .home) ∧
    (k < 8 → n ≤ t.iss.toNat → ¬ pending → Completes (.waittSig h f) s h 1 v (fun d =>
      (d.tls.at' k).comp.toNat = max t.comp.toNat n ∧ (d.tls.at' k).iss = t.iss ∧
      (∀ j, j < 8 → j ≠ k → d.tls.at' j = v.c.tls.at' j) ∧ { v.c.undo v.e d with tls := v.c.tls } = v.c))

/-- R278-R281: configuring, acquiring and releasing the slots of a stage; each use of an unconfigured one raises STAGE_FAULT. A
release waits while REDs of its core are on their way (log entry 2). -/
def Obligations.StageResults : Prop :=
  (∀ (s : State) (v : At) (h : Hdr) (f : FmtY), Ready s h v → (v.c.stages.at' f.idx.toNat).word = none →
    let faults := fun j =>
      Traps j s v { cause := 0xE, detail := BitVec.ofNat 32 f.idx.toNat, addr := 0, write := false }
    (v.e = .m ∨ v.foreign f.sd = false → faults (.stgacqW h f) ∧ faults (.stgacqR h f)) ∧
    faults (.stgrelW h f) ∧ faults (.stgrelR h f)) ∧
  (∀ (s : State) (v : At) (h : Hdr) (f : FmtY) (e1 : BitVec 64), Ready s h v → f.idx.toNat < 8 →
    let k := f.idx.toNat
    let base := e1.toNat / 2 ^ 38
    let size := e1.toNat / 2 ^ 20 % 2 ^ 18
    let last := base + (e1.toNat / 2 ^ 16 % 16 + 1) * size - 1
    base % 16 = 0 → size % 16 = 0 → (regionOf base).isSome = true → regionOf base = regionOf last →
    (∀ e, (v.c.strand e).holdsStage k = false) → (∀ c x, c ∈ s.cores → x ∈ c.releasing → x.stage? = some k →
      ∀ o, s.coreAt (s.phys c) (x.stageOwner s c) ≠ some (v.ci, o)) →
    Completes (.stgcfg h f e1) s h 2 v (fun d => { v.c.undo v.e d with stages := v.c.stages } = v.c ∧
      (∀ j, j < 8 → j ≠ k → d.stages.at' j = v.c.stages.at' j) ∧ (d.stages.at' k).word = some e1 ∧
      ∀ m, m < 16 → (d.stages.at' k).slots.at' m = { seq := BitVec.ofNat 64 m, pct := 0, cct := 0 })) ∧
  ∀ (s : State) (v : At) (h : Hdr) (f : FmtY) (w : BitVec 64), Ready s h v → (v.e = .m → v.settledM) → f.idx.toNat < 8 →
    (v.c.stages.at' f.idx.toNat).word = some w →
    let k := f.idx.toNat
    let q := (s.readS v f.sa).toNat
    let N := w.toNat / 2 ^ 16 % 16 + 1
    let prod := w.toNat / 2 ^ 8 % 256
    let cons := w.toNat % 256
    let i := q % N
    let slot := (v.c.stages.at' k).slots.at' i
    let addr := w.toNat / 2 ^ 38 + i * (w.toNat / 2 ^ 20 % 2 ^ 18)
    let pending := ∃ r, r ∈ s.reqs ∧ r.kind = .red ∧ (v.c.task, v.c.vcore) ∈ r.cores
    let gives := fun j => (v.e = .m → CompletesPlain j s h v) ∧
      (v.e ≠ .m → v.foreign f.sd = false → CompletesS j s h v f.sd 2 (BitVec.ofNat 64 addr))
    let faults := fun j => Traps j s v { cause := 0xE, detail := BitVec.ofNat 32 k, addr := 0, write := false }
    let frame := fun (d : Core) => { v.c.undo v.e d with stages := v.c.stages } = v.c ∧
      ∀ j, j < 8 → j ≠ k → d.stages.at' j = v.c.stages.at' j
    let updates := fun j (x : StageSlot) => Completes j s h 1 v (fun d => frame d ∧
      (d.stages.at' k).word = some w ∧ (d.stages.at' k).slots.at' i = x ∧
      ∀ m, m < 16 → m ≠ i → (d.stages.at' k).slots.at' m = (v.c.stages.at' k).slots.at' m)
    (v.e = .m ∨ v.foreign f.sd = false → q < slot.seq.toNat ∨ (q = slot.seq.toNat ∧ slot.pct = prod) →
      faults (.stgacqW h f)) ∧
    (q = slot.seq.toNat → slot.pct ≠ prod → gives (.stgacqW h f)) ∧
    (v.e = .m ∨ v.foreign f.sd = false → slot.seq.toNat < q → Waits (.stgacqW h f) s v (.stage k q false)) ∧
    (v.e = .m ∨ v.foreign f.sd = false → q < slot.seq.toNat → faults (.stgacqR h f)) ∧
    (q = slot.seq.toNat → slot.pct = prod → gives (.stgacqR h f)) ∧
    (v.e = .m ∨ v.foreign f.sd = false → slot.seq.toNat < q ∨ (q = slot.seq.toNat ∧ slot.pct ≠ prod) →
      Waits (.stgacqR h f) s v (.stage k q true)) ∧
    (slot.seq.toNat ≠ q ∨ slot.pct = prod → faults (.stgrelW h f)) ∧
    (slot.seq.toNat = q → slot.pct ≠ prod → pending → Waits (.stgrelW h f) s v .home) ∧
    (slot.seq.toNat = q → prod ≤ slot.pct → slot.cct ≠ cons → pending → Waits (.stgrelR h f) s v .home) ∧
    (slot.seq.toNat = q → slot.pct ≠ prod → ¬ pending → updates (.stgrelW h f) { slot with pct := slot.pct + 1 }) ∧
    (slot.seq.toNat ≠ q ∨ slot.pct < prod ∨ slot.cct = cons → faults (.stgrelR h f)) ∧
    (slot.seq.toNat = q → prod ≤ slot.pct → slot.cct ≠ cons → ¬ pending →
      (slot.cct + 1 ≠ cons → updates (.stgrelR h f) { slot with cct := slot.cct + 1 }) ∧
      (slot.cct + 1 = cons →
        updates (.stgrelR h f) { seq := slot.seq + BitVec.ofNat 64 N, pct := 0, cct := 0 }))

/-- R283-R286, R292: arrivals, waits and SYNC at a barrier level, DMSET and QUIESCE. DMSET completes at once on a strand
other than A (log entry 15). -/
def Obligations.BarrierResults : Prop :=
  ∀ (s : State) (v : At) (h : Hdr) (f : FmtY), Ready s h v → f.idx.toNat < 5 →
    let lvl := f.idx.toNat
    let b := v.c.bars.at' lvl
    let mine := b.by v.e
    let broken := { cause := 0xC, detail := BitVec.ofNat 32 lvl, addr := 0, write := false : TrapInfo }
    let domain := { cause := 0xF, detail := BitVec.ofNat 32 lvl, addr := 0, write := false : TrapInfo }
    let all := ∀ e, e ≠ v.e → (v.c.strand e).exited = true ∨ b.made + 1 ≤ b.by e
    let arrives := fun (d : Core) =>
      (d.bars.at' lvl).by v.e = mine + 1 ∧ (∀ e, e ≠ v.e → (d.bars.at' lvl).by e = b.by e) ∧
      (d.bars.at' lvl).done = b.done ∧ (all → (d.bars.at' lvl).made = b.made + 1) ∧
      (¬ all → (d.bars.at' lvl).made = b.made) ∧
      ∀ j, j < 8 → j ≠ lvl → d.bars.at' j = v.c.bars.at' j
    (b.broken = true → Traps (.arrive h f) s v broken ∧ Traps (.waitb h f) s v broken ∧ Traps (.sync h f) s v broken) ∧
    (b.broken = false →
      (b.made < mine → Waits (.arrive h f) s v (.barrier lvl)) ∧
      (mine ≤ b.made → b.done < b.made → Traps (.arrive h f) s v domain) ∧
      (mine = b.made → b.made ≤ b.done →
        Completes (.arrive h f) s h 1 v (fun d => arrives d ∧ { v.c.undo v.e d with bars := v.c.bars } = v.c) ∧
        (v.st.synced ≠ some lvl → ∃ t d, exec (.sync h f) s = .next t ∧ OnlyCore s t v.ci d ∧ arrives d ∧
          (d.strand v.e).synced = some lvl ∧ (d.strand v.e).pc = v.st.pc ∧ (d.strand v.e).wait = .barrier lvl)) ∧
      (mine = 0 → Traps (.waitb h f) s v domain) ∧
      (mine ≠ 0 → mine ≤ b.done → CompletesPlain (.waitb h f) s h v) ∧
      (mine ≠ 0 → b.done < mine → Waits (.waitb h f) s v (.barrier lvl)) ∧
      (v.st.synced = some lvl → mine ≤ b.done → CompletesPlain (.sync h f) s h v) ∧
      (v.st.synced = some lvl → b.done < mine → Waits (.sync h f) s v (.barrier lvl))) ∧
    (1 ≤ lvl → lvl ≤ 3 →
      (v.e ≠ .a → CompletesPlain (.dmset h f) s h v) ∧
      (v.e = .a → (∃ l, l ≤ lvl ∧ ((v.c.bars.at' l).done < (v.c.bars.at' l).made ∨
        (v.c.bars.at' l).done < (v.c.bars.at' l).byA)) → Traps (.dmset h f) s v domain) ∧
      (v.e = .a → (∀ l, l ≤ lvl → (v.c.bars.at' l).made ≤ (v.c.bars.at' l).done ∧
        (v.c.bars.at' l).byA ≤ (v.c.bars.at' l).done) →
        Completes (.dmset h f) s h 1 v (fun d =>
          d.dmNext.at' (lvl - 1) = some (BitVec.ofNat 64 ((s.readS v f.sa).toNat % 2 ^ 16 +
            (if f.ops.getLsbD 0 then 2 ^ 16 else 0))) ∧
          { v.c.undo v.e d with dmNext := v.c.dmNext } = v.c))) ∧
    (v.c.quiet = none → Waits (.quiesce h f) s v (.quiesce lvl)) ∧
    (∀ r, v.c.quiet = some r →
      (v.c.flagFree (f.ops.toNat % 8) = false → Waits (.quiesce h f) s v (.flag (f.ops.toNat % 8))) ∧
      (v.c.flagFree (f.ops.toNat % 8) = true → ∃ t d, exec (.quiesce h f) s = .next t ∧ OnlyCore s t v.ci d ∧
        d.quiet = none ∧ ∀ e, (d.strand e).pc = (v.c.strand e).pc + 8 ∧ (d.strand e).dwc = (v.c.strand e).dwc + 1 ∧
          (d.strand e).wait = .none ∧ (d.strand e).cfok.getLsbD (f.ops.toNat % 8) = true ∧
          (d.strand e).cfv.getLsbD (f.ops.toNat % 8) = (r == 1)))

/-- R243-R246, R266, R403: LDS, STS and LDTD by VA and LDS.w, STS.w at a window element: the bytes read reach sd,
sign-extended for TY 8, 10 and 11; the low bytes of sd are stored; a descriptor that obeys R245 reaches its register. A
fault of the translation, a poisoned byte read and a misaligned descriptor trap; a page that is being filled makes the
strand wait. An access that is not naturally aligned is performed byte by byte in an order that is not specified (R213),
a descriptor as sixteen 8-byte reads in ascending order; a poisoned byte traps what is left. That a strand waits while its
core's REDs are on their way is the model's choice (log entry 2), as are that each part is a step of its own (log entry 57) and
that RSN goes back by one where a part traps (log entry 13); that a window of another type traps ILLEGAL_OP with DETAIL 7 is its
reading (log entry 19). -/
def Obligations.ScalarAccessResults : Prop :=
  (∀ (s : State) (v : At) (h : Hdr) (f : FmtC), s.Inv → Ready s h v →
    let ty := f.ops.toNat / 2 ^ 11 % 16
    let n := if ty = 12 then 8 else if ty ∈ [0, 11] then 4 else if ty ∈ [1, 2, 10] then 2 else 1
    let va := (s.readS v f.sa + BitVec.ofInt 64 (f.ops.setWidth 11).toInt).toNat % 2 ^ 52
    let ext := fun (x : Nat) => if ty ∈ [8, 10, 11] ∧ 2 ^ (8 * n - 1) ≤ x then BitVec.ofInt 64 ((x : Int) - 2 ^ (8 * n))
      else BitVec.ofNat 64 x
    let w := s.readW v f.dr
    let t := fmtOf ty
    let row := (s.readS v f.sa).toNat
    let col := (s.readS v f.sb).toNat
    (ty ∈ [0, 1, 2, 3, 4, 6, 8, 9, 10, 11, 12] → s.redsPending v.c = false →
      (∀ as e l u, s.access v .load va n = .ok as e l u → v.foreign f.sd = false →
        (as.any s.poisoned = true → Traps (.lds h f) s v (poisonTrap 0 va)) ∧
        (as.any s.poisoned = false → va % n ≠ 0 →
          StartsParts (.lds h f) s h v
            { va := va, ordered := false, todo := (List.range n).map (fun i => [(i, as.getD i 0, 0)]), got := [] }) ∧
        (as.any s.poisoned = false → va % n = 0 → CompletesAccess (.lds h f) s h v [] (fun _ d =>
          ToS s v f.sd (ext (leNat (as.map (readByte s.mem)))) 0 d ∧
          { v.c.undoV v.e d with s := v.c.s, tlb := v.c.tlb } = v.c))) ∧
      (∀ x, s.access v .load va n = .trap x → v.foreign f.sd = false → TrapsAt (.lds h f) s v x) ∧
      (∀ x, s.access v .load va n = .hold x → v.foreign f.sd = false → WaitsForFill (.lds h f) s v x false) ∧
      (∀ as e l u, s.access v .store va n = .ok as e l u → va % n ≠ 0 →
        StartsParts (.sts h f) s h v { va := va, ordered := false, todo := (List.range n).map (fun i =>
          [(i, as.getD i 0, BitVec.ofNat 8 ((s.readS v f.sd).toNat / 2 ^ (8 * i)))]), got := [] }) ∧
      (∀ as e l u, s.access v .store va n = .ok as e l u → va % n = 0 → CompletesAccess (.sts h f) s h v as (fun t d =>
        { v.c.undo v.e d with tlb := v.c.tlb } = v.c ∧
        ∀ i, i < n → (∀ j, i < j → j < n → as.getD j 0 ≠ as.getD i 0) →
          (readByte t.mem (as.getD i 0)).toNat = (s.readS v f.sd).toNat / 2 ^ (8 * i) % 2 ^ 8)) ∧
      (∀ x, s.access v .store va n = .trap x → TrapsAt (.sts h f) s v x) ∧
      (∀ x, s.access v .store va n = .hold x → WaitsForFill (.sts h f) s v x true)) ∧
    (ty ∈ [0, 1, 2, 3, 4, 6, 8, 9, 10, 11] → v.foreign f.sd = false →
      (∀ y, v.winTy w false = .ok y → y ≠ ty → Traps (.ldsW h f) s v (illegalOp 7) ∧ Traps (.stsW h f) s v (illegalOp 7)) ∧
      (v.winTy w false = .ok ty → w.rows ≤ row →
        Traps (.ldsW h f) s v (rowFault w row) ∧ Traps (.stsW h f) s v (rowFault w row)) ∧
      (v.winTy w false = .ok ty → row < w.rows → w.cols ≤ col →
        CompletesS (.ldsW h f) s h v f.sd 0 0 ∧ CompletesPlain (.stsW h f) s h v) ∧
      (v.winTy w false = .ok ty → row < w.rows → col < w.cols →
        (∀ x, s.checkRead v.c w t row col = some x → Traps (.ldsW h f) s v x) ∧
        (s.checkRead v.c w t row col = none → CompletesS (.ldsW h f) s h v f.sd 0 (ext (s.readElem v.c w t row col))) ∧
        (∀ x, s.checkWrite v.c w t row col = some x → Traps (.stsW h f) s v x) ∧
        (s.checkWrite v.c w t row col = none → f.ord = 2 → s.redsPending v.c = true → Waits (.stsW h f) s v .home) ∧
        (s.checkWrite v.c w t row col = none → f.ord ≠ 2 ∨ s.redsPending v.c = false →
          CompletesStore (.stsW h f) s h 1 v (v.elemBytes s w t row col) (fun u d => v.c.undo v.e d = v.c ∧
            u.readElem v.c w t row col = (s.readS v f.sd).toNat % 2 ^ (8 * n))))) ∧
    (va % 8 ≠ 0 → Traps (.ldtd h f) s v (alignFault va)) ∧
    (va % 8 = 0 → s.redsPending v.c = false →
      (∀ x, s.access v .load va 128 = .trap x → TrapsAt (.ldtd h f) s v x) ∧
      (∀ x, s.access v .load va 128 = .hold x → WaitsForFill (.ldtd h f) s v x false) ∧
      (∀ as e l u, s.access v .load va 128 = .ok as e l u →
        (as.any s.poisoned = true → Traps (.ldtd h f) s v (poisonTrap 0 va)) ∧
        let reads := (List.range 16).map (fun q => (List.range 8).map (fun i => (8 * q + i, as.getD (8 * q + i) 0, 0)))
        (as.any s.poisoned = false →
          StartsParts (.ldtd h f) s h v { va := va, ordered := true, got := [], todo := reads }))) ∧
    (s.redsPending v.c = true → (v.foreign f.sd = false → Waits (.lds h f) s v .home) ∧ Waits (.sts h f) s v .home)) ∧
  (∀ (s : State) (v : At) (h : Hdr) (f : FmtC) (x : Split), s.at? = some v → v.st.busy = true → v.c.split = some x →
     x.todo ≠ [] → v.st.rep v.e = none →
     let ty := f.ops.toNat / 2 ^ 11 % 16
     let size := if ty = 12 then 8 else if ty ∈ [0, 11] then 4 else if ty ∈ [1, 2, 10] then 2 else 1
     let all := fun (n : Nat) (got : List (Nat × BitVec 8)) (bs : List (BitVec 8)) => got.length = n ∧ bs.length = n ∧
       ∀ i, i < n → ∃ b, b ∈ got ∧ b.1 = i ∧ bs.getD i 0 = b.2 ∧ ∀ c, c ∈ got → c.1 = i → c = b
     let poison := x.todo.all (fun p => p.any (fun b => s.poisoned b.2.1))
     let clean := x.todo.all (fun p => p.all (fun b => !s.poisoned b.2.1))
     DoesPart (.sts h f) s v x true (fun _ _ => True) ∧
     (clean = true → ty ∈ [0, 1, 2, 3, 4, 6, 8, 9, 10, 11, 12] →
       DoesPart (.lds h f) s v x false (fun d got => ∀ bs, all size got bs →
         ToS s v f.sd (if ty ∈ [8, 10, 11] ∧ 2 ^ (8 * size - 1) ≤ leNat bs then BitVec.ofInt 64 ((leNat bs : Int) - 2 ^ (8 * size))
           else BitVec.ofNat 64 (leNat bs)) 0 d)) ∧
     (poison = true → ∃ t d, exec (.lds h f) s = .next t ∧ t.mem = s.mem ∧ t.core? v.ci = some d ∧ d.split = none ∧
       (d.strand v.e).trap = some (poisonTrap 0 x.va) ∧ (d.strand v.e).pc = v.st.pc ∧ (d.strand v.e).rsn = v.st.rsn - 1) ∧
     (clean = true → 1 < x.todo.length → (s.readS v f.sa + BitVec.ofInt 64 (f.ops.setWidth 11).toInt).toNat % 8 = 0 →
       DoesPart (.ldtd h f) s v x false (fun _ _ => True)) ∧
     (∀ p bs, clean = true → x.todo = [p] →
       (s.readS v f.sa + BitVec.ofInt 64 (f.ops.setWidth 11).toInt).toNat % 8 = 0 →
       all 128 (x.got ++ p.map (fun b => (b.1, readByte s.mem b.2.1))) bs →
       (descOk (leNat bs) = true → DoesPart (.ldtd h f) s v x false (fun d _ => (d.d.read f.dr).toNat = leNat bs ∧
         ∀ r, r ≠ f.dr → d.d.read r = v.c.d.read r)) ∧
       (descOk (leNat bs) = false → ∃ t d, exec (.ldtd h f) s = .next t ∧ t.mem = s.mem ∧ t.core? v.ci = some d ∧
         (d.strand v.e).trap = some (illegalOp 0) ∧ (d.strand v.e).pc = v.st.pc ∧ (d.strand v.e).rsn = v.st.rsn - 1 ∧
         d.d = v.c.d)))

/-- R269-R273, R232: at issue ATOM and CAS hand a request to their home and hold the strand, RED retires once its request
is accepted, alone or combined with one of the same address, operation and type; where all 16 entries of its port's merge
buffer are taken by others it waits. A misaligned address and a fault of the translation trap. An entry leaves a merge
buffer; a window of 2^20 clk moves the home of a region to a die that issued 75% of at least 256 atomics, unless it is
locked. That each cluster port has one such buffer, that a RED with .rel and one to an SO page are sent at once, and that an
entry which leaves may still be joined to one of another port are the model's choices (log entry 56). -/
def Obligations.AtomicIssueResults : Prop :=
  (∀ (s : State) (v : At) (h : Hdr) (f : FmtC), Ready s h v →
    let va := (s.readS v f.sa + BitVec.ofInt 64 (f.ops.setWidth 8).toInt).toNat % 2 ^ 52
    let ty := f.ops.toNat / 2 ^ 8 % 16
    let z := if ty = 12 then 8 else 4
    let cty := if f.ops.getLsbD 8 then 12 else 11
    let cz := if f.ops.getLsbD 8 then 8 else 4
    let sc := (s.readS v (f.ops.extractLsb' 11 5)).toNat
    let op := f.ops.toNat / 2 ^ 12 % 16
    let arg := fun (n : Nat) => (s.readS v f.sb).toNat % 2 ^ (8 * n)
    let request := fun (k : HomeKind) (as : List Nat) (aop ty x cmp : Nat) (r : HomeReq) =>
      r.kind = k ∧ r.cores = [v.c.key] ∧ r.via = [((s.ctx v.c).asid, va)] ∧ r.die = s.die v.c ∧ r.port = s.phys v.c ∧
      (r.rel = true ↔ f.ord = 2) ∧ r.va = va ∧ r.addr = as.headD 0 ∧ r.aop = aop ∧ r.ty = ty ∧
      r.val = x ∧ r.cmp = cmp ∧ r.since = s.clk
    let issued := fun (i : Instr) (u : State) (k : HomeKind) (as : List Nat) (aop ty x cmp : Nat) (so : Prop) =>
      ∃ t d r, exec i s = .next t ∧ t = { u with cores := t.cores, reqs := s.reqs ++ [r] } ∧ r.sent = true ∧ (r.so = true ↔ so) ∧
        request k as aop ty x cmp r ∧ t.core? v.ci = some d ∧ (d.strand v.e).busy = true ∧
        (d.strand v.e).wait = .home ∧ (d.strand v.e).pc = v.st.pc ∧ (d.strand v.e).rsn = v.st.rsn + 1 ∧ d.s = v.c.s ∧
        ∀ k, d.tokens.read k = v.c.tokens.read k - (if k ∈ popsOf h v.e then 1 else 0)
    (va % z ≠ 0 → (v.foreign f.sd = false → Traps (.atom h f) s v (alignFault va)) ∧ Traps (.red h f) s v (alignFault va)) ∧
    (va % cz ≠ 0 → v.foreign f.sd = false → Traps (.cas h f) s v (alignFault va)) ∧
    (va % z = 0 → v.foreign f.sd = false → s.redsPending v.c = false →
      (∀ x, s.access v .atomic va z = .trap x → TrapsAt (.atom h f) s v x) ∧
      (∀ x, s.access v .atomic va z = .hold x → WaitsForFill (.atom h f) s v x true) ∧
      (∀ as e l u, s.access v .atomic va z = .ok as e l u → issued (.atom h f) u .atom as op ty (arg z) 0 (e.ord = 1))) ∧
    (va % cz = 0 → v.foreign f.sd = false → s.redsPending v.c = false →
      (∀ x, s.access v .atomic va cz = .trap x → TrapsAt (.cas h f) s v x) ∧
      (∀ as e l u, s.access v .atomic va cz = .ok as e l u →
        issued (.cas h f) u .cas as 8 cty (arg cz) (sc % 2 ^ (8 * cz)) (e.ord = 1))) ∧
    (va % z = 0 →
      (∀ x, s.access v .atomic va z = .trap x → TrapsAt (.red h f) s v x) ∧
      (∀ x, s.access v .atomic va z = .hold x → WaitsForFill (.red h f) s v x true) ∧
      (∀ as e l u, s.access v .atomic va z = .ok as e l u → f.ord = 0 → e.ord ≠ 1 →
        16 ≤ (s.reqs.filter (fun q => !q.sent && q.port == s.phys v.c)).length →
        (∀ q, q ∈ s.reqs → ¬ (q.kind = .red ∧ q.sent = false ∧ q.addr = as.headD 0 ∧ q.aop = op ∧ q.ty = ty)) →
        Waits (.red h f) s v .home) ∧
      (∀ as e l u, s.access v .atomic va z = .ok as e l u →
        f.ord ≠ 0 ∨ e.ord = 1 ∨ (s.reqs.filter (fun q => !q.sent && q.port == s.phys v.c)).length < 16 →
        ∃ t d, exec (.red h f) s = .next t ∧ t = { u with cores := t.cores, reqs := t.reqs } ∧ t.core? v.ci = some d ∧
          Retires s h 1 v d ∧ { v.c.undo v.e d with tlb := v.c.tlb } = v.c ∧
          ((∃ r, t.reqs = s.reqs ++ [r] ∧ request .red as op ty (arg z) 0 r ∧ (r.so = true ↔ e.ord = 1) ∧
              (r.sent = true ↔ f.ord ≠ 0 ∨ e.ord = 1)) ∨
           (∃ (i : Nat) (q : HomeReq), s.reqs[i]? = some q ∧ q.kind = .red ∧ q.sent = false ∧ q.addr = as.headD 0 ∧ q.aop = op ∧ q.ty = ty ∧
              f.ord = 0 ∧ e.ord ≠ 1 ∧ t.reqs[i]? = some { q with
                val := aopApply op ty q.val (arg z), cores := q.cores ++ [v.c.key], via := q.via ++ [((s.ctx v.c).asid, va)] } ∧
              ∀ j, j ≠ i → t.reqs[j]? = s.reqs[j]?))))) ∧
  (∀ (s : State) (i : Nat) (r : HomeReq), s.reqs[i]? = some r → r.sent = false →
    let leaves := fun (t : State) => t = { s with reqs := t.reqs } ∧ t.reqs.length = s.reqs.length ∧
      t.reqs[i]? = some { r with sent := true } ∧ ∀ j, j ≠ i → t.reqs[j]? = s.reqs[j]?
    ∃ t, exec (.mergeBufferForward i) s = .next t ∧ (leaves t ∨
      (t = { s with reqs := t.reqs } ∧ ∃ (j : Nat) (q : HomeReq), (s.reqs.eraseIdx i)[j]? = some q ∧ q.kind = .red ∧ q.sent = false ∧
        q.addr = r.addr ∧ q.aop = r.aop ∧ q.ty = r.ty ∧
        t.reqs[j]? = some { q with val := aopApply q.aop q.ty q.val r.val, cores := q.cores ++ r.cores, via := q.via ++ r.via } ∧
        ∀ k, k ≠ j → t.reqs[k]? = (s.reqs.eraseIdx i)[k]?))) ∧
  (∀ s : State, s.clk % 2 ^ 20 = 0 → ∃ t, exec .homeMigrationWindow s = .next t ∧ t = { s with homes := t.homes } ∧
    ∀ (j : Nat) (x : Home), s.homes[j]? = some x → ∃ y, t.homes[j]? = some y ∧ y.region = x.region ∧ y.lock = x.lock ∧
      y.big = x.big ∧ y.counts = [] ∧
      (let total := (x.counts.map (fun p => p.2)).sum
       let moves := fun (p : Nat × Nat) => p.1 ≠ x.die ∧ 3 * total ≤ 4 * p.2 ∧ 256 ≤ total ∧ x.lock = false ∧ x.big = false
       (∀ p, p ∈ x.counts → moves p → y.die = p.1) ∧ ((∀ p, p ∈ x.counts → ¬ moves p) → y.die = x.die)))

/-- R218, R223, R231, R271, R272: a request at its home is performed indivisibly, once every earlier request of its core
that reaches a common byte, or that it carries .rel over, or that shares SO pages with it, has been performed: the location takes the operation's new value, ATOM
and CAS return the old one to sd and retire, and no other byte changes; at a poisoned location a RED is discarded and an
ATOM or CAS traps POISON, and nothing is written (that RSN goes back by one there is the model's reading, log entry 13). -/
def Obligations.HomeAtomicResults : Prop :=
  ∀ (s : State) (i : Nat) (r : HomeReq), s.Inv → s.reqs[i]? = some r → r.sent = true →
    let after := fun (q : HomeReq) => (∃ k, k ∈ r.cores ∧ k ∈ q.cores) ∧
      (r.rel = true ∨ (r.so = true ∧ q.so = true) ∨
        (r.addr < q.addr + (if q.ty = 12 then 8 else 4) ∧ q.addr < r.addr + (if r.ty = 12 then 8 else 4)))
    ((∃ j q, j < i ∧ s.reqs[j]? = some q ∧ after q) → exec (.homeAtomic i) s = .next s) ∧
    ((∀ j q, j < i → s.reqs[j]? = some q → ¬ after q) →
    let z := if r.ty = 12 then 8 else 4
    let w := 8 * z
    let old := readNat s.mem r.addr z
    let sg := fun (x : Nat) => if x < 2 ^ (w - 1) then (x : Int) else (x : Int) - 2 ^ w
    let new := if r.kind = .cas then (if old = r.cmp then r.val else old)
      else if r.ty = 0 then
        (if r.aop = 0 then cvt .fp32 .rne false (FNum.add .rne (f32 old) (f32 r.val))
         else if r.aop = 4 then cvt .fp32 .rne false ((f32 old).min (f32 r.val))
         else if r.aop = 5 then cvt .fp32 .rne false ((f32 old).max (f32 r.val)) else r.val)
      else match r.aop with
        | 0 => old + r.val
        | 1 => old &&& r.val
        | 2 => old ||| r.val
        | 3 => old ^^^ r.val
        | 4 => if sg r.val < sg old then r.val else old
        | 5 => if sg old < sg r.val then r.val else old
        | 6 => min old r.val
        | 7 => max old r.val
        | _ => r.val
    let gone := fun (t : State) => t.reqs = s.reqs.eraseIdx i
    let performed := fun (t : State) => SameMemBut s t ((List.range z).map (fun k => r.addr + k)) ∧
      readNat t.mem r.addr z = new % 2 ^ w
    let waiting := fun (v : At) (hd : Hdr) (sd : BitVec 5) => r.kind ≠ .red ∧ ((r.cores.head?).bind s.place) = some v.ci ∧
      s.core? v.ci = some v.c ∧ v.c.halted = false ∧ v.e = .a ∧ v.st = v.c.strandA ∧
      v.st.repn = 0 ∧ v.st.busy = true ∧ ∃ (f : FmtC) (w0 : Word), v.st.held = some [w0] ∧ hd = Hdr.ofWord w0 ∧ sd = f.sd ∧
        (decode [w0] = .ok (.atom hd f) ∨ decode [w0] = .ok (.cas hd f))
    (r.val < 2 ^ w → s.poisoned r.addr = false →
      (r.kind = .red → ∃ t, exec (.homeAtomic i) s = .next t ∧ gone t ∧ performed t ∧ t.cores = s.cores) ∧
      (∀ v hd sd, waiting v hd sd → ∃ t d, exec (.homeAtomic i) s = .next t ∧ gone t ∧ performed t ∧
        t.core? v.ci = some d ∧ (∀ j, j ≠ v.ci → t.core? j = s.core? j) ∧
        ToS s v sd (if r.ty = 11 then BitVec.ofInt 64 (sg old) else BitVec.ofNat 64 old) 0 d ∧
        { v.c.undo v.e d with s := v.c.s } = v.c ∧ d.tokens = v.c.tokens ∧
        d.strandA.pc = v.st.pc + 8 ∧ d.strandA.dwc = v.st.dwc + 1 ∧ d.strandA.rsn = v.st.rsn ∧ d.strandA.busy = false ∧
        d.strandA.wait = .none)) ∧
    (s.poisoned r.addr = true →
      (r.kind = .red → ∃ t, exec (.homeAtomic i) s = .next t ∧ gone t ∧ t.mem = s.mem ∧ t.poison = s.poison ∧
        t.cores = s.cores) ∧
      (∀ v hd sd, waiting v hd sd → ∃ t d, exec (.homeAtomic i) s = .next t ∧ gone t ∧ t.mem = s.mem ∧
        t.core? v.ci = some d ∧ d.strandA.trap = some (poisonTrap 0 r.va) ∧ d.s = v.c.s ∧
        d.strandA.pc = v.st.pc ∧ d.strandA.rsn = v.st.rsn - 1)))

/-- R235-R239, R247-R264: a copy instruction waits for a slot of its channel; where its operands do not pass the checks
made at issue it traps, otherwise it retires once accepted: it stands last in its channel with the operands captured and
the next numbers of its two timelines, and as a phase copy (PH) it has not started. PREF at most asks for fills. DRAIN
waits until its channel is empty. -/
def Obligations.CopyIssueResults : Prop :=
  ∀ (s : State) (v : At) (h : Hdr) (f : FmtC) (e1 e2 e3 : Word), Ready s h v →
    let ch := f.ch.toNat
    let q := (v.c.chans.at' ch).queue
    let issues := fun (i : Instr) (k : CopyKind) (len tl : Nat) (phase : Bool) (build : Except TrapInfo Copy) =>
      (16 ≤ q.length → Waits i s v (.channel ch)) ∧
      (∀ x, q.length < 16 → build = .error x → Traps i s v x) ∧
      (∀ x, q.length < 16 → build = .ok x →
        x.kind = k ∧ x.dst = s.readS v f.sd ∧ x.src = s.readS v f.sa ∧ x.cnt = s.readS v f.sb ∧
        x.desc = v.c.d.read f.dr ∧ x.prog = 0 ∧ x.fault = none ∧
        Completes i s h len v (fun d =>
          (∃ y, (d.chans.at' ch).queue = q ++ [y] ∧
            { y with n0 := x.n0, n1 := x.n1, started := x.started, phase := x.phase, owed := x.owed } = x ∧
            y.n0 = (v.c.tls.at' 0).iss.toNat + 1 ∧ y.n1 = (v.c.tls.at' tl).iss.toNat + 1 ∧
            (phase = false → y.started = true ∧ y.phase = none) ∧
            (phase = true → y.started = false ∧ y.phase = some f.scp.toNat)) ∧
          (d.tls.at' 0).iss = (v.c.tls.at' 0).iss + 1 ∧ (d.tls.at' tl).iss = (v.c.tls.at' tl).iss + 1 ∧
          (∀ k, k < 8 → k ≠ 0 → k ≠ tl → d.tls.at' k = v.c.tls.at' k) ∧
          (∀ k, k < 4 → k ≠ ch → d.chans.at' k = v.c.chans.at' k) ∧
          { v.c.undo v.e d with chans := v.c.chans, tls := v.c.tls, colls := v.c.colls } = v.c))
    let n := if f.ops.getLsbD 10 then (s.readS v f.sb).toNat else e1.toNat % 2 ^ 17
    issues (.copy h f e1) .copy 2 1 (e1.getLsbD 29) (copyBuild h f e1 v s) ∧
    (v.tyCheck (.tcopy h f e1 e2 e3) = none →
      issues (.tcopy h f e1 e2 e3) .tcopy 4 1 (e2.getLsbD 32) (tcopyBuild h f e1 e2 e3 v s)) ∧
    issues (.scopy h f e1) .scopy 2 1 (e1.getLsbD 29) (scopyBuild h f e1 v s) ∧
    issues (.ccopyDec h f e1) .dec 2 1 (e1.getLsbD 29) (ccopyBuild h f e1 false v s) ∧
    issues (.ccopyEnc h f e1) .enc 2 1 (e1.getLsbD 29) (ccopyBuild h f e1 true v s) ∧
    issues (.coll h f e1 e2) .coll 3 2 false (collBuild h f e1 e2 v s) ∧
    (2 ^ 36 < n → q.length < 16 → Traps (.copy h f e1) s v (illegalOp 0)) ∧
    (f.ops.toNat / 2 ^ 12 % 16 = 0 → e1.toNat / 2 ^ 38 = 2 ^ 26 - 1 → n ≤ 2 ^ 36 →
      ∃ x, copyBuild h f e1 v s = .ok x ∧ x.total = n) ∧
    (2 ^ 32 ≤ (s.readS v f.sb).toNat → q.length < 16 → Traps (.scopy h f e1) s v (illegalOp 0)) ∧
    (∃ t d fs, exec (.pref h f) s = .next t ∧ t = { s with cores := t.cores, fw := t.fw } ∧
      t.fw = { s.fw with fills := s.fw.fills ++ fs } ∧ t.core? v.ci = some d ∧ Retires s h 1 v d ∧ v.c.undo v.e d = v.c ∧
      ((s.readS v f.sb).toNat = 0 ∨ f.ops.toNat % 4 ≠ 0 → fs = [])) ∧
    (q = [] → (v.c.chans.at' ch).ending = [] → CompletesPlain (.drain h f) s h v) ∧
    (q ≠ [] ∨ (v.c.chans.at' ch).ending ≠ [] → Waits (.drain h f) s v (.drain ch))

/-- R228, R235, R239, R240, R248, R252, R266: the copy engine. An element of a COPY moves one byte, of its source or its
fill pattern, and stores no other; a fault freezes the core with the progress kept, an access to a page that is being
filled waits; a copy does not run while its core is frozen, its phase has not opened or REDs of the core are on their way
(the last: log entry 2), but what it has sent by then is performed. A finished copy's number completes on its timeline, on
timeline 0 already once all its reads are made; a phase copy starts once its slot has passed
and counts as late where it does so later; a TCOPY releases its stage as STGREL.w does. -/
def Obligations.CopyEngineResults : Prop :=
  ∀ (s : State) (ci ch : Nat) (c : Core), s.Inv → s.core? ci = some c → ch < 4 →
    (∀ (x : Copy) (rest : List Copy), (c.chans.at' ch).queue = x :: rest →
      (∀ n left, c.halted = true ∨ s.redsPending c = true ∨ x.fault ≠ none ∨ x.started = false →
        (x.sent = [] → x.made = false → exec (.copyRun ci ch ⟨n, left⟩) s = .next s) ∧
        (∀ b, x.sent = [b] → left = 0 → b.un = false → b.old = none → b.mask = 0xFF → x.made = false →
          ∃ t d, exec (.copyRun ci ch ⟨n, left⟩) s = .next t ∧ SameMemBut s t [b.addr] ∧ readByte t.mem b.addr = b.val ∧
            t.core? ci = some d ∧ ∃ y, (d.chans.at' ch).queue = y :: rest ∧ y.sent = [] ∧ y.prog = x.prog)) ∧
      (x.kind = .copy → x.started = true → x.fault = none → c.halted = false → s.redsPending c = false →
        x.openAt = none → x.sent = [] → x.out = [] → x.prog < x.total → x.here s = true →
        x.gap s c false = none → x.gap s c true = none →
        let fill := bitAt x.o 11
        let moves := fun (b : Nat) (value : BitVec 8) =>
          ∃ t d, exec (.copyRun ci ch ⟨1, 0⟩) s = .next t ∧ SameMemBut s t [b] ∧ readByte t.mem b = value ∧
            t.core? ci = some d ∧ d.s = c.s ∧ d.tls = c.tls ∧ (∀ e, d.strand e = c.strand e) ∧ d.trapped = c.trapped ∧
            (x.prog + 1 < x.total → ∃ y, (d.chans.at' ch).queue = y :: rest ∧ y.prog = x.prog + 1 ∧ y.n0 = x.n0) ∧
            (x.prog + 1 = x.total → (d.chans.at' ch).queue.length = rest.length ∧
              ∃ y, (d.chans.at' ch).ending = (c.chans.at' ch).ending ++ [y] ∧ y.n0 = x.n0 ∧ y.n1 = x.n1)
        let stops := fun (p : TrapInfo) (fe write : Bool) =>
          ∃ t, exec (.copyRun ci ch ⟨1, 0⟩) s = .next t ∧ SameMem s t ∧ CopyStopped t ci ch c x p fe write
        let holds := fun (g : Fill) (write : Bool) =>
          ∃ t d y, exec (.copyRun ci ch ⟨1, 0⟩) s = .next t ∧ SameMem s t ∧ t.core? ci = some d ∧
            (∃ k, k ∈ t.fw.fills ∧ k.ctx = g.ctx ∧ k.va = g.va) ∧ (d.chans.at' ch).fill = some (g.va, write) ∧
            (d.chans.at' ch).queue.head? = some y ∧ y.prog = x.prog
        (x.dk ≤ 1 → fill = true →
          (∀ b s1 x1, x.reachDst ci c s x.prog 1 = .ok [b] s1 x1 → b.un = false →
            moves b.addr (x.src.extractLsb' (8 * (x.prog % 8)) 8)) ∧
          (∀ p fe s1, x.reachDst ci c s x.prog 1 = .fault p fe s1 → stops p fe true) ∧
          (∀ g s1, x.reachDst ci c s x.prog 1 = .hold g s1 → holds g true)) ∧
        (x.sk ≤ 1 → fill = false →
          (∀ p fe s1, x.reachSrc ci c s x.prog 1 = .fault p fe s1 → stops p fe false) ∧
          (∀ g s1, x.reachSrc ci c s x.prog 1 = .hold g s1 → holds g false) ∧
          (∀ a s1 x1, x.reachSrc ci c s x.prog 1 = .ok [a] s1 x1 → s.poisoned a.addr = false → x.dk ≤ 1 →
            ∀ b s2 x2, { x1 with mixed := true }.reachDst ci c s1 x.prog 1 = .ok [b] s2 x2 → b.un = false →
              moves b.addr (readByte s.mem a.addr)))) ∧
      (∀ t0, x.openAt = some t0 →
        (x.started = true ∨ c.halted = true ∨ s.clk < t0 + x.slotClk → exec (.phaseCopySlot ci ch) s = .next s) ∧
        (x.started = false → c.halted = false → t0 + x.slotClk ≤ s.clk →
          ∃ t d, exec (.phaseCopySlot ci ch) s = .next t ∧ t = { s with cores := t.cores, fw := t.fw } ∧
            t.core? ci = some d ∧
            (d.chans.at' ch).queue = { x with started := true, late := decide (t0 + x.slotClk < s.clk) } :: rest ∧
            (s.clk = t0 + x.slotClk → t.fw = s.fw) ∧
            (t0 + x.slotClk < s.clk → t.fw = { s.fw with tasks := t.fw.tasks } ∧ ∀ k, s.task? c.task = some k →
              t.task? c.task = some { k with late := k.late + 1 })))) ∧
    (∀ (x : Copy) (tl : Nat), tl < 3 → (c.chans.at' ch).ending = [x] →
      (∀ k, k < 4 → k ≠ ch → (c.chans.at' k).ending = []) → x.owes tl = true →
      (tl = 0 → ∀ k y, k < 4 → (c.chans.at' k).queue.head? = some y →
        y.did0 = true ∨ y.started = false ∨ y.readAll = false) →
      (tl = 0 ∨ s.collWaits c.task x = false) →
      let n := if tl = 0 then x.n0 else x.n1
      ∃ t d, exec (.timelineComplete ci tl) s = .next t ∧ OnlyCore s t ci d ∧ d.chans.at' ch =
          { c.chans.at' ch with
            ending := (d.chans.at' ch).ending, count := if tl = 0 then (c.chans.at' ch).count else x.wrote.length } ∧
        (n = (c.tls.at' tl).comp.toNat + 1 → n < 2 ^ 64 → (c.tls.at' tl).dones = [] →
          (d.tls.at' tl).comp.toNat = n ∧ (d.tls.at' tl).iss = (c.tls.at' tl).iss) ∧
        (∀ k, k < 8 → k ≠ tl → d.tls.at' k = c.tls.at' k) ∧
        ((if tl = 0 then x.did1 else x.did0) = true → x.owed = false → x.fault = none → (d.chans.at' ch).ending = [])) ∧
    (∀ (x : Copy) (rest : List Copy), (c.chans.at' ch).queue = x :: rest → x.did0 = false → x.started = true →
      x.readAll = true → x.total ≠ 0 → (∀ k, k < 4 → (c.chans.at' k).ending = [] ∧ (k ≠ ch → (c.chans.at' k).queue = [])) →
      ∃ t d, exec (.timelineComplete ci 0) s = .next t ∧ OnlyCore s t ci d ∧
        (d.chans.at' ch).queue = { x with did0 := true } :: rest ∧ (d.chans.at' ch).count = (c.chans.at' ch).count ∧
        (x.n0 = (c.tls.at' 0).comp.toNat + 1 → x.n0 < 2 ^ 64 → (c.tls.at' 0).dones = [] → (d.tls.at' 0).comp.toNat = x.n0) ∧
        ∀ k, k < 8 → k ≠ 0 → d.tls.at' k = c.tls.at' k) ∧
    (∀ (x : Copy) (k : Nat) (older newer : List Copy) (oi : Nat) (o : Core),
      (c.chans.at' ch).ending = older ++ x :: newer → (∀ y, y ∈ older → y.owed = false) → x.owed = true →
      x.stage? = some k → c.halted = false → s.coreAt (s.phys c) (x.stageOwner s c) = some (oi, o) →
      (∀ st, (o.stages.at' k).relW x.dst.toNat = some st →
        ∃ t d, exec (.tcopyStageRelease ci ch) s = .next t ∧ t = { s with cores := t.cores } ∧ t.core? oi = some d ∧
          d.stages.at' k = st ∧ ∀ j, j < 8 → j ≠ k → d.stages.at' j = o.stages.at' j) ∧
      ((o.stages.at' k).relW x.dst.toNat = none →
        ∃ t d hd, exec (.tcopyStageRelease ci ch) s = .next t ∧ OnlyCore s t ci d ∧ d.stages = c.stages ∧
          d.trapped = some hd ∧ (c.trapped = none → hd.info.cause = 0xE ∧ hd.info.detail = BitVec.ofNat 32 k ∧ hd.src = 3 + ch)))

/-- R265, R266, R374: the paging firmware takes the fill of a held page; a finished fill puts the backing data into the
frame, makes the entry present and lets the accesses on the page go on, and a failed one lets them fault; a COW fault of
a recorded core gets a frame that holds a copy, and the core resumes once none is left, as far as the stage of its task lets
it (R360, R361); while the task is being saved the trap stays (R395). Which frame of a pool is taken is the event's operand
(log entry 65); that an unusable frame fails the fill or raises the COW trap is the model's choice (log entry 21), and that a
poisoned descriptor or backing does too is log entry 31. -/
def Obligations.PagingResults : Prop :=
  (∀ (s : State) (ctx va : Nat), ∃ t, exec (.pageFill ctx va) s = .next t ∧ t = { s with fw := t.fw } ∧
    t.fw = { s.fw with fills := t.fw.fills } ∧ t.fw.fills.length = s.fw.fills.length ∧
    ∀ (k : Nat) (f : Fill), s.fw.fills[k]? = some f →
      (f.ctx = ctx ∧ f.va = va → t.fw.fills[k]? = some { f with started := true }) ∧
      (¬(f.ctx = ctx ∧ f.va = va) → t.fw.fills[k]? = some f)) ∧
  (∀ (s : State) (f : Fill) (frame : Nat) (ok : Bool), s.Inv → s.fw.fills = [f] → f.started = true →
    (∀ q, q ∈ s.fw.queues → q.ringWait = none ∧ q.stWait = none) →
    let raw := readNat s.mem f.entryPA 8
    let size := levelBytes f.level
    let d := readBytes s.mem (raw % 2 ^ 48) 32
    let base := fieldAt d 0 8
    let len := fieldAt d 16 8
    let src := if fieldAt d 9 1 = 0 then hostBase + base else base
    let usable := 0x10000 ≤ (s.fw.contexts.at' f.ctx).fpool ∧ frame % size = 0 ∧ frame + size ≤ 2 ^ 39 ∧
      (∀ b, b ∈ s.mgmt.badFrames → b < frame ∨ frame + size ≤ b) ∧ s.frameMapped frame size = false
    let sound := s.poisoned (raw % 2 ^ 48) = false ∧ fieldAt d 8 1 < 2 ∧ fieldAt d 9 1 < 2 ∧ fieldAt d 10 6 = 0 ∧
      fieldAt d 24 8 = 0 ∧ base + len ≤ (if fieldAt d 9 1 = 0 then 2 ^ 48 else 2 ^ 39)
    let released := fun (t : State) (bad : Bool) => t.fw.fills = [] ∧ ∀ (ci : Nat) (c : Core), s.core? ci = some c →
      s.ctxNo c = f.ctx → ∃ d, t.core? ci = some d ∧ ∀ e va w, (c.strand e).wait = .fill va w → f.va ≤ va →
        va < f.va + size → (d.strand e).wait = .none ∧ (d.strand e).fillBad = bad ∧ (d.strand e).pc = (c.strand e).pc
    let fails := ∃ t, exec (.fillDone f.ctx f.va frame ok) s = .next t ∧ t.mem = s.mem ∧ released t true
    let fills := fun (byte : Nat → BitVec 8) =>
      ∃ t, exec (.fillDone f.ctx f.va frame ok) s = .next t ∧ released t false ∧
        (∀ i, i < size → readByte t.mem (frame + i) = byte i) ∧
        readNat t.mem f.entryPA 8 = setBits (setBits (setBits raw 63 63 1) 49 49 0) 47 0 frame ∧
        ∀ a, (a < frame ∨ frame + size ≤ a) → (a < f.entryPA ∨ f.entryPA + 8 ≤ a) → readByte t.mem a = readByte s.mem a
    let apart := fun (lo n : Nat) => lo + n ≤ frame ∨ frame + size ≤ lo
    (bitAt raw 63 = true ∨ bitAt raw 49 = false →
      ∃ t, exec (.fillDone f.ctx f.va frame ok) s = .next t ∧ t.mem = s.mem ∧ released t false) ∧
    (bitAt raw 63 = false → bitAt raw 49 = true →
      (ok = false ∨ ¬ usable ∨ ¬ sound → fails) ∧
      (ok = true → usable → sound → apart f.entryPA 8 →
        (fieldAt d 8 1 = 0 → len = size → apart src size → fills (fun i => readByte s.mem (src + i))) ∧
        (fieldAt d 8 1 = 1 → (∀ g, g ∈ s.poison → 64 * g + 64 ≤ src ∨ src + len ≤ 64 * g) →
          (streamBytes (readBytes s.mem src len) size = none → fails) ∧
          (∀ bs, streamBytes (readBytes s.mem src len) size = some bs → fills (fun i => bs.getD i 0)))))) ∧
  (∀ (s : State) (ci frame : Nat) (c : Core) (vas : List Nat), s.Inv → s.core? ci = some c → c.trapped ≠ none →
    c.record ≠ none → c.raised = false → s.mgmt.fnmode.getLsbD 0 = false → c.cowFaults = some vas →
    let x := s.ctx c
    let saving := (s.stageOf c).any TaskStage.saving = true
    (saving → exec (.cowResolve ci frame) s = .next s) ∧
    (¬ saving → (∀ va e l, va ∈ vas → (s.walk x [] va).1 = .leaf e l → e.cow = false) →
      ∃ t, exec (.cowResolve ci frame) s = .next t ∧ OnlyCore s t ci { c.resume with
        freeze := decide (s.stageOf c = some .aborted), stopped := decide (s.stageOf c = some .stopping) }) ∧
    (∀ va rest e lvl, ¬ saving → vas = va :: rest → (s.walk x [] va).1 = .leaf e lvl → e.cow = true →
      let size := levelBytes lvl
      let page := va / size * size
      let pa := (leafPlace s.mem va 4 0 x.root).getD 0
      let src := leafAddr e lvl page
      (s.frameOk (s.ctxNo c) frame size = false → exec (.cowResolve ci frame) s = .next (s.raiseTrap ci)) ∧
      (s.frameOk (s.ctxNo c) frame size = true → s.inFlight x.asid page (page + size) = true →
        exec (.cowResolve ci frame) s = .next s) ∧
      (s.frameOk (s.ctxNo c) frame size = true → s.inFlight x.asid page (page + size) = false →
        (src + size ≤ frame ∨ frame + size ≤ src) → (pa + 8 ≤ frame ∨ frame + size ≤ pa) →
        ∃ t, exec (.cowResolve ci frame) s = .next t ∧
          (∀ i, i < size → readByte t.mem (frame + i) = readByte s.mem (src + i)) ∧
          readNat t.mem pa 8 = setBits (setBits (setBits (setBits e.raw 60 60 1) 58 58 0) 51 50 0) 47 0 frame ∧
          (∀ a, (a < frame ∨ frame + size ≤ a) → (a < pa ∨ pa + 8 ≤ a) → readByte t.mem a = readByte s.mem a) ∧
          ∀ (j : Nat) (d : Core) (u : Tlb), t.core? j = some d → u ∈ d.tlb → u.asid = x.asid → u.va < page + size →
            u.va + u.size ≤ page)))

/-- R378-R380, R407, R408: an invalidation command of 32 bytes that is not dropped is queued, and at its turn removes every
translation that it covers from each TLB and walk cache, keeping the others; it is acknowledged, with the complement of ACKSEQ where it
is refused, once no access through what it removed is on its way. A frame at its error threshold that nothing maps is
retired (the threshold and what it moves: log entry 51); in host-assisted mode only the event is sent. -/
def Obligations.InvalidationResults : Prop :=
  (∀ (s : State) (cmd : List (BitVec 8)),
    let kind := fieldAt cmd 0 1
    let posts := fun (i : Instr) =>
      (s.fw.removed = true → exec i s = .next { s with fw := { s.fw with invals := s.fw.invals ++ [cmd] } }) ∧
      (s.fw.removed = false → s.fw.invals = [] → ∃ t, exec i s = .next t ∧ t.mem = s.mem ∧
        t.fw = { s.fw with invals := [cmd], removed := true } ∧
        (invalRefused cmd = true → t.cores = s.cores ∧ t.clusters = s.clusters) ∧
        (invalRefused cmd = false →
          (∀ (j : Nat) (c : Core), s.core? j = some c → ∃ d, t.core? j = some d ∧
            (∀ u, u ∈ d.tlb ↔ u ∈ c.tlb ∧ invalCovers cmd u = false) ∧ d.s = c.s ∧ ∀ e, d.strand e = c.strand e) ∧
          (∀ k, k < 8 → ∀ u, u ∈ (t.dies.at' k).walks ↔ u ∈ (s.dies.at' k).walks ∧ invalCovers cmd u = false) ∧
          (∀ k, k < 64 → ∀ u, u ∈ (t.clusters.at' k).tlb ↔ u ∈ (s.clusters.at' k).tlb ∧ invalCovers cmd u = false)))
    let dropped := cmd.length ≠ 32 ∨ fieldAt cmd 24 8 % 4 ≠ 0 ∨ 2 ^ 39 ≤ fieldAt cmd 24 8
    (kind ≠ 0 → kind ≠ 1 → kind ≠ 2 → invalRefused cmd = true) ∧
    (dropped → exec (.invalRange cmd) s = .next s ∧ exec (.invalAsid cmd) s = .next s ∧ exec (.invalAll cmd) s = .next s) ∧
    (¬ dropped →
      (kind ≠ 1 → kind ≠ 2 → posts (.invalRange cmd)) ∧ (kind = 1 → posts (.invalAsid cmd)) ∧
      (kind = 2 → posts (.invalAll cmd)))) ∧
  (∀ (s : State) (b : List (BitVec 8)), s.Inv → s.fw.invals = [b] → s.fw.removed = true →
    let va := fieldAt b 24 8
    (invalRefused b = false → s.invalBusy b = true → exec .invalAck s = .next s) ∧
    (invalRefused b = true ∨ s.invalBusy b = false → ∃ t, exec .invalAck s = .next t ∧
      t.fw = { s.fw with invals := [], removed := false } ∧ t.cores = s.cores ∧
      SameMemBut s t ((List.range 4).map (fun i => va + i)) ∧
      readNat t.mem va 4 = if invalRefused b then 2 ^ 32 - 1 - fieldAt b 20 4 else fieldAt b 20 4)) ∧
  (∀ (s : State) (old frame base : Nat), old % 65536 = 0 → old < 2 ^ 39 →
    ((0, old) ∉ s.mgmt.due → exec (.frameRetire old frame base) s = .next s) ∧
    ((0, old) ∈ s.mgmt.due → s.mgmt.fnmode.getLsbD 2 = true →
      exec (.frameRetire old frame base) s = .next ((s.settleUnit 0 old).event (moduleNote 0x11 old 0))) ∧
    ((0, old) ∈ s.mgmt.due → s.mgmt.fnmode.getLsbD 2 = false → s.mappings old = [] →
      (∀ o, o ∈ s.fw.objects → ∀ f, f ∈ o.frames → f.2.2 ≠ old) →
      (old ∈ s.mgmt.badFrames → exec (.frameRetire old frame base) s = .next (s.settleUnit 0 old)) ∧
      (old ∉ s.mgmt.badFrames → s.mgmt.badFrames.length < 4096 → ∃ t, exec (.frameRetire old frame base) s = .next t ∧
        t = { s with mgmt := { s.mgmt with badFrames := s.mgmt.badFrames ++ [old], due := t.mgmt.due, errors := t.mgmt.errors } } ∧
        (0, old) ∉ t.mgmt.due ∧ ∀ e, e ∈ t.mgmt.errors → ¬ (e.1 = 0 ∧ e.2.1 = old)) ∧
      (old ∉ s.mgmt.badFrames → 4096 ≤ s.mgmt.badFrames.length →
        exec (.frameRetire old frame base) s = .next ((s.event (moduleNote 0x84 0 0)).settleUnit 0 old))))

/-- R187-R193, R205: SCANCFG sets the configuration of an index that no group holds; SCANJOIN at level 0 joins alone,
above it waits for the decision, which is made once every core of the domain that has not exited has arrived: the code is
2 where one was killed before it arrived, 1 where configurations differ, and 0 makes each a member at its position; what the
peer packages of a level-4 join report counts with it (log entry 60); a core killed after it arrived takes no membership (log
entry 25). SCANLEAVE waits for the members one generation behind and leaves the index with its configuration only. -/
def Obligations.ScanGroupResults : Prop :=
  (∀ (s : State) (v : At) (h : Hdr) (f : FmtY), Ready s h v → f.idx.toNat < 4 →
    let g := f.idx.toNat
    let x := v.c.scans.at' g
    let joined := x.scg.getLsbD 63
    let lvl := f.ops.toNat % 8
    let cfg := x.scg.toNat / 2 ^ 48 % 2 ^ 8
    let same := fun (d : Core) => ∀ k, k < 4 → k ≠ g → d.scans.at' k = v.c.scans.at' k
    (joined = true → Traps (.scancfg h f) s v (illegalOp 0)) ∧
    (joined = false → Completes (.scancfg h f) s h 1 v (fun d => same d ∧
      { d.scans.at' g with scg := x.scg } = x ∧
      (∀ i, i < 64 → (d.scans.at' g).scg.getLsbD i = if 48 ≤ i ∧ i < 56 then f.ops.getLsbD (i - 48) else x.scg.getLsbD i) ∧
      Flies s v (.g g) 1 2 .none d ∧
      { v.c.undoV v.e d with scans := v.c.scans } = v.c)) ∧
    (v.foreign f.sd = false →
      (∀ code, x.decided = some code → Completes (.scanjoin h f) s h 1 v (fun d => same d ∧
        d.scans.at' g = { x with decided := none } ∧ ToS s v f.sd (BitVec.ofNat 64 code) 2 d ∧
        { v.c.undoV v.e d with s := v.c.s, scans := v.c.scans } = v.c)) ∧
      (x.decided = none → joined = true → Traps (.scanjoin h f) s v (illegalOp 0)) ∧
      (x.decided = none → joined = false → lvl = 0 → Completes (.scanjoin h f) s h 1 v (fun d => same d ∧
        (∃ k, k < 256 ∧ (v.e ≠ .v ∨ v.c.flight? (s.iclk v.c) (.g g) = none → k = cfg) ∧
          d.scans.at' g = { ScanIx.zero with scg := BitVec.ofNat 64 (2 ^ 63 + k * 2 ^ 48), members := [v.c.key] }) ∧
        ToS s v f.sd 0 2 d ∧ { v.c.undoV v.e d with s := v.c.s, scans := v.c.scans } = v.c)) ∧
      (x.decided = none → joined = false → lvl ≠ 0 → ∃ t d, exec (.scanjoin h f) s = .next t ∧
        t = { s with cores := t.cores, outbox := t.outbox } ∧ (∀ j, j ≠ v.ci → t.core? j = s.core? j) ∧ t.core? v.ci = some d ∧
        (s.needsPeers v.c lvl = false ∨ x.join ≠ none → t.outbox = s.outbox) ∧
        (s.needsPeers v.c lvl = true → x.join = none → t.outbox = s.outbox ++
          [{ pkg := 0xFFFFF, kind := 8, cl := g, addr := 0, data := [BitVec.ofNat 8 cfg] }]) ∧
        d.scans.at' g = { x with join := some lvl } ∧ (d.strand v.e).wait = .scan g 2 ∧ (d.strand v.e).pc = v.st.pc ∧
        (d.strand v.e).rsn = v.st.rsn ∧ d.tokens = v.c.tokens)) ∧
    (joined = false → CompletesPlain (.scanleave h f) s h v) ∧
    (joined = true → x.scg.getLsbD 61 = true → Traps (.scanleave h f) s v (illegalOp 0)) ∧
    (joined = true → x.scg.getLsbD 61 = false →
      (x.scg.getLsbD 62 = false → s.behind g x = true → Waits (.scanleave h f) s v (.scan g 0)) ∧
      (x.scg.getLsbD 62 = true ∨ s.behind g x = false → ∃ t d, exec (.scanleave h f) s = .next t ∧
        t = { s with cores := t.cores, outbox := t.outbox } ∧ t.core? v.ci = some d ∧ Retires s h 1 v d ∧
        ((∀ (j : Nat) (c : Core), s.core? j = some c → (c.scans.at' g).wide = false) → t.outbox = s.outbox) ∧
        d.scans.at' g = { ScanIx.zero with scg := BitVec.ofNat 64 (cfg * 2 ^ 48) } ∧
        { v.c.undo v.e d with scans := v.c.scans } = v.c ∧
        ∀ (j : Nat) (c : Core), j ≠ v.ci → s.core? j = some c → ∃ d', t.core? j = some d' ∧
          { d' with scans := c.scans } = c))) ∧
  (∀ (s : State) (ci g : Nat) (c : Core) (lvl remote before after : Nat), g < 4 → s.core? ci = some c →
    (c.scans.at' g).join = some lvl →
    let here := s.domain lvl c
    let peers := s.needsPeers c lvl
    let joined := here.filter (fun j => ((s.core? j).map (fun d => (d.scans.at' g).join == some lvl)).getD false)
    let dead := ∃ j d, j ∈ here ∧ s.core? j = some d ∧ d.killed = true ∧ (d.scans.at' g).join ≠ some lvl
    let differ := ∃ j d k e, j ∈ joined ∧ s.core? j = some d ∧ k ∈ joined ∧ s.core? k = some e ∧
      (d.scans.at' g).cfg ≠ (e.scans.at' g).cfg
    let decision := Instr.scanJoinDecision ci ⟨g, remote, before, after⟩
    ((∃ j d, j ∈ here ∧ s.core? j = some d ∧ d.gone = false ∧ (d.scans.at' g).join ≠ some lvl) →
      exec decision s = .next s) ∧
    (peers = true → remote = 0 → exec decision s = .next s) ∧
    (∀ base code, (∀ j d, j ∈ here → s.core? j = some d → d.gone = false → (d.scans.at' g).join = some lvl) →
      (dead → base = 2) → (¬ dead → differ → base = 1) → (¬ dead → ¬ differ → base = 0) →
      (peers = false ∨ remote = 1 → code = base) → (peers = true → remote = 2 → code = max base 1) →
      (peers = true → 3 ≤ remote → code = 2) → ¬ (peers = true ∧ remote = 0) →
      ∃ t, exec decision s = .next t ∧ t = { s with cores := t.cores } ∧
        (∀ j, j ∉ joined → t.core? j = s.core? j) ∧
        ∀ p j d, joined[p]? = some j → s.core? j = some d → ∃ e, t.core? j = some e ∧ { e with scans := d.scans } = d ∧
          (e.scans.at' g).decided = some code ∧ (e.scans.at' g).join = none ∧
          (code ≠ 0 ∨ d.gone = true → (e.scans.at' g).scg = (d.scans.at' g).scg) ∧
          (code = 0 → d.gone = false → (e.scans.at' g).scg =
              BitVec.ofNat 64 (2 ^ 63 + lvl * 2 ^ 58 + (d.scans.at' g).cfg * 2 ^ 48 +
                ((if peers then before else 0) + p) % 2 ^ 32) ∧
            (e.scans.at' g).before = (if peers then before else 0) ∧ (e.scans.at' g).after = (if peers then after else 0) ∧
            (e.scans.at' g).members = joined.filterMap (fun k => (s.core? k).map Core.key))))

/-- R194-R201, R205: SCAN traps where a check fails, waits for the members one generation behind, and holds once its local
results stand until its carry is there; then every element of the destination takes the carry combined with the elements
of its segment in scan order, the generation advances and no byte outside the destinations changes. SCANTOT waits for
the total of the group and writes it. A carry sent by the member before, and the total, arrive; one from another package
reaches the first member of this one, as does a break notice (log entry 60). -/
def Obligations.ScanResults : Prop :=
  (∀ (s : State) (v : At) (h : Hdr) (f : FmtV), s.Inv → Ready s h v →
    let g := f.ops.toNat / 2 ^ 10 % 4
    let n := f.ops.toNat % 2 ^ 10
    let x := v.c.scans.at' g
    let cfg := x.config
    let ws := scanWins f v s
    let dst := winOf ws 0
    let m := min 64 dst.cols
    let ty := v.ty f.ty.toNat
    let order := fun (u : Nat) => if cfg.rev then n - 1 - u else u
    let src := fun (u ch : Nat) => scanSrc s v.c ws ty cfg.op (order u) ch
    let mark := fun (u : Nat) => cfg.seg && (s.readP v f.pred).getLsbD (order u)
    let run := fun (u ch : Nat) => (List.range u).foldl (fun r k => extend cfg.op (cutRun (mark k) r) (src k ch)) (none, false)
    let carry := fun (ch : Nat) => if x.carryIn then (x.carry.at' ch).pair else none
    let value := fun (u ch : Nat) =>
      let r := cutRun (mark u) (run u ch)
      let own := if cfg.exc then r.1 else (extend cfg.op r (src u ch)).1
      let whole := if r.2 then own else match carry ch, own with
        | some e, some l => some (comb cfg.op e l)
        | some e, none => some e
        | none, l => l
      whole.getD (combId cfg.op)
    let bytes := fun (k : Nat) => (List.range n).flatMap (fun r => (List.range m).flatMap (fun ch =>
      v.elemBytes s (winOf ws k) (fmtOf (v.winCode (winOf ws k))) r ch))
    let ready := x.carryIn = true ∨ (s.before g v.ci x = none ∧ x.farBefore = false)
    (v.tyCheck (.scan h f) = none → x.scg.getLsbD 63 = false → Traps (.scan h f) s v (illegalOp 0)) ∧
    (v.tyCheck (.scan h f) = none → x.scg.getLsbD 63 = true → x.scg.getLsbD 62 = true → x.scg.getLsbD 61 = false →
      Traps (.scan h f) s v (scanBroken g)) ∧
    (∀ t, scanEarly h f v s = some t → Traps (.scan h f) s v t) ∧
    (scanEarly h f v s = none → x.scg.getLsbD 62 = false → x.scg.getLsbD 61 = false →
      (s.behind g x = true → Waits (.scan h f) s v (.scan g 0)) ∧
      (s.behind g x = false → ¬ ready → ∃ t d, exec (.scan h f) s = .next t ∧
        t = { s with cores := t.cores, watched := t.watched } ∧ (∀ j, j ≠ v.ci → t.core? j = s.core? j) ∧
        t.core? v.ci = some d ∧
        (x.seen = [] → ∀ k, k ∈ (scanUses cfg).1 → ∀ p, p ∈ pairs n m → ∀ a, a ∈ v.elemBytes s (winOf ws k) (fmtOf ty) p.1 p.2 →
          { core := v.c.key, g := g, addr := a, hit := false } ∈ t.watched) ∧
        (d.strand v.e).busy = true ∧ (d.strand v.e).wait = .scan g 1 ∧ (d.strand v.e).pc = v.st.pc ∧
        (d.strand v.e).rsn = v.st.rsn + 1 ∧ (d.scans.at' g).scg = x.scg ∧
        ∀ ch, ch < m → (d.scans.at' g).total.at' ch = cellOf (run n ch)) ∧
      (s.behind g x = false → ready → (∀ w, w ∈ s.watched → ¬ (w.core = v.c.key ∧ w.g = g)) →
        ∃ t d, exec (.scan h f) s = .next t ∧
        t = { s with cores := t.cores, mem := t.mem, poison := t.poison, watched := t.watched, outbox := t.outbox } ∧
        (x.wide = false → t.outbox = s.outbox) ∧ t.core? v.ci = some d ∧ Retires s h 1 v d ∧
        { v.c.undo v.e d with scans := v.c.scans } = v.c ∧
        (∀ (j : Nat) (c : Core), j ≠ v.ci → s.core? j = some c → ∃ d', t.core? j = some d' ∧
          { d' with scans := c.scans } = c) ∧
        SameMemBut s t (bytes 0 ++ (if cfg.aout then bytes 3 else [])) ∧
        (d.scans.at' g).gen = (x.gen + 1) % 2 ^ 16 ∧ (d.scans.at' g).carryIn = false ∧ (d.scans.at' g).retired = true ∧
        (d.scans.at' g).waitsCarry = false ∧ (∀ ch, ch < m → (d.scans.at' g).total.at' ch = cellOf (run n ch)) ∧
        (cfg.aout = false →
          (∀ p q, p ∈ pairs n m → q ∈ pairs n m → p ≠ q → ∀ a, a ∈ v.elemBytes s dst (fmtOf (v.winCode dst)) p.1 p.2 →
            a ∉ v.elemBytes s dst (fmtOf (v.winCode dst)) q.1 q.2) →
          (∀ k, k ∈ (scanUses cfg).1 → ∀ p, p ∈ pairs n m → ∀ a, a ∈ v.elemBytes s (winOf ws k) (fmtOf ty) p.1 p.2 →
            a ∉ bytes 0) →
          ∀ u ch, u < n → ch < m → t.readElem v.c dst (fmtOf (v.winCode dst)) (order u) ch =
            cvt (fmtOf (v.winCode dst)) .rne false (f32 (scanOut cfg.op (value u ch)))))) ∧
    (let total := fun ch => ((x.group.at' ch).pair).getD (combId x.op)
     let all := BitVec.allOnes 64
     (x.scg.getLsbD 63 = false ∨ x.retired = false → Traps (.scantot h f) s v (illegalOp 0)) ∧
     (x.scg.getLsbD 63 = true → x.retired = true → x.scg.getLsbD 62 = true → Traps (.scantot h f) s v (scanBroken g)) ∧
     (x.scg.getLsbD 63 = true → x.retired = true → x.scg.getLsbD 62 = false →
       (x.op < 4 → f.vc ≠ 0 → Traps (.scantot h f) s v (illegalOp 0)) ∧
       (4 ≤ x.op ∨ f.vc = 0 → x.groupIn = false → Waits (.scantot h f) s v (.scan g 3)) ∧
       (x.op < 4 → f.vc = 0 → x.groupIn = true → Completes (.scantot h f) s h 1 v (fun d =>
         ToV s v f.vd all 32 (fun ch => scanOut x.op (total ch)) 4 d ∧ { v.c.undoV v.e d with v := v.c.v } = v.c)) ∧
       (4 ≤ x.op → x.groupIn = true → Completes (.scantot h f) s h 1 v (fun d =>
         { v.c.undoV v.e d with v := v.c.v } = v.c ∧ (∀ r, r ≠ f.vd → r ≠ f.vc → d.v.read r = v.c.v.read r) ∧
         (f.vd ≠ f.vc → v.c.flight? (s.iclk v.c) (.v f.vd) = none → v.c.flight? (s.iclk v.c) (.v f.vc) = none →
           ∀ ch, ch < 64 → (d.v.read f.vd).at' ch = BitVec.ofNat 32 (scanOut x.op (total ch)) ∧
             (d.v.read f.vc).at' ch = BitVec.ofNat 32 (scanComp x.op (total ch)))))))) ∧
  (∀ (s : State) (ci g : Nat) (c : Core), g < 4 → s.core? ci = some c →
    let x := c.scans.at' g
    let waiting := c.strandV.busy = true ∧ c.strandV.wait = .scan g 1
    let goesOn := fun (e : Core) =>
      (waiting → e.strandV = { c.strandV with wait := .midway } ∧ (e.scans.at' g).waitsCarry = false) ∧
      (¬ waiting → e.strandV = c.strandV ∧ (e.scans.at' g).scg = x.scg)
    (s.before g ci x = none →
      let due := x.farBefore = true ∧ x.scg.getLsbD 63 = true ∧ x.scg.getLsbD 62 = false ∧ x.carryIn = false
      (¬ due → exec (.scanCarryArrival ci ⟨g, false⟩) s = .next s) ∧
      (due → ∃ t e, exec (.scanCarryArrival ci ⟨g, false⟩) s = .next t ∧ OnlyCore s t ci e ∧
        { e with scans := c.scans, strandV := c.strandV } = c ∧ goesOn e ∧ (e.scans.at' g).carryIn = true)) ∧
    (x.scg.getLsbD 63 = false ∨ x.wide = false → exec (.scanCarryArrival ci ⟨g, true⟩) s = .next s) ∧
    (x.scg.getLsbD 63 = true → x.wide = true → ∃ t, exec (.scanCarryArrival ci ⟨g, true⟩) s = .next t ∧
      t = { s with cores := t.cores } ∧ ∀ j d, s.core? j = some d → ∃ e, t.core? j = some e ∧ { e with scans := d.scans } = d ∧
        (j ∈ s.members g x → (e.scans.at' g).broken = true) ∧ (j ∉ s.members g x → e = d)) ∧
    (∀ d, (s.before g ci x).bind s.core? = some d →
      let y := d.scans.at' g
      let due := x.scg.getLsbD 63 = true ∧ (x.scg.getLsbD 62 = false ∨ x.spared = true) ∧ x.carryIn = false ∧
        y.gen = (x.gen + 1) % 2 ^ 16
      (¬ due → exec (.scanCarryArrival ci ⟨g, false⟩) s = .next s) ∧
      (due → ∃ t e, exec (.scanCarryArrival ci ⟨g, false⟩) s = .next t ∧ OnlyCore s t ci e ∧
        { e with scans := c.scans, strandV := c.strandV } = c ∧ goesOn e ∧
        (e.scans.at' g).carryIn = true ∧ ∀ ch, ch < 64 →
          ((y.total.at' ch).val = none → (e.scans.at' g).carry.at' ch = y.carry.at' ch) ∧
          ((y.total.at' ch).val ≠ none → (y.total.at' ch).rst = true →
            ((e.scans.at' g).carry.at' ch).val = (y.total.at' ch).val) ∧
          (∀ a b, (y.total.at' ch).pair = some b → (y.total.at' ch).rst = false → (y.carry.at' ch).pair = some a →
            (e.scans.at' g).carry.at' ch = cellOf (some (comb y.op a b), false)) ∧
          ((y.total.at' ch).val ≠ none → (y.total.at' ch).rst = false → (y.carry.at' ch).val = none →
            ((e.scans.at' g).carry.at' ch).val = (y.total.at' ch).val))) ∧
    (x.groupDue = false → ∃ t, exec (.scanTotalArrival ci g) s = .next t ∧ OnlyCore s t ci c) ∧
    (x.groupDue = true → ∃ t, exec (.scanTotalArrival ci g) s = .next t ∧
      OnlyCore s t ci { c with scans := c.scans.put g { x with groupIn := true, groupDue := false } }))

/-- R287-R291: APPEND and WLPOP check their list at issue, then hand a request to its home and hold the strand. The home
performs it: an APPEND of a key that is held adds to that record, a full list answers status 1, otherwise the record is
stored and TAIL goes on; a WLPOP of an empty list answers status 3, otherwise the record reaches the vector register and
HEAD goes on. The status reaches sd and the strand retires. The model's reading: the home works with the array that the
descriptor gave at the issue, and a record page that no longer translates traps LIST_FAULT there (log entry 28) with the
number the instruction had taken (log entry 13); an issue waits for the core's REDs (log entry 2). -/
def Obligations.WorkListResults : Prop :=
  (∀ (s : State) (v : At) (h : Hdr) (f : FmtY), Ready s h v → v.foreign f.sd = false →
    let n := (s.readS v f.sa).toNat
    let both := fun (p : Instr → Prop) => p (.append h f) ∧ p (.wlpop h f)
    let va := (v.c.wlt.toNat + 64 * n) % 2 ^ 52
    let rec8 := s.readV v (f.ops.setWidth 5)
    let issued := fun (i : Instr) (u : State) (a : Nat) (pop : Bool) => ∃ t d r, exec i s = .next t ∧
      t = { u with cores := t.cores, lists := s.lists ++ [r] } ∧ r.core = v.c.key ∧ r.pop = pop ∧ r.ctx = s.ctxNo v.c ∧
      r.list = n ∧ r.table = a ∧ r.va = va ∧ r.words = readNat u.mem a 16 ∧ r.reg = f.ops.toNat % 32 ∧
      (pop = false → r.dedup = f.ops.getLsbD 5 ∧ r.key = (s.readS v f.sb).toNat ∧
        r.item = (List.range 8).flatMap (fun i => leBytes 4 (rec8.at' i).toNat)) ∧
      t.core? v.ci = some d ∧ (d.strand v.e).busy = true ∧ (d.strand v.e).wait = .list n ∧
      (d.strand v.e).pc = v.st.pc ∧ (d.strand v.e).rsn = v.st.rsn + 1 ∧ d.s = v.c.s ∧ d.v = v.c.v
    (256 ≤ n → both (fun i => Traps i s v { cause := 0x11, detail := BitVec.ofNat 32 (n % 256), addr := 0, write := false })) ∧
    (n < 256 → s.redsPending v.c = true → both (fun i => Waits i s v .home)) ∧
    (n < 256 → s.redsPending v.c = false →
      (∀ x, s.access v .load va 64 = .trap x → both (fun i => Traps i s v x)) ∧
      (∀ x, s.access v .load va 64 = .hold x → both (fun i => WaitsForFill i s v x false)) ∧
      (∀ as e l u, s.access v .load va 64 = .ok as e l u →
        (listBad u v.c (u.descAt (as.headD 0)) = true → both (fun i => Traps i s v (listFault n))) ∧
        (listBad u v.c (u.descAt (as.headD 0)) = false →
          issued (.append h f) u (as.headD 0) false ∧ issued (.wlpop h f) u (as.headD 0) true)))) ∧
  (∀ (s : State) (i : Nat) (r : ListReq) (v : At) (hd : Hdr) (f : FmtY) (w : Word), s.Inv → s.lists[i]? = some r →
    s.place r.core = some v.ci → s.core? v.ci = some v.c → v.e = .v → v.st = v.c.strandV → v.st.held = some [w] →
    v.st.repn = 0 → v.st.busy = true → v.c.halted = false → hd = Hdr.ofWord w →
    decode [w] = .ok (if r.pop then .wlpop hd f else .append hd f) →
    let d0 : ListDesc := { table := r.table, raw := r.words + readNat s.mem r.table 64 / 2 ^ 128 * 2 ^ 128 }
    let slot := fun (n : Nat) => n % d0.cap
    let quiet := fun x => v.c.flight? (s.iclk v.c) x = none
    let answers := fun (status : Nat) (rel : State → Core → Prop) => ∃ t d, exec (.homeListOp i) s = .next t ∧
      t.lists = s.lists.eraseIdx i ∧ (∀ j, j ≠ v.ci → t.core? j = s.core? j) ∧ t.core? v.ci = some d ∧
      (∀ x, x ≠ f.sd ∨ f.sd = 0 → d.s.read x = v.c.s.read x) ∧
      (f.sd ≠ 0 → quiet (.s f.sd) → d.s.read f.sd = BitVec.ofNat 64 status) ∧
      { v.c.undoV v.e d with s := v.c.s, v := v.c.v } = v.c ∧ d.strandV.pc = v.st.pc + 8 ∧ d.strandV.busy = false ∧
      d.strandV.wait = .none ∧ d.strandV.rsn = v.st.rsn ∧ rel t d
    let sameV := fun (_ : State) (d : Core) => d.v = v.c.v
    let faults := ∃ t d, exec (.homeListOp i) s = .next t ∧ t.lists = s.lists.eraseIdx i ∧ t.mem = s.mem ∧
      t.core? v.ci = some d ∧ d.strandV.trap = some (listFault r.list) ∧ d.strandV.pc = v.st.pc ∧
      d.strandV.rsn = v.st.rsn - 1 ∧ d.s = v.c.s
    let held := fun (k : ListKey) => k.ctx = r.ctx ∧ k.list = r.list ∧ k.key = r.key ∧ d0.head ≤ k.index ∧
      k.index < d0.tail ∧ k.slot = k.index % d0.cap
    let below := s.keys.filter (fun k => !(k.ctx == r.ctx && k.list == r.list && decide (d0.tail ≤ k.index)))
    (r.pop = false → r.item.length = 32 →
      (∀ k older newer, r.dedup = true → s.keys = older ++ k :: newer → held k → (∀ y, y ∈ older → ¬ held y) →
        (s.recordAt r d0 k.slot = none → faults) ∧
        (∀ a, s.recordAt r d0 k.slot = some a → answers (2 * 2 ^ 62 + k.slot) (fun t d => sameV t d ∧ t.keys = s.keys ∧
          SameMemBut s t ((List.range 4).map (fun j => a + 28 + j)) ∧
          readNat t.mem (a + 28) 4 = cvt .fp32 .rne false
            (FNum.add .rne (f32 (readNat s.mem (a + 28) 4)) (f32 (fieldAt r.item 28 4)))))) ∧
      ((r.dedup = false ∨ ∀ k, k ∈ s.keys → ¬ held k) →
        ((d0.tail + 2 ^ 64 - d0.head) % 2 ^ 64 = d0.cap →
          answers (2 ^ 62) (fun t d => sameV t d ∧ t.mem = s.mem ∧ t.keys = s.keys)) ∧
        ((d0.tail + 2 ^ 64 - d0.head) % 2 ^ 64 ≠ d0.cap →
          (s.recordAt r d0 (slot d0.tail) = none → faults) ∧
          (∀ a, s.recordAt r d0 (slot d0.tail) = some a → (a + 32 ≤ r.table + 24 ∨ r.table + 32 ≤ a) →
            answers (slot d0.tail) (fun t d => sameV t d ∧
              (∀ j, j < 32 → readByte t.mem (a + j) = r.item.getD j 0) ∧
              readNat t.mem (r.table + 24) 8 = (d0.tail + 1) % 2 ^ 64 ∧
              (∀ b, (b < a ∨ a + 32 ≤ b) → (b < r.table + 24 ∨ r.table + 32 ≤ b) → readByte t.mem b = readByte s.mem b) ∧
              (r.dedup = false → t.keys = below) ∧
              (r.dedup = true → t.keys = below ++
                [{ ctx := r.ctx, list := r.list, key := r.key, slot := slot d0.tail, index := d0.tail }])))))) ∧
    (r.pop = true →
      (d0.head = d0.tail → answers (3 * 2 ^ 62) (fun t d => sameV t d ∧ t.mem = s.mem)) ∧
      (d0.head ≠ d0.tail →
        (s.recordAt r d0 (slot d0.head) = none → faults) ∧
        (∀ a, s.recordAt r d0 (slot d0.head) = some a → answers (slot d0.head) (fun t d =>
          SameMemBut s t ((List.range 8).map (fun j => r.table + 16 + j)) ∧
          readNat t.mem (r.table + 16) 8 = (d0.head + 1) % 2 ^ 64 ∧
          (∀ x, x ≠ BitVec.ofNat 5 r.reg → d.v.read x = v.c.v.read x) ∧
          (quiet (.v (BitVec.ofNat 5 r.reg)) → ∀ j, j < 64 → ((d.v.read (BitVec.ofNat 5 r.reg)).at' j).toNat =
            if j < 8 then readNat s.mem (a + 4 * j) 4 else ((v.c.v.read (BitVec.ofNat 5 r.reg)).at' j).toNat))))))

/-- R225, R284-R286, R292: a barrier level releases only where it can, and then every member that has not left has its
episode done, a SYNC among them starts the next phase, opens phase copies and lets the strands that wait in it go, and a
phase that closes past the smallest budget counts as late, a remote member's among them. A remote member that was killed breaks
the level, and one with an arrival still open stops the pending DMSETs with DOMAIN_FAULT. QUIESCE ends with the flag 0 for a member of a domain that has
work, and with the flag 1 for all once every member waits in it and no list has any; members on other packages report for
themselves (log entry 3); that phases are counted from the compute phase before the first SYNC, which has no limit, is log entry 18. -/
def Obligations.BarrierReleaseResults : Prop :=
  (∀ (s : State) (ci lvl : Nat) (remote : BarrierNews) (c : Core), s.core? ci = some c → lvl < 5 →
    let places := s.domain lvl c
    let cores := places.filterMap s.core?
    let live := cores.filter (fun d => !d.gone)
    let peers := s.needsPeers c lvl
    let closing := live.any (fun d => (d.bars.at' lvl).sync) || (peers && remote.sync)
    let opens := s.canRelease lvl cores = true ∧ (peers = true → remote.arrived = true)
    let broken := peers = true ∧ remote.broken = true
    (broken → ∃ t, exec (.barrierRelease ci lvl remote) s = .next t ∧ SameMem s t ∧
      ∀ j d, j ∈ places → s.core? j = some d → ∃ e, t.core? j = some e ∧
        e = { d with bars := d.bars.put lvl { d.bars.at' lvl with broken := true } }) ∧
    (¬ broken → ¬ opens → exec (.barrierRelease ci lvl remote) s = .next s) ∧
    (¬ broken → opens → ∃ t, exec (.barrierRelease ci lvl remote) s = .next t ∧ SameMem s t ∧
      (∀ (n : Nat) (k : Task), ((live.headD c).bars.at' lvl).phase ≠ 0 → closing = true →
        phaseLimit live lvl = some n ∨ (peers = true ∧ remote.budget ≠ 0 ∧ n = 16 * remote.budget) →
        ((live.headD c).bars.at' lvl).openClk + n < s.clk → s.task? c.task = some k →
        ∃ k', t.task? c.task = some k' ∧ k'.late = k.late + 1) ∧
      ∀ j d, j ∈ places → s.core? j = some d → d.gone = false → ∃ e, t.core? j = some e ∧
        (e.bars.at' lvl).done = (d.bars.at' lvl).made ∧ (e.bars.at' lvl).made = (d.bars.at' lvl).made ∧
        (closing = false → (e.bars.at' lvl).phase = (d.bars.at' lvl).phase ∧ e.dm = d.dm) ∧
        (closing = true → (e.bars.at' lvl).phase = (d.bars.at' lvl).phase + 1 ∧ (e.bars.at' lvl).openClk = s.clk) ∧
        (closing = true → 2 ≤ lvl → peers = true → remote.unfinished = true → (d.dmNext.at' (lvl - 2)).isSome = true →
          d.trapped = none → ∃ hd, e.trapped = some hd ∧ hd.info = domainFault (lvl - 1) ∧ hd.src = 0 ∧ e.dm = d.dm) ∧
        ((d.bars.at' lvl).sync = true → (d.bars.at' lvl).phase % 2 = 0 → ∀ k y, k < 4 → y ∈ (d.chans.at' k).queue →
          y.phase = some lvl → y.openAt = none → ∃ z, z ∈ (e.chans.at' k).queue ∧ z.n0 = y.n0 ∧ z.openAt = some s.clk) ∧
        ∀ x, (d.halted = false ∧ (d.strand x).synced = some lvl ∧ (d.strand x).wait = .barrier lvl ∧
            (d.strand x).held.isSome = true → (e.strand x).pc = (d.strand x).pc + 8 ∧
              (e.strand x).dwc = (d.strand x).dwc + 1) ∧
          ((d.strand x).synced ≠ some lvl → (e.strand x).pc = (d.strand x).pc ∧ (e.strand x).rsn = (d.strand x).rsn))) ∧
  (∀ (s : State) (ci lvl : Nat) (remote : Option Bool) (c : Core), s.core? ci = some c →
    let peers := s.needsPeers c lvl
    let ls := s.domainLists c lvl
    let places := s.domain lvl c
    let leaves := fun (d e : Core) (r : Nat) => ∀ n, d.inQuiesce lvl = some n →
      (d.flagFree n = true → e.quiet = none ∧ ∀ x, (e.strand x).pc = (d.strand x).pc + 8 ∧ (e.strand x).wait = .none ∧
        (n < 8 → (e.strand x).cfok.getLsbD n = true ∧ (e.strand x).cfv.getLsbD n = (r == 1))) ∧
      (d.flagFree n = false → e = { d with quiet := some r })
    (c.inQuiesce lvl = none → exec (.quiesceDecision ci ⟨lvl, remote⟩) s = .next s) ∧
    (c.inQuiesce lvl ≠ none →
      ((∃ d, d ∈ ls ∧ d.2.head ≠ d.2.tail) ∨ (peers = true ∧ remote = some false) → ∃ t e, exec (.quiesceDecision ci ⟨lvl, remote⟩) s = .next t ∧ OnlyCore s t ci e ∧
        leaves c e 0) ∧
      ((∀ d, d ∈ ls → d.2.head = d.2.tail) → ¬ (peers = true ∧ remote = some false) →
        let all := (peers = true → remote = some true) ∧ (∀ j d, j ∈ places → s.core? j = some d → d.gone = false → d.inQuiesce lvl ≠ none) ∧
          ∀ r, r ∈ s.lists → r.pop = false → r.ctx = s.ctxNo c → ∀ d, d ∈ ls → d.1 ≠ r.list
        (¬ all → exec (.quiesceDecision ci ⟨lvl, remote⟩) s = .next s) ∧
        (all → ∃ t, exec (.quiesceDecision ci ⟨lvl, remote⟩) s = .next t ∧ t = { s with cores := t.cores } ∧
          ∀ j d, j ∈ places → s.core? j = some d → ∃ e, t.core? j = some e ∧ leaves d e 1))))

/-- R325, R332-R336: WROUTE binds a configured route unless its bindings clash (WELT_FAULT), WROUTE.free frees one that
does not run, WLOAD loads a strip that no running route and no other core's route holds, WSTART starts a configured route
whose strips have programs and takes a number on tl4, WSTOP ends it with an end mark or at once, and WSTAT reads it. The strip
number in the DETAIL of WELT_FAULT, the first strip named or 0 for WSTART, WSTOP and WROUTE.free, is the model's choice (log
entry 79). -/
def Obligations.WeltControlResults : Prop :=
  ∀ (s : State) (v : At) (h : Hdr) (f : FmtW) (e1 e2 : Word), Ready s h v →
    let rt := f.rt.toNat
    let ws := f.ws.toNat
    let cl := s.phys v.c
    let r := v.c.routes.at' rt
    let fault := fun (w : Nat) => ({ cause := 0x10, detail := BitVec.ofNat 32 (rt + 16 * w), addr := 0, write := false } : TrapInfo)
    let frame := fun (d : Core) => { v.c.undo v.e d with routes := v.c.routes } = v.c ∧
      ∀ k, k < 16 → k ≠ rt → d.routes.at' k = v.c.routes.at' k
    let same := fun (a b : Route) => { a with movedAt := 0 } = { b with movedAt := 0 }
    let chain := if f.ops.getLsbD 17 then setBits e1.toNat 54 36 ((s.readS v f.sb).toNat / 2 ^ 36 % 2 ^ 19) else e1.toNat
    let bound := routeOf chain e2.toNat
    let runs := r.mode = .run ∨ r.mode = .drain
    (wrouteOk chain e2.toNat = false → Traps (.wroute h f e1 e2) s v (illegalOp 6)) ∧
    (wrouteOk chain e2.toNat = true →
      (bound.bindBad s v.c v.ci rt = true → Traps (.wroute h f e1 e2) s v (fault (bound.strips.headD 0))) ∧
      (runs → bound.bindBad s v.c v.ci rt = true) ∧
      (bound.bindBad s v.c v.ci rt = false → Completes (.wroute h f e1 e2) s h 3 v (fun d =>
        same (d.routes.at' rt) bound ∧ bound.mode = .conf ∧ bound.src.toNat = chain / 2 ^ 55 % 2 ^ 9 ∧
        bound.strips = (List.range (chain / 2 ^ 52 % 8)).map (fun j => chain / 2 ^ (48 - 4 * j) % 16) ∧ frame d))) ∧
    (runs → Traps (.wrouteFree h f e1 e2) s v (fault 0)) ∧
    (¬ runs → Completes (.wrouteFree h f e1 e2) s h 3 v (fun d => (d.routes.at' rt).mode = .free ∧ frame d)) ∧
    (let a := (s.readS v f.sa).toNat
     let n := f.ops.toNat % 32 + 1
     let len := if 14 ≤ ws then 1668 else 640
     let as := (List.range len).filterMap (fun i => s.winAddr v.c (a + i))
     let at4 := fun (o : Nat) => leNat ((List.range 4).map (fun i => readByte s.mem (as.getD (o + i) 0)))
     let words := (List.range n).map (fun i => BitVec.ofNat 32 (at4 (4 * i)))
     (a % 16 ≠ 0 → Traps (.wload h f) s v (alignFault a)) ∧
     (a % 16 = 0 → as.length ≠ len ∨ regionOf a ≠ regionOf (a + len - 1) → Traps (.wload h f) s v (windowFault a)) ∧
     (a % 16 = 0 → as.length = len → regionOf a = regionOf (a + len - 1) → (∀ b, b ∈ as → s.poisoned b = false) →
       (∀ ci k r j, s.stripRoute cl ws = some (ci, k, r, j) → r.mode = .run ∨ r.mode = .drain ∨ ci ≠ v.ci →
         Traps (.wload h f) s v (weltFault k ws)) ∧
       ((∀ ci k r j, s.stripRoute cl ws = some (ci, k, r, j) → r.mode ≠ .run ∧ r.mode ≠ .drain ∧ ci = v.ci) →
         ((∃ w, w ∈ words ∧ stripWordOk ws w = false) → Traps (.wload h f) s v (weltFault 0 ws)) ∧
         ((∀ w, w ∈ words → stripWordOk ws w = true) → ∃ t d, exec (.wload h f) s = .next t ∧
           t = { s with cores := t.cores, clusters := t.clusters } ∧ t.core? v.ci = some d ∧ Retires s h 1 v d ∧
           v.c.undo v.e d = v.c ∧
           (let x := (t.clusters.at' cl).strips.at' ws
            x.prog = words ∧ (∀ i, i < 64 → (x.c0.at' i).toNat = at4 (128 + 4 * i) ∧ (x.c1.at' i).toNat = at4 (384 + 4 * i)) ∧
            (14 ≤ ws → ∀ i, i < 257 → (x.table.at' i).toNat = at4 (640 + 4 * i)) ∧ x.pos = 0 ∧ x.acc = none) ∧
           ∀ j, j < 16 → j ≠ ws → (t.clusters.at' cl).strips.at' j = (s.clusters.at' cl).strips.at' j)))) ∧
    (let fits := r.mode = .conf ∧ (∀ j, j ∈ r.strips → ((s.clusters.at' cl).strips.at' j).prog ≠ []) ∧
       ∀ p, p ∈ r.stages → s.portStageOk cl p = true
     let n := (s.readS v f.sb).toNat
     (¬ fits → Traps (.wstart h f) s v (fault 0)) ∧
     (fits → ∃ t d, exec (.wstart h f) s = .next t ∧ t = { s with cores := t.cores, clusters := t.clusters } ∧
       t.core? v.ci = some d ∧ Retires s h 1 v d ∧ { v.c.undo v.e d with routes := v.c.routes, tls := v.c.tls } = v.c ∧
       (d.tls.at' 4).iss = (v.c.tls.at' 4).iss + 1 ∧
       same (d.routes.at' rt) { r.clearLinks with
         mode := .run, left := (if n = 0 then none else some n), ended := false, spl := false, psn := false, beats := 0,
         num := (v.c.tls.at' 4).iss.toNat + 1, faults := [], seen := s.moSeen cl r } ∧
       ∀ j, j ∈ r.strips → j < 16 → ((t.clusters.at' cl).strips.at' j).pos = 0 ∧
         ((t.clusters.at' cl).strips.at' j).acc = none ∧
         ((t.clusters.at' cl).strips.at' j).prog = ((s.clusters.at' cl).strips.at' j).prog)) ∧
    (r.mode = .free → Traps (.wstop h f) s v (fault 0)) ∧
    (r.mode = .conf → CompletesPlain (.wstop h f) s h v) ∧
    (r.mode = .drain → f.ops.getLsbD 0 = false → CompletesPlain (.wstop h f) s h v) ∧
    (r.mode = .run → f.ops.getLsbD 0 = false → Completes (.wstop h f) s h 1 v (fun d =>
      (d.routes.at' rt).mode = .drain ∧ same (d.routes.at' rt) { r.putFirst none with mode := .drain } ∧ frame d)) ∧
    (runs → f.ops.getLsbD 0 = true → ∃ t d, exec (.wstop h f) s = .next t ∧
      t = { s with cores := t.cores, clusters := t.clusters } ∧ t.core? v.ci = some d ∧ Retires s h 1 v d ∧
      same (d.routes.at' rt) { r.clearLinks with mode := .conf, ended := false } ∧
      d.tls.at' 4 = (v.c.tls.at' 4).finish r.num) ∧
    (v.foreign f.sd = false → CompletesS (.wstat h f) s h v f.sd 0 (BitVec.ofNat 64
      ((match r.mode with
        | .free => 0
        | .conf => 1
        | .run => 2
        | .drain => 3) * 2 ^ 62 + (if r.spl then 2 ^ 61 else 0) + (if r.psn then 2 ^ 60 else 0) + r.beats % 2 ^ 48)))

/-- R326-R331: a step of a strip whose input beat is there and whose output has room takes the beat, emits the operation's
result in every lane, marked poisoned where an operand is, and counts the step; without either nothing happens. X.ACC
emits at its last step only, X.CVT packs, unpacks or converts, X.IDLE ends by the clk, and the end mark passes once; a step
that packs or unpacks takes its clk once, with its last beat, and what it still owes at the end mark is dropped (log entry 32).
On a clk that the duty of the die withholds (R385) no end mark passes. -/
def Obligations.StripResults : Prop :=
  ∀ (s : State) (x : StripAt) (f : FmtX), s.stripNow = some x →
    let due := x.now + s.stripClk x.cl x.ws
    let result := fun (i : Instr) (moved : Route) (y : Strip) => ∃ t d c, exec i s = .next t ∧
      t = { s with cores := t.cores, clusters := t.clusters } ∧ s.core? x.ci = some c ∧ t.core? x.ci = some d ∧
      { d with routes := c.routes } = c ∧
      { d.routes.at' x.rt with movedAt := 0 } = { moved with movedAt := 0 } ∧
      (t.clusters.at' x.cl).strips.at' x.ws = y
    let steps := fun (i : Instr) (ops : List (BitVec 2)) (g : (Nat → Nat) → Nat) =>
      (x.input = none ∨ x.r.outRoom x.k = false → exec i s = .next s) ∧
      (∀ b, x.input = some b → x.r.outRoom x.k = true → ∃ out : Beat,
        result i ((x.r.takeIn x.k).putOut x.k (some out)) (x.strip.stepped due) ∧
        (∀ j, j < 64 → (out.lanes.at' j).toNat =
          g (fun n => ((x.strip.operand b (ops.getD n 0)).lanes.at' j).toNat) % 2 ^ 32) ∧
        (out.psn = true ↔ ∃ o, o ∈ ops ∧ (x.strip.operand b o).psn = true))
    let int := f.int = 1
    let sg := fun (a : Nat) => if a < 2 ^ 31 then (a : Int) else (a : Int) - 2 ^ 32
    let rnd := cvt .fp32 (Rm.ofField f.rm) false
    let rne := cvt .fp32 .rne false
    let add := fun (a b : Nat) => if int then a + b else rnd (FNum.add (Rm.ofField f.rm) (f32 a) (f32 b))
    let larger := fun (a b : Nat) => if int then (if sg a < sg b then b else a) else rne ((f32 a).max (f32 b))
    let smaller := fun (a b : Nat) => if int then (if sg b < sg a then b else a) else rne ((f32 a).min (f32 b))
    let narrow := cvtFmt f.sub
    let code := fun (a : Nat) => cvt narrow (Rm.ofField f.rm) (f.flg == 1) (if int then .ofInt (sg a) else f32 a)
    let two := [f.a, f.b]
    steps (.xPass f) [0] (fun o => o 0) ∧
    steps (.xAdd f) two (fun o => add (o 0) (o 1)) ∧
    steps (.xMul f) two (fun o => if int then o 0 * o 1 else rnd ((f32 (o 0)).mul (f32 (o 1)))) ∧
    steps (.xFma f) [f.a, f.b, f.c] (fun o =>
      rnd (FNum.add (Rm.ofField f.rm) ((f32 (o 0)).mul (f32 (o 1))) (f32 (o 2)))) ∧
    steps (.xMax f) two (fun o => larger (o 0) (o 1)) ∧
    steps (.xMin f) two (fun o => smaller (o 0) (o 1)) ∧
    steps (.xCmp f) two (fun o =>
      if compareLanes (if int then 11 else 0) f.sub.toNat false (o 0) (o 1) then 2 ^ 32 - 1 else 0) ∧
    steps (.xSel f) [f.a, f.b, f.c] (fun o => if o 2 = 0 then o 1 else o 0) ∧
    steps (.xScale f) two (fun o =>
      let e := o 1 % 256
      if e = 255 then nanCode .fp32
      else rnd ((f32 (o 0)).shift (if f.sub.getLsbD 0 then 127 - (e : Int) else (e : Int) - 127))) ∧
    steps (.xLut f) [0, 2, 3] (fun o => lutLane x.strip.table (o 0) (o 1) (o 2)) ∧
    (f.pk = 0 → steps (.xCvt f) [f.a] (fun o => code (o 0))) ∧
    (f.pk = 1 → ∀ b, x.input = some b →
      (x.strip.gather.length + 1 < 32 / narrow.bits → result (.xCvt f) (x.r.takeIn x.k)
        { x.strip with gather := x.strip.gather ++ [x.strip.operand b f.a] }) ∧
      (32 / narrow.bits ≤ x.strip.gather.length + 1 → x.r.outRoom x.k = true →
        result (.xCvt f) ((x.r.takeIn x.k).putOut x.k (some (packBeats f (x.strip.gather ++ [x.strip.operand b f.a]))))
          ({ x.strip with gather := [] }.stepped due))) ∧
    (f.pk = 2 → x.r.outRoom x.k = true → ∀ (bs : List Beat) (first : Route),
      (x.strip.owed = [] ∧ ∃ b, x.input = some b ∧ bs = unpackBeat f (x.strip.operand b f.a) ∧ first = x.r.takeIn x.k) ∨
        (x.strip.owed = bs ∧ bs ≠ [] ∧ first = x.r) →
      ∃ n, 0 < n ∧ n ≤ bs.length ∧
        (let out := (bs.take n).foldl (fun r b => r.putOut x.k (some b)) first
         (n < bs.length → out.outRoom x.k = false) ∧
         result (.xCvt f) out (if n = bs.length then { x.strip with owed := [] }.stepped due
           else { x.strip with owed := bs.drop n }))) ∧
    (∀ b, x.input = some b →
      let o := x.strip.operand b f.a
      let acc := match x.strip.acc with
        | none => o
        | some y =>
          let g := fun (p q : Nat) => if f.sub = 0 then add p q else if f.sub = 1 then larger p q else smaller p q
          let lanes := RegFile.tab 6 (fun j => BitVec.ofNat 32 (g (y.lanes.at' j).toNat (o.lanes.at' j).toNat))
          { lanes := lanes, psn := y.psn || o.psn : Beat }
      (f.flg = 0 ∨ x.strip.left ≠ 1 →
        result (.xAcc f) (x.r.takeIn x.k) ({ x.strip with acc := some acc }.stepped due)) ∧
      (f.flg = 1 → x.strip.left = 1 → x.r.outRoom x.k = true →
        result (.xAcc f) ((x.r.takeIn x.k).putOut x.k (some acc)) ({ x.strip with acc := none }.stepped due))) ∧
    (x.strip.idle = none → ∃ t, exec (.xIdle f) s = .next t ∧ t = { s with clusters := t.clusters } ∧
      (t.clusters.at' x.cl).strips.at' x.ws = { x.strip with idle := some (max x.strip.busyTo x.now + f.nm1.toNat + 1) }) ∧
    (∀ n, x.strip.idle = some n →
      (x.now < n → exec (.xIdle f) s = .next s) ∧
      (n ≤ x.now → ∃ t, exec (.xIdle f) s = .next t ∧ t = { s with clusters := t.clusters } ∧
        (t.clusters.at' x.cl).strips.at' x.ws = { x.strip with left := 1 }.stepped n)) ∧
    (let withheld := (s.dies.at' (x.cl / Config.clustersPerDie)).duty ≤ s.clk % 64
     (withheld ∨ (x.r.links.getD x.k Link.empty).head? ≠ some none ∨ (x.strip.endBeat ≠ none ∧ x.r.outRoom x.k = false) →
       exec (.stripEndMark x.cl x.ws) s = .next s) ∧
     (¬ withheld → (x.r.links.getD x.k Link.empty).head? = some none →
      (∀ b, x.strip.endBeat = some b → x.r.outRoom x.k = true → result (.stripEndMark x.cl x.ws)
        (((x.r.takeIn x.k).putOut x.k (some b)).putOut x.k none)
        { x.strip with acc := x.strip.endAcc, gather := [], owed := [], idle := none, ended := true }) ∧
      (x.strip.endBeat = none → result (.stripEndMark x.cl x.ws) ((x.r.takeIn x.k).putOut x.k none)
        { x.strip with gather := [], owed := [], idle := none, ended := true })))

/-- R321-R323, R336: port MO emits the next row of its accumulator, of which each element is one that the accumulator has
held while the route ran, port VO the beats of a published slot while there is room, port VI writes the beats that stand at it
into a slot and fills one that it has begun with zeros at the end mark; each releases its slot after the last beat. A failed
stage check traps at the route's owner and that port stops; a transpose unit turns a block of 64 beats, and at the end mark one
filled with zero beats, the mark after it. A route whose destinations have taken everything is configured again and its number
is done; a destination of an exited core takes its beats and discards them. (That the row mixes values which the accumulator
has had since the port's last beat: log entry 32.) -/
def Obligations.PortResults : Prop :=
  ∀ (s : State) (ci rt oi : Nat) (c o : Core), s.Inv → s.core? ci = some c → rt < 16 →
    let r := c.routes.at' rt
    let cl := s.phys c
    let st := o.stages.at' r.sstg
    let vt := o.stages.at' r.dstg
    let same := fun (a b : Route) => { a with movedAt := 0 } = { b with movedAt := 0 }
    let traps := fun (i : Instr) (k port : Nat) => ∃ t d hd, exec i s = .next t ∧ OnlyCore s t ci d ∧ d.trapped = some hd ∧
      (c.trapped = none → hd.info.cause = 0xE ∧ hd.info.detail = BitVec.ofNat 32 k) ∧ (d.routes.at' rt).faults = port :: r.faults
    (s.coreAt cl r.srcSlot = some (oi, o) →
      (r.srcKind ≠ 0 ∨ r.canEmit 1 = false ∨ o.halted = true ∨ o.exited = true → exec (.moBeat ci rt) s = .next s) ∧
      (r.srcKind = 0 → r.canEmit 1 = true → o.halted = false → o.exited = false → o.reserves r.sacc = false →
        ∃ t d, exec (.moBeat ci rt) s = .next t ∧ OnlyCore s t ci d ∧ { d with routes := c.routes } = c ∧
          ∃ (b : Beat) (seen : List Acc), same (d.routes.at' rt) ({ r with seen := seen }.emit b) ∧
            (∀ y, y ∈ seen ↔ y ∈ r.seen ∨ y = o.acc.at' r.sacc) ∧ (∃ y, y ∈ seen ∧ b.psn = y.psn) ∧
            ∀ j, j < 64 → ∃ y, y ∈ seen ∧ (b.lanes.at' j).toNat = y.el (r.beats % 64) j) ∧
      (r.srcKind ≠ 3 ∨ o.exited = true → exec (.voSlot ci rt) s = .next s) ∧
      (r.srcKind = 3 → o.exited = false →
        (r.canEmit 1 = false → exec (.voSlot ci rt) s = .next s) ∧
        (r.canEmit 1 = true →
          (st.acquire r.srcSeq true = .wait → exec (.voSlot ci rt) s = .next s) ∧
          (st.acquire r.srcSeq true = .fault → traps (.voSlot ci rt) r.sstg 0) ∧
          (∀ a st1 k, st.acquire r.srcSeq true = .ok a → r.srcPos < slotBeats (st.word.getD 0) → st.relR r.srcSeq = some st1 →
            let n := slotBeats (st.word.getD 0) - r.srcPos
            let sent := ((List.range k).map (fun i => s.slotBeat o (a + 256 * (r.srcPos + i)))).foldl Route.emit r
            k ≤ n → r.canEmit k = true → k = n ∨ r.canEmit (k + 1) = false →
            ∃ t d o', exec (.voSlot ci rt) s = .next t ∧ t = { s with cores := t.cores } ∧ t.core? ci = some d ∧
              t.core? oi = some o' ∧ { d with routes := c.routes, stages := c.stages } = c ∧
              { o' with routes := o.routes, stages := o.stages } = o ∧ (oi ≠ ci → d.stages = c.stages ∧ o'.routes = o.routes) ∧
              (k = n → o'.stages = o.stages.put r.sstg st1 ∧
                same (d.routes.at' rt) { sent with srcSeq := r.srcSeq + 1, srcPos := 0 }) ∧
              (k < n → o'.stages = o.stages ∧ same (d.routes.at' rt) { sent with srcPos := r.srcPos + k }))))) ∧
    (∀ dst, s.coreAt cl (r.dests.getD dst 64) = some (oi, o) →
      let q := r.dstSeq.getD dst 0
      (r.dkind ≠ 2 ∨ dst + 1 ∈ r.faults ∨ o.halted = true → exec (.viSlot ci rt dst) s = .next s) ∧
      (r.dkind = 2 → dst + 1 ∉ r.faults → (r.mode = .run ∨ r.mode = .drain) → o.halted = false → o.exited = false →
        ((r.outs.getD dst Link.empty).head? = none → exec (.viSlot ci rt dst) s = .next s) ∧
        (∀ b, (r.outs.getD dst Link.empty).head? = some (some b) →
          (vt.acquire q false = .wait → exec (.viSlot ci rt dst) s = .next s) ∧
          (vt.acquire q false = .fault → traps (.viSlot ci rt dst) r.dstg (dst + 1))) ∧
        (∀ a vt1 (bs : List Beat) (rest : List (Option Beat)), vt.acquire q false = .ok a → vt.relW q = some vt1 →
          let p := r.dstPos.getD dst 0
          let n := slotBeats (vt.word.getD 0) - p
          let k := bs.length
          p < slotBeats (vt.word.getD 0) → dst < r.dstPos.length → dst < r.dstSeq.length → dst < r.outs.length →
          (r.outs.getD dst Link.empty).items = bs.map some ++ rest → k ≤ n → k = n ∨ rest = [] ∨ rest.head? = some none →
          (∀ b, b ∈ bs → b.psn = false) →
          let m := if k < n ∧ rest.head? = some none ∧ 0 < p + k then n else k
          ∃ t d o', exec (.viSlot ci rt dst) s = .next t ∧
            t = { s with cores := t.cores, mem := t.mem, poison := t.poison, watched := t.watched } ∧ t.core? ci = some d ∧
            t.core? oi = some o' ∧ { d with routes := c.routes, stages := c.stages } = c ∧
            { o' with routes := o.routes, stages := o.stages } = o ∧ (oi ≠ ci → d.stages = c.stages ∧ o'.routes = o.routes) ∧
            (let as := (List.range (256 * m)).map (fun i => s.portAddr o (a + 256 * p + i))
             SameMemBut s t as ∧ ∀ i, i < 256 * m → (∀ j, i < j → j < 256 * m → as.getD j 0 ≠ as.getD i 0) →
               (readByte t.mem (as.getD i 0)).toNat =
                 ((bs.getD (i / 256) Beat.zero).lanes.at' (i % 256 / 4)).toNat / 2 ^ (8 * (i % 4)) % 2 ^ 8) ∧
            ((d.routes.at' rt).outs.getD dst Link.empty).items = rest ∧
            (m = n → o'.stages = o.stages.put r.dstg vt1 ∧ (d.routes.at' rt).dstSeq = r.dstSeq.set dst (q + 1) ∧
              (d.routes.at' rt).dstPos = r.dstPos.set dst 0) ∧
            (m < n → o'.stages = o.stages ∧ (d.routes.at' rt).dstSeq = r.dstSeq ∧
              (d.routes.at' rt).dstPos = r.dstPos.set dst (p + m))))) ∧
    (∀ cl u, 2 ≤ u → exec (.transposeBlock cl u) s = .next s) ∧
    (let turned := fun (t : State) (cl u : Nat) (bs : List Beat) (marks : Nat) => t = { s with clusters := t.clusters } ∧
       let x := (t.clusters.at' cl).units.at' u
       x.coming = [] ∧ x.marks = 0 ∧ x.going.length = 64 + marks ∧ (∀ i, i < marks → x.going[64 + i]? = some none) ∧
       ∀ i, i < 64 → ∃ y, x.going[i]? = some (some y) ∧ ∀ j, j < 64 → y.lanes.at' j = (bs.getD j Beat.zero).lanes.at' i
     ∀ cl u bs marks ended, u < 2 → cl < 64 → s.routeFrom cl ((6 + u) * 64) = none →
      (s.clusters.at' cl).units.at' u = { coming := bs, marks := marks, going := [], ended := ended } →
      (s.routeTo cl (6 + u) 0 = none → bs.length = 64 →
        ∃ t, exec (.transposeBlock cl u) s = .next t ∧ turned t cl u bs marks) ∧
      (∀ ci rt r d, s.routeTo cl (6 + u) 0 = some (ci, rt, r, d) → (r.outs.getD d Link.empty).head? = some none →
        ended = false → 0 < bs.length → bs.length ≤ 64 →
        ∃ t, exec (.transposeBlock cl u) s = .next t ∧ turned t cl u bs (marks + 1) ∧
          ((t.clusters.at' cl).units.at' u).ended = true)) ∧
    (6 ≤ r.dkind → (∀ k, k < 16 → 6 ≤ (c.routes.at' k).dkind ∨ (c.routes.at' k).mode = .free) → s.cores = [c] → ci = 0 →
      let noted := ((s.clusters.at' cl).units.at' (r.dkind - 6)).ended
      (r.mode = .drain → (∀ l, l ∈ r.outs → l.head? = some none) → (∀ p, p ∈ r.dstPos → p = 0) → noted = true →
        ∃ t d, exec (.routeDone ci rt) s = .next t ∧ OnlyCore s t ci d ∧ d.routes.at' rt = { r with mode := .conf } ∧
          d.tls.at' 4 = (c.tls.at' 4).finish r.num) ∧
      (r.mode ≠ .drain ∨ noted = false ∨ (∃ l, l ∈ r.outs ∧ l.head? ≠ some none) → exec (.routeDone ci rt) s = .next s)) ∧
    (r.dkind < 6 → r.mode ≠ .free →
      let gone := fun (x : Route) (k : Nat) => s.slotGone cl (x.dests.getD k 0) = true
      let done := r.mode = .drain ∧ (∀ l, l ∈ r.outs → l.head? = some none) ∧ ∀ p, p ∈ r.dstPos → p = 0
      ((∀ x, x ∈ s.routesIn cl → x.2.2.dkind < 6 → ∀ k, k < max x.2.2.outs.length x.2.2.dstPos.length → ¬ gone x.2.2 k) →
        (done → ∃ t d, exec (.routeDone ci rt) s = .next t ∧ OnlyCore s t ci d ∧
          d.routes.at' rt = { r with mode := .conf } ∧ d.tls.at' 4 = (c.tls.at' 4).finish r.num ∧
          (∀ k, k < 16 → k ≠ rt → d.routes.at' k = c.routes.at' k)) ∧
        (¬ done → ∃ t, exec (.routeDone ci rt) s = .next t ∧ t = { s with cores := t.cores } ∧ ∀ j, t.core? j = s.core? j)) ∧
      (∀ k l, r.outs[k]? = some l → gone r k → ∃ t d, exec (.routeDone ci rt) s = .next t ∧ t.core? ci = some d ∧
        d.stages = c.stages ∧ ∃ l1, (d.routes.at' rt).outs[k]? = some l1 ∧ l1.items = l.items.filter (fun i => i.isNone)))

/-- R338-R341: a watchdog that expires grows the smallest full link by 64 beats while the context's spill limit allows, and
else reports; without a full link, and when a wait of a strand stands still, the waits that nothing can end are reported:
the largest set each of whose holders waits in it or is gone. A report freezes the cores of its parties with WAIT_CYCLE,
and leaves frozen ones alone. The model's choice: the beats that a growth puts into the spill area take one of its steps of
16,384 bytes, whose bytes are then free values (log entry 32). -/
def Obligations.ProgressMonitorResults : Prop :=
  (∀ (s : State) (ctx cl : Nat), cl < 64 →
    let x := s.limitsOf ctx cl
    let run := fun (rel : State → Prop) => ∃ t, exec (.watchdogExpiry ctx cl) s = .next t ∧
      t = { s with cores := t.cores, clusters := t.clusters } ∧ (t.clusters.at' cl).watch = s.clk ∧ rel t
    let due := s.coresIn ctx cl ≠ [] ∧ s.stillSince ctx cl + x.wdog ≤ s.clk
    (¬ due → exec (.watchdogExpiry ctx cl) s = .next s) ∧
    (∀ ci rt i cap, due → s.fullLink ctx cl = some (ci, rt, i, cap) → ∃ (c : Core) (l : Link), s.core? ci = some c ∧
      (c.routes.at' rt).allLinks[i]? = some l ∧ l.cap = cap ∧ cap ≤ l.count ∧
      (∀ y, y ∈ s.ctxRoutes ctx cl → ∀ k, k ∈ y.2.2.allLinks → k.cap ≤ k.count → cap ≤ k.cap) ∧
      (s.spilled ctx < x.splim → ∃ t d, exec (.watchdogExpiry ctx cl) s = .next t ∧
        t = { s with cores := t.cores, clusters := t.clusters, mem := t.mem, poison := t.poison, watched := t.watched } ∧
        (t.clusters.at' cl).watch = s.clk ∧ t.core? ci = some d ∧ { d with routes := c.routes } = c ∧
        (d.routes.at' rt).spl = true ∧ (∀ k, k < 16 → k ≠ rt → d.routes.at' k = c.routes.at' k) ∧
        (d.routes.at' rt).allLinks[i]? = some { l with cap := cap + 64 } ∧
        (∀ k, k ≠ i → (d.routes.at' rt).allLinks[k]? = (c.routes.at' rt).allLinks[k]?) ∧
        (∀ j, j ≠ ci → t.core? j = s.core? j) ∧
        ∃ k as, SameMemBut s t as ∧ (as = [] ∨ k < x.splen / 16384 ∧
          s.firmReach ctx .store ((x.spva + 16384 * k) % 2 ^ 52) 16384 = .ok as)) ∧
      (x.splim ≤ s.spilled ctx → run (fun t =>
        t.cores = (s.report 2 (s.routeCores ci (c.routes.at' rt)) (s.stallEdges ctx (ci, rt, c.routes.at' rt))).cores))) ∧
    (due → s.fullLink ctx cl = none → s.deadSet ctx = [] → run (fun t => t.cores = s.cores)) ∧
    (due → s.fullLink ctx cl = none → s.deadSet ctx ≠ [] → run (fun t =>
      t.cores = (s.report 1 (partyCores (s.deadSet ctx)) (s.deadSet ctx)).cores))) ∧
  (∀ (s : State) (ctx : Nat),
    let still := ∃ c, c ∈ s.cores ∧ s.ctxNo c = ctx ∧ c.halted = false ∧
      ∃ e, (c.strand e).standsStill (s.limitsOf ctx (s.phys c)).wdog s.clk = true
    (¬ still ∨ s.deadSet ctx = [] → exec (.waitStandstill ctx) s = .next s) ∧
    (still → s.deadSet ctx ≠ [] →
      exec (.waitStandstill ctx) s = .next (s.report 1 (partyCores (s.deadSet ctx)) (s.deadSet ctx)))) ∧
  (∀ (s : State) (ctx : Nat),
    let ends := fun (l : List Edge) (e : Edge) => ∀ h, h ∈ e.holders → (∃ f, f ∈ l ∧ f.waiter = h) ∨ s.partyGone h = true
    (∀ e, e ∈ s.deadSet ctx → e ∈ s.waitGraph ctx ∧ ends (s.deadSet ctx) e) ∧
    ∀ l : List Edge, (∀ e, e ∈ l → e ∈ s.waitGraph ctx ∧ e.holders ≠ [] ∧ ends l e) → ∀ e, e ∈ l → e ∈ s.deadSet ctx) ∧
  (∀ (s : State) (reason : Nat) (keys : List (Nat × Nat)) (es : List Edge) (ci : Nat) (c : Core), s.core? ci = some c →
    s.place c.key = some ci → ∃ d, (s.report reason keys es).core? ci = some d ∧
      (c.halted = true ∨ c.key ∉ keys → d = c) ∧
      (c.halted = false → c.key ∈ keys → d.halted = true ∧ d.waitRec = waitRecord reason s.clk es ∧ d.s = c.s ∧
        (∀ e, (d.strand e).pc = (c.strand e).pc) ∧ ∃ hd, d.trapped = some hd ∧ hd.src = 7 ∧ hd.clk = s.clk ∧
          hd.info = { cause := 0xD, detail := BitVec.ofNat 32 reason, addr := 0, write := false }))

/-- R347, R348: a kick takes a new number, keeps the queue stopped or the larger number, and stops the queue where the
number is beyond the ring; an unmapped queue becomes pending. The scheduler's wakes unmap idle queues, map a pending one
into a free slot, and on the period exchange one mapped queue for a pending one that is at least as urgent (one for each
context at most: log entry 37). -/
def Obligations.QueueResults : Prop :=
  ∀ (s : State), s.Inv →
    (∀ qid seq, s.getQueue qid = none → exec (.kick qid seq) s = .next s) ∧
    (∀ (q : Queue) (seq : Nat), s.getQueue q.qid = some q →
      let beyond := q.consumed + 2 ^ q.rlog < seq
      let q1 := { q with subseen := seq, hready := if q.subseen ≤ q.consumed then s.clk else q.hready }
      (q.errstop = true ∨ seq ≤ q.subseen → exec (.kick q.qid seq) s = .next s) ∧
      (q.errstop = false → q.subseen < seq → beyond → ∀ as, s.firmReach q.ctx .store q.stva 64 = .ok as →
        (∀ a, a ∈ as → a < hostBase ∨ windowBase ≤ a) → ∃ t, exec (.kick q.qid seq) s = .next t ∧
          WroteStatus t { q with errstop := true, errcode := 0x22, errseq := seq } as) ∧
      (q.errstop = false → q.subseen < seq → ¬ beyond → q.slot.isSome = true → ∃ t, exec (.kick q.qid seq) s = .next t ∧
        t = { s with fw := t.fw } ∧ t.getQueue q.qid = some q1 ∧ ∀ i, i ≠ q.qid → t.queue? i = s.queue? i) ∧
      (q.errstop = false → q.subseen < seq → ¬ beyond → q.slot = none → ∃ t, exec (.kick q.qid seq) s = .next t ∧
        readBytes t.mem q.qcb 256 = { q1 with pend := true }.qcbBytes ∧
        SameMemBut s t ((List.range 256).map (fun i => q.qcb + i)) ∧ q.qid ∈ t.fw.kickmap ∧
        t.mgmt.events = s.mgmt.events ++
          (if q.qid ∉ s.fw.kickmap ∧ s.mgmt.fnmode.getLsbD 1 = true then
            [Note.bytes { typ := 0x10, ctx := q.ctx, vcore := 0xFFFFFFFF, qid := q.qid, lseq := 0, arg0 := q.qid,
                          arg1 := s.headPrio q1 }]
          else []))) ∧
    (∀ i periodic, (i, periodic) ∈ [(Instr.qsWake, false), (Instr.qsPeriodicWake, true)] →
      let on := if periodic then s.clk % 2 ^ 18 = 0 ∧ s.fw.ticked ≠ s.clk + 1
        else s.fw.roused = true ∨ ∃ q, q ∈ s.queues ∧ s.queueIdle q = true
      let noted := { s with fw := { s.fw with
        roused := false, woke := s.clk + 1, ticked := if periodic then s.clk + 1 else s.fw.ticked } }
      (¬ on → exec i s = .next s) ∧
      (s.mgmt.fnmode.getLsbD 1 = true → on → exec i s = .next noted) ∧
      (s.mgmt.fnmode.getLsbD 1 = false → on →
        ((∀ q, q ∈ s.queues → q.pend = false ∧ s.queueIdle q = false) → exec i s = .next noted) ∧
        (∀ q : Queue, s.fw.queues = [q] → q.ctx < 16 → q.slot.isSome = true → q.subseen = q.consumed →
          s.selectedOf q.qid = false → ∃ t, exec i s = .next t ∧ t.queue? q.qid = some { q with slot := none, pend := false } ∧
            readBytes t.mem q.qcb 256 = { q with slot := none, pend := false }.qcbBytes) ∧
        (∀ q : Queue, s.queues = [q] → q.slot = none → q.pend = true → 1 ≤ (s.fw.contexts.at' q.ctx).quota →
          ∃ t, exec i s = .next t ∧
            t.queue? q.qid = some { q with slot := some 0, pend := false, mappedAt := s.clk } ∧ q.qid ∉ t.fw.kickmap) ∧
        (∀ a b : Queue, s.queues = [a, b] → a.qid ≠ b.qid → a.qcb + 256 ≤ b.qcb ∨ b.qcb + 256 ≤ a.qcb →
          a.slot.isSome = true → a.ctx < 16 → a.subseen ≠ a.consumed → b.slot = none → b.pend = true → b.ctx = a.ctx →
          (s.fw.contexts.at' a.ctx).quota = 1 →
          (periodic = false ∨ s.headPrio b < s.headPrio a → exec i s = .next noted) ∧
          (periodic = true → s.headPrio a ≤ s.headPrio b → ∃ t, exec i s = .next t ∧
            t.queue? a.qid = some { a with slot := none, pend := true } ∧
            readBytes t.mem a.qcb 256 = { a with slot := none, pend := true }.qcbBytes ∧
            t.queue? b.qid = some { b with slot := a.slot, pend := false, mappedAt := s.clk } ∧ b.qid ∉ t.fw.kickmap))))

/-- R393, R420, R421, R423: the oldest event goes to its place in the ring with the next number, and vector 0 is raised,
while the host has room for it; EVCONS keeps what is written; a posted write reaches device memory or the page of BAR0
that it names, the mailbox and the MSI-X table among them; a write that the device ignores changes nothing, and an unsupported
request nothing but its count. A read of BAR0 returns the mirror, the mailbox's buffers and registers, or zeros. The model's
choices: a poisoned write to BAR0 gives the device free bytes (log entry 68), a write into the response buffer is stored, and a
mirror read returns the last status write (log entry 36). -/
def Obligations.HostLinkResults : Prop :=
  ∀ (s : State), s.Inv →
    (s.mgmt.events = [] ∨ s.mgmt.evring = none → exec .eventWrite s = .next s) ∧
    (∀ e rest pa elog, s.mgmt.events = e :: rest → s.mgmt.evring = some (pa, elog) →
      let n := s.mgmt.evcount + 1
      let as := (List.range (8 + e.length)).map (fun i => hostBase + pa + 64 * (n % 2 ^ elog) + i)
      (s.mgmt.evcons + 2 ^ elog < n → exec .eventWrite s = .next s) ∧
      (n ≤ s.mgmt.evcons + 2 ^ elog → ∃ t, exec .eventWrite s = .next t ∧
        t = { s with mem := t.mem, poison := t.poison, watched := t.watched, mgmt := { s.mgmt with
          events := rest, evcount := n, msix := s.mgmt.msix ++ [0] } } ∧
        SameMemBut s t as ∧ Stands t as (leBytes 8 n ++ e))) ∧
    (∀ v, OnlyMgmt (.evcons v) s { s.mgmt with evcons := v }) ∧
    (∀ off data, exec (.registerWriteIgnored off data) s = .next s) ∧
    (∀ kind, OnlyMgmt (.unsupportedRequest kind) s { s.mgmt with urs := s.mgmt.urs + 1 }) ∧
    (∀ (addr : Nat) (data : List (BitVec 8)) (bad : Bool),
      let post := exec (.hostPostedWrite false addr data bad) s
      let bar := exec (.hostPostedWrite true addr data bad) s
      let as := (List.range data.length).map (fun i => addr + i)
      (512 < data.length → post = .next s ∧ bar = .next s) ∧
      (2 ^ 39 < addr + data.length → post = .next s) ∧
      (data.length ≤ 512 → addr + data.length ≤ 2 ^ 39 → ∃ t, post = .next t ∧
        t = { s with mem := t.mem, poison := t.poison, watched := t.watched } ∧ SameMemBut s t as ∧ Stands t as data ∧
        (∀ a, a ∈ as → bad = true → t.poisoned a = true)) ∧
      (bad = true → ∃ ds, ds.length = data.length ∧ bar = exec (.hostPostedWrite true addr ds false) s) ∧
      (bad = false → data.length = 8 → addr < 0x10000000 → addr % 0x1000 = 0 → bar = exec (.kick (addr / 0x1000) (leNat data)) s) ∧
      (bad = false → data.length = 8 → addr = 0x10401000 → s.mgmt.bell = none → leNat data = s.mgmt.belldone + 1 →
        bar = .next { s with mgmt := { s.mgmt with bell := some (leNat data) } }) ∧
      (bad = false → data.length = 8 → addr = 0x10401018 → bar = exec (.evcons (leNat data)) s) ∧
      (bad = false → data.length ≤ 512 → 0x10400000 ≤ addr → addr + data.length ≤ 0x10401000 → ∃ t, bar = .next t ∧
        t = { s with mem := t.mem, poison := t.poison, watched := t.watched } ∧
        (let bs := (List.range data.length).map (fun i => mailboxBase + (addr - 0x10400000) + i)
         SameMemBut s t bs ∧ Stands t bs data)) ∧
      (bad = false → data.length ≤ 512 → 0x10410000 ≤ addr → addr + data.length ≤ 0x10418100 → ∃ t, bar = .next t ∧
        t = { s with mem := t.mem, poison := t.poison, watched := t.watched } ∧
        (let bs := (List.range data.length).map (fun i => msixBase + (addr - 0x10410000) + i)
         SameMemBut s t bs ∧ Stands t bs data)) ∧
      (let one := data.length = 8
       let ignored := (addr < 0x10000000 ∧ ¬ (one ∧ addr % 0x1000 = 0)) ∨ (0x10000000 ≤ addr ∧ addr < 0x10400000) ∨
         (0x10401000 ≤ addr ∧ addr < 0x10410000 ∧ ¬ (one ∧ (addr = 0x10401000 ∨ addr = 0x10401018))) ∨
         (addr = 0x10401000 ∧ (s.mgmt.bell ≠ none ∨ leNat data ≠ s.mgmt.belldone + 1)) ∨ 0x10418100 ≤ addr
       bad = false → ignored → bar = .next s)) ∧
    (∀ off n, off + n ≤ 0x10000000 ∨ 0x10418100 ≤ off → s.barRead off n = List.replicate n 0) ∧
    (∀ qid k, qid < 65536 → k < 8 →
      (∀ q, s.getQueue qid = some q → q.mirror.length = 64 →
        s.barRead (0x10000000 + 64 * qid + 8 * k) 8 = (q.mirror.drop (8 * k)).take 8) ∧
      (s.getQueue qid = none → s.barRead (0x10000000 + 64 * qid + 8 * k) 8 = List.replicate 8 0)) ∧
    (∀ off, off < 0x1000 → s.barRead (0x10400000 + off) 1 = [readByte s.mem (mailboxBase + off)]) ∧
    s.barRead 0x10401008 8 = leBytes 8 s.mgmt.belldone ∧
    s.barRead 0x10401010 8 = leBytes 8 (if s.mgmt.ready then 1 else 0) ∧
    s.barRead 0x10401018 8 = leBytes 8 s.mgmt.evcons

/-- R349-R351, R359, R364, R409, R410: a selection reads the head of the one ready queue and commits it, stops a queue whose
record cannot be read or is not the next one, takes a saved task back, or decides for a victim how it is pre-empted. The
audit of a queue writes a changed status record again and puts an unsound queue into RESYNC. The model's readings: a head that
cannot be read or has another SEQ is selected whatever clusters are free (log entry 37), a cluster is free until one is bound to
it (log entry 67), and completions past the window of DONE count in the audit (log entry 66). -/
def Obligations.SelectionResults : Prop :=
  ∀ (s : State), s.Inv →
    ((∀ q, q ∈ s.queues → q.slot = none ∨ q.subseen ≤ q.consumed) → s.resumeList = [] → exec .selection s = .next s) ∧
    (∀ (q : Queue) (k : Nat), s.fw.queues = [q] → q.slot = some k → k < 64 → s.headReady q = true → s.resumeList = [] →
      let n := q.consumed + 1
      let stops := fun (code : Nat) => ∀ as, s.firmReach q.ctx .store q.stva 64 = .ok as →
        (∀ a, a ∈ as → a < hostBase ∨ windowBase ≤ a) → ∃ t, exec .selection s = .next t ∧ t.fw.selected = s.fw.selected ∧
          t.cores = s.cores ∧ t.fw.winner = k ∧ ∃ q1, WroteStatus t q1 as ∧ q1.errstop = true ∧ q1.errcode = code ∧
            q1.errseq = n ∧ q1.consumed = q.consumed ∧ q1.subseen = q.subseen ∧ q1.hready = s.clk
      (s.readHead q = .bad → stops 0x26) ∧
      (∀ b, s.readHead q = .got b →
        let p := basePrio (fieldAt b 30 1 % 16) q.pbias
        let s1 := { s with fw := { s.fw with winner := k, selected := s.fw.selected ++ [Selected.launch q.qid n p b] } }
        (fieldAt b 0 8 ≠ n → stops 0x23) ∧
        (fieldAt b 0 8 = n → (s.slotCand q).fits = true → ∀ as, s1.firmReach q.ctx .store q.stva 64 = .ok as →
          (∀ a, a ∈ as → a < hostBase ∨ windowBase ≤ a) → ∃ t, exec .selection s = .next t ∧
            t.fw.selected = s1.fw.selected ∧ t.fw.winner = k ∧ t.cores = s.cores ∧ ∃ q1, WroteStatus t q1 as ∧
              q1.consumed = n ∧ q1.nrun = q.nrun + 1 ∧ q1.head = b ∧ q1.hready = s.clk ∧ q1.errstop = q.errstop ∧
              q1.subseen = q.subseen ∧ q1.completed = q.completed) ∧
        (∀ v, fieldAt b 0 8 = n → s.bindError q.ctx b = none → s.fw.tasks = [v] → v.stage = .running → v.ctx = q.ctx →
          q.ctx < 16 → v.prio < s.headPrio q → recTokens b ≠ 0 →
          let ok := s.suited q.ctx (recPpc b)
          let free := ok.filter (fun cl => !s.taken cl)
          let serves := fun (cls : List Nat) =>
            s.serves (ok.filter (fun cl => cls.contains cl)) (recCl b) (s.recSigs q.ctx b) []
          let e := s.estimate v
          let short := e ≤ 2 ^ (24 - 2 * recTokens b)
          let saves := s.ckptOk v = true ∧ 5800 + 20 * (v.nclus * v.ppc) ≤ e
          (s.slotCand q).fits = false → serves free = false → serves (free ++ v.clusters) = true →
          (short ∨ (¬ saves ∧ v.killOk = false) → OnlyStage .selection s v (.draining s.clk)) ∧
          (¬ short → saves → OnlyStage .selection s v (.decided none)) ∧
          (¬ short → ¬ saves → v.killOk = true → OnlyStage .selection s v (.decided (some 0x30)))))) ∧
    (∀ x since, s.fw.queues = [] → s.resumeList = [(x, since)] → (s.savedCand (x, since)).fits = true →
      exec .selection s = .next { s with fw := { s.fw with winner := 64 + x.saveNo, selected := s.fw.selected ++ [.saved x.id] } }) ∧
    (s.clk % 2 ^ 20 ≠ 0 → ∀ qid, exec (.queueAudit qid) s = .next s) ∧
    (s.clk % 2 ^ 20 = 0 → ∀ (q : Queue) (as : List Nat), s.getQueue q.qid = some q →
      (∀ i, i < 256 → s.poisoned (q.qcb + i) = false) → s.firmReach q.ctx .store q.stva 64 = .ok as →
      s.firmReach q.ctx .load q.stva 64 = .ok as → (∀ a, a ∈ as → a < hostBase ∨ windowBase ≤ a) →
      let n := popCount 64 q.done.toNat + q.beyond.length
      let sound := q.completed ≤ q.consumed ∧ q.consumed ≤ q.subseen ∧ q.nrun + n = q.consumed - q.completed ∧
        ∀ i, i < 64 → q.done.getLsbD i = true → i < q.nrun + n
      let kept := as.map (readByte s.mem) = q.mirror
      (¬ sound → ∃ t, exec (.queueAudit q.qid) s = .next t ∧ WroteStatus t { q with resync := true } as ∧
        ∃ l, t.mgmt.msix = l ++ [q.msix]) ∧
      (sound → q.wseq = 0 ∨ kept → exec (.queueAudit q.qid) s = .next s) ∧
      (sound → q.wseq ≠ 0 → ¬ kept → q.stWait = none → ∃ t, exec (.queueAudit q.qid) s = .next t ∧ WroteStatus t q as)) ∧
    (s.clk % 2 ^ 20 = 0 → ∀ (q : Queue) (i seq prio : Nat) (head : List (BitVec 8)), s.getQueue q.qid = some q →
      q.slot.isSome = true → i < 256 → s.poisoned (q.qcb + i) = true → (∀ x, x ∈ s.fw.tasks → x.qid ≠ q.qid) →
      s.fw.selected = [Selected.launch q.qid seq prio head] → ∃ t q1, exec (.queueAudit q.qid) s = .next t ∧
        t.fw.selected = [] ∧ t.cores = s.cores ∧ t.queue? q.qid = some q1 ∧ q1.resync = true)

/-- R352-R356, R363, R368: a launch that fails a check completes with its code; any other takes clusters and slots that
R353 allows, their tiles and pools zero if another context held them, and its cores start at ENTRY with their vcore, the
core count, ARGVA and their tile in s1-s4. Peers start together, an exited core reports once its work is done, and the
launch completes when every core has. The model's choices: the strips of a bound cluster keep program, constants and table (log
entry 46), and completions beyond the 64 that DONE shows are kept apart (log entry 66). -/
def Obligations.LaunchResults : Prop :=
  (∀ (s : State) (qid seq prio : Nat) (head : List (BitVec 8)) (rest : List Selected) (q : Queue) (place : List Nat),
    s.Inv → s.fw.selected = .launch qid seq prio head :: rest → s.getQueue qid = some q →
    (∀ code, s.bindError q.ctx head = some code → ∃ t,
      exec (.bind place) s = .next t ∧ Finishes { s with fw := { s.fw with selected := rest } } t qid seq head (some code)) ∧
    (s.bindError q.ctx head = none → ∃ o k, s.kernelOf q.ctx head = some (o, k) ∧
      let kern := kernAt o.bytes k
      let sigs := kernSigs o.bytes kern
      let cl := recCl head
      let ppc := recPpc head
      let ch := splitChoice ppc cl place
      let alone := fieldAt head 44 4 == 0
      (s.choiceOk q.ctx cl ppc sigs [] ch = false → exec (.bind place) s = .next s) ∧
      (s.choiceOk q.ctx cl ppc sigs [] ch = true → ∃ t x, exec (.bind place) s = .next t ∧
        t.fw.tasks = s.fw.tasks ++ [x] ∧ t.fw.selected = rest ∧ t.fw.nextTask = s.fw.nextTask + 1 ∧
        x.id = s.fw.nextTask ∧ x.ctx = q.ctx ∧ x.qid = qid ∧ x.lseq = seq ∧ x.launch = head ∧ x.prio = prio ∧
        x.clusters = ch.map (fun p => p.1) ∧ x.slots = ch.map (fun p => p.2) ∧ x.set = s.fw.contexts.at' q.ctx ∧
        x.late = 0 ∧ x.boundAt = s.clk ∧ x.stage = (if alone then .running else .peers) ∧
        (∀ i, i < s.cores.length → t.core? i = s.core? i) ∧ t.cores.length = s.cores.length + cl * ppc ∧
        (∀ v, v < cl * ppc → ∃ c, t.core? (s.cores.length + v) = some c ∧ c.task = x.id ∧ c.vcore = v ∧
          c.started = alone ∧ c.exited = false ∧ c.trapped = none ∧ c.dm = RegFile.tab 2 (fun i =>
            if (BitVec.ofNat 4 (fieldAt head 42 1)).getLsbD i then 0x10000 else 0) ∧
          c.s.read 1 = BitVec.ofNat 64 v ∧ c.s.read 2 = BitVec.ofNat 64 (cl * ppc) ∧
          c.s.read 3 = BitVec.ofNat 64 (fieldAt head 16 8) ∧
          c.s.read 4 = BitVec.ofNat 64 (v % ppc * Config.tileBytes) ∧ c.sown = 0 ∧ c.slipw = 256 ∧
          (∀ r : BitVec 5, 5 ≤ r.toNat → c.s.read r = 0) ∧ (∀ a, c.acc.read a = Acc.zero) ∧
          ∀ e, (c.strand e).pc = BitVec.ofNat 52 (kernEntry o.bytes kern) ∧ (c.strand e).dwc = 0 ∧
            (c.strand e).cfok = 0 ∧ (c.strand e).exited = false) ∧
        (∀ i a, i ∈ x.clusters → windowBase + i * 2 ^ 26 ≤ a → a < windowBase + i * 2 ^ 26 + 0x3000000 →
          t.poisoned a = false ∧
          ((s.clusters.at' i).lastCtx ≠ some q.ctx → readByte t.mem a = readByte [] a)) ∧
        (∀ i j, i ∈ x.clusters → j < 16 →
          let y := (t.clusters.at' i).strips.at' j
          let z := (s.clusters.at' i).strips.at' j
          y.prog = z.prog ∧ y.c0 = z.c0 ∧ y.c1 = z.c1 ∧ y.table = z.table) ∧
        ∀ a, (∀ i, i ∈ x.clusters → a < windowBase + i * 2 ^ 26 ∨ windowBase + i * 2 ^ 26 + 0x3000000 ≤ a) →
          readByte t.mem a = readByte s.mem a))) ∧
  (∀ (s : State) (job : Nat), ∃ t, exec (.peerJobStart job) s = .next t ∧ t = { s with cores := t.cores, fw := t.fw } ∧
    let mine := fun (x : Task) => x.stage == .peers && fieldAt x.launch 44 4 == job
    t.fw = { s.fw with tasks := t.fw.tasks } ∧ t.fw.tasks.length = s.fw.tasks.length ∧
    (∀ x, x ∈ s.fw.tasks → mine x = true → { x with stage := .running } ∈ t.fw.tasks) ∧
    (∀ x, x ∈ s.fw.tasks → (∀ y, y ∈ s.fw.tasks → mine y = true → y.id ≠ x.id) → x ∈ t.fw.tasks) ∧
    ∀ ci c, s.core? ci = some c →
      ((∃ x, x ∈ s.fw.tasks ∧ mine x = true ∧ x.id = c.task) → t.core? ci = some { c with started := true }) ∧
      ((∀ x, x ∈ s.fw.tasks → mine x = true → x.id ≠ c.task) → t.core? ci = some c)) ∧
  (∀ (s : State) (ci : Nat) (c : Core), s.core? ci = some c →
    let ended := c.exited = true ∧ c.trapped = none ∧
      (∀ k, k < 4 → (c.chans.at' k).queue = [] ∧ (c.chans.at' k).ending = []) ∧
      (∀ r, r ∈ s.reqs → (c.task, c.vcore) ∉ r.cores) ∧ ∀ r, r ∈ s.lists → r.core ≠ (c.task, c.vcore)
    (ended → ∃ t, exec (.shareReport ci) s = .next t ∧ OnlyCore s t ci { c with shared := true }) ∧
    (¬ended → exec (.shareReport ci) s = .next s)) ∧
  (∀ (s : State) (x : Task), s.task? x.id = some x →
    let mine := s.cores.filter (fun c => c.task == x.id)
    let ended := mine ≠ [] ∧ ∀ c, c ∈ mine → c.shared = true ∧ c.freeze = false
    (¬ended → exec (.launchComplete x.id) s = .next s) ∧
    (ended → ∃ t u, exec (.launchComplete x.id) s = .next t ∧ Released s u x ∧ u.cores = s.cores.filter (fun c => c.task != x.id) ∧
      Finishes u t x.qid x.lseq x.launch (if mine.any (fun c => c.killed) then some 0x31 else none))) ∧
  (∀ (q : Queue) (seq : Nat) (err : Option Nat), q.completed < seq →
    let r := q.complete seq err
    r.nrun = q.nrun - 1 ∧ q.completed ≤ r.completed ∧ r.done.getLsbD 0 = false ∧ r.consumed = q.consumed ∧
    (∀ n, r.has n ∨ n ∈ r.beyond ↔ n = seq ∨ q.has n ∨ n ∈ q.beyond) ∧ (∀ n, n ∈ r.beyond → r.completed + 64 < n) ∧
    (∀ code, err = some code → r.errseq = seq ∧ r.errcode = code) ∧
    (err = none → r.errseq = q.errseq ∧ r.errcode = q.errcode))

/-- R360-R364, R396-R401: a drain that reaches its stop point and a checkpoint freeze the victim, a drain past its limit is
decided again, a kill ends the task. A save that completes frees the clusters and keeps the cores; one that cannot be
written reports where and is aborted. A selected saved task takes clusters that R353 allows, and a restore whose image
passes its checks puts tiles, pools, window registers, other registers and strands back; a refused one ends the launch. The
model's choices: what a save keeps beside its image (log entry 23), and that a checkpoint which is no longer allowed is decided
again and that a restore whose MAGIC cannot be written is refused with reason 4 (log entry 80). -/
def Obligations.PreemptionResults : Prop :=
  ∀ (s : State) (x : Task), s.Inv → s.task? x.id = some x → x.clusters.Nodup → (∀ cl, cl ∈ x.clusters → cl < 64) →
    let mine := s.cores.filter (fun c => c.task == x.id)
    let still := ∀ c, c ∈ mine → ∀ k, k < 4 → (c.chans.at' k).empty = true
    let part := clusterPart x.ppc + x.ppc * 622592
    (x.stage = .stopping → still → FreezesTask (.drainStopPoint x.id) s x) ∧
    (x.stage ≠ .stopping ∨ ¬ still → exec (.drainStopPoint x.id) s = .next s) ∧
    (x.stage = .decided none → s.ckptOk x = true → FreezesTask (.checkpoint x.id) s x) ∧
    (x.stage = .decided none → s.ckptOk x = false → x.killOk = true →
      OnlyStage (.checkpoint x.id) s x (.decided (some 0x30))) ∧
    (x.stage = .decided none → s.ckptOk x = false → x.killOk = false → ∃ t, exec (.checkpoint x.id) s = .next t ∧
      t = { s with cores := t.cores, fw := t.fw } ∧ t.task? x.id = some { x with stage := .draining s.clk } ∧
      ∀ ci c, s.core? ci = some c → ∃ d, t.core? ci = some d ∧ (c.task ≠ x.id ∨ c.freeze = false → d = c) ∧
        (c.task = x.id → c.freeze = true → d.freeze = false ∧ d.s = c.s ∧ d.trapped = c.trapped ∧
          ∀ e, (d.strand e).pc = (c.strand e).pc ∧ (d.strand e).rsn = (c.strand e).rsn)) ∧
    (x.stage ≠ .decided none → exec (.checkpoint x.id) s = .next s) ∧
    (∀ since, x.stage = .draining since →
      (s.clk < since + x.set.drlim → exec (.drainLimitExpiry x.id) s = .next s) ∧
      (since + x.set.drlim ≤ s.clk →
        (s.ckptOk x = true → OnlyStage (.drainLimitExpiry x.id) s x (.decided none)) ∧
        (s.ckptOk x = false → x.killOk = true → OnlyStage (.drainLimitExpiry x.id) s x (.decided (some 0x30))) ∧
        (s.ckptOk x = false → x.killOk = false → exec (.drainLimitExpiry x.id) s = .next s))) ∧
    (∀ code, x.stage = .decided (some code) ∨ x.stage = .frozen (some code) →
      ∃ t, exec (.kill x.id) s = .next t ∧ Ends s t x code) ∧
    ((∀ code, x.stage ≠ .decided (some code) ∧ x.stage ≠ .frozen (some code)) → exec (.kill x.id) s = .next s) ∧
    (x.stage ≠ .frozen none ∨ s.taskBusy x.id = true → exec (.contextSave x.id) s = .next s) ∧
    (x.stage = .frozen none → s.taskBusy x.id = false →
      let aborts := fun (typ arg : Nat) => ∃ t, exec (.contextSave x.id) s = .next t ∧
        t = { s with fw := t.fw, mgmt := s.mgmt.withEvent (x.note typ 0xFFFFFFFF arg 0) } ∧
        t.task? x.id = some { x with stage := .aborted }
      (x.area.2 < 4 → aborts 0x81 0) ∧
      (4 ≤ x.area.2 → s.saveReach x.ctx (x.area.1 % 2 ^ 52) = none → aborts 0x80 (x.area.1 % 2 ^ 52)) ∧
      (∀ s1, s.writeImage x = (s1, none) → ∃ t y, exec (.contextSave x.id) s = .next t ∧
        t.mem = s1.mem ∧ t.poison = s1.poison ∧ t.cores = s.cores.filter (fun c => c.task != x.id) ∧
        t.fw.tasks = s.fw.tasks.filter (fun z => z.id != x.id) ++ [y] ∧ y.id = x.id ∧ y.stage = .saved s.clk ∧
        y.clusters = [] ∧ y.savedCores = mine.map (fun c => { c.landAll with pins := [] }) ∧ y.saveNo = s.fw.saves ∧
        t.fw.saves = s.fw.saves + 1 ∧ y.launch = x.launch ∧ y.lasts = x.lasts ∧ y.late = x.late ∧
        (∀ cl, cl ∈ x.clusters → (t.clusters.at' cl).closed = false ∧ (t.clusters.at' cl).lastCtx = some x.ctx) ∧
        t.mgmt = s.mgmt ∧ t.fw.queues = s.fw.queues)) ∧
    (∀ place : List Nat,
      let ch := splitChoice x.ppc x.nclus place
      let ok := .saved x.id ∈ s.fw.selected ∧ s.choiceOk x.ctx x.nclus x.ppc [] x.lasts ch = true
      (¬ ok → exec (.resumeBind x.id place) s = .next s) ∧
      (ok → ∃ t, exec (.resumeBind x.id place) s = .next t ∧ t.cores = s.cores ∧ .saved x.id ∉ t.fw.selected ∧
        t.task? x.id = some { x with
          stage := .loading, clusters := ch.map (fun p => p.1), slots := ch.map (fun p => p.2), boundAt := s.clk,
          set := s.fw.contexts.at' x.ctx })) ∧
    (x.stage ≠ .loading → exec (.restore x.id) s = .next s) ∧
    (x.stage = .loading →
      let refused := fun (reason : Nat) => ∃ t u, exec (.restore x.id) s = .next t ∧ Released s u x ∧
        u.mgmt = s.mgmt.withEvent (x.note 0x82 0xFFFFFFFF reason 0) ∧ Finishes u t x.qid x.lseq x.launch (some 0x31)
      (∀ reason, s.readImage x = .error reason → refused reason) ∧
      (∀ body, s.readImage x = .ok body → s.saveReach x.ctx x.area.1 = none → refused 4) ∧
      (∀ body pa, s.readImage x = .ok body → s.saveReach x.ctx x.area.1 = some pa → x.ppc ≤ 64 → x.clusters.length = x.nclus →
        ∃ t, exec (.restore x.id) s = .next t ∧ t.task? x.id = some { x with stage := .running, savedCores := [], savedWelt := [] } ∧
          t.cores.length = s.cores.length + x.savedCores.length ∧ (∀ i, i < s.cores.length → t.core? i = s.core? i) ∧
          (∀ i c, x.savedCores[i]? = some c → ∃ d, t.core? (s.cores.length + i) = some d ∧ d.task = c.task ∧ d.vcore = c.vcore ∧
            (let at' := part * (c.vcore / x.ppc) + clusterPart x.ppc + 622592 * (c.vcore % x.ppc)
             let b := fun (o n : Nat) => fieldAt (plain body) (at' + o) n
             (∀ e, (d.strand e).pc = BitVec.ofNat 52 (b (598016 + 64 + 256 * e.tag) 8) ∧
               (d.strand e).dwc = BitVec.ofNat 64 (b (598016 + 64 + 256 * e.tag + 16) 8)) ∧
             (∀ r : BitVec 5, r ≠ 0 → d.s.read r = BitVec.ofNat 64 (b (598016 + 2560 + 8 * r.toNat) 8)) ∧
             (∀ i, i < 16 → let w := d.w.at' i
               let word := b (598016 + 2888 + 16 * i) 8
               w.base = BitVec.ofNat 26 (b (598016 + 2880 + 16 * i) 8) ∧ w.stride = BitVec.ofNat 24 word ∧
               w.colsm1 = BitVec.ofNat 12 (word / 2 ^ 32) ∧ w.rowsm1 = BitVec.ofNat 12 (word / 2 ^ 44) ∧
               w.ty = BitVec.ofNat 4 (word / 2 ^ 60)) ∧
             (∀ r j, r < 32 → j < 64 → (d.v.at' r).at' j = BitVec.ofNat 32 (b (589824 + 256 * r + 4 * j) 4)) ∧
             ∀ r i j, r < 4 → i < 64 → j < 64 →
               (d.acc.at' r).el i j = b (524288 + 16384 * r + 4 * (64 * i + j)) 4) ∧
            (let cause := fieldAt (plain body) (part * (c.vcore / x.ppc) + clusterPart x.ppc + 622592 * (c.vcore % x.ppc) + 598016) 1
             (cause = 0 → (∀ p, p ∈ body → p.2 = false) → d.trapped = none ∧ d.freeze = false) ∧
             (cause ≠ 0 → ∃ hd, d.trapped = some hd ∧ hd.info.cause.toNat = cause ∧ d.raised = false ∧ d.record = none))) ∧
          ∀ k cl, x.clusters[k]? = some cl → (∀ i, i < Config.poolBytes →
            readByte t.mem (windowBase + cl * 2 ^ 26 + 0x2000000 + i) = (plain body).getD (part * k + i) 0) ∧
            ∀ j i, j < x.ppc → i < Config.tileBytes → readByte t.mem (windowBase + cl * 2 ^ 26 + j * Config.tileBytes + i) =
              (plain body).getD (part * k + clusterPart x.ppc + 622592 * j + i) 0))

/-- R389, R391-R395, R400, R404, R424: a recorded trap stands in memory with its cause and the PCs of the strands, and is
raised unless the firmware resolves it itself. CONTINUE resumes the core from its record, KILLCORE kills it, ENDTASK ends
its task, SAVEACK lets a task whose save aborted go on or ends it, CORESTATE copies the state of a frozen core once nothing of
it is on its way. Core state that cannot be corrected traps POISON and cannot be continued. The model's readings: RECPA 0 reads
the record where the event said it is, a command before the trap is raised gives DETAIL 4, and ENDTASK needs a halted core or a
save (log entry 39); which address a record takes (log entry 21), and the error count of the unit whose state is lost (log
entry 51). -/
def Obligations.TrapActionResults : Prop :=
  (∀ (s : State) (ci pa : Nat) (c : Core) (x : Task), s.Inv → s.core? ci = some c → s.task? c.task = some x →
    let ready := c.trapped ≠ none ∧ c.record = none ∧ c.killed = false ∧ s.coreBusy c = false ∧ x.stage.saving = false ∧
      pa + 2560 ≤ 2 ^ 39
    (¬ ready → exec (.coreFreezeRecord ci pa) s = .next s) ∧
    (∀ hd, c.trapped = some hd → ready → c.Recordable → ∃ t d, exec (.coreFreezeRecord ci pa) s = .next t ∧
      t = { s with cores := t.cores, mem := t.mem, poison := t.poison, watched := t.watched, mgmt := t.mgmt } ∧
      SameMemBut s t ((List.range 2560).map (fun i => pa + i)) ∧
      (let f := fun (o n : Nat) => readNat t.mem (pa + o) n
       f 0 1 = hd.info.cause.toNat ∧ f 1 1 = hd.srcByte % 256 ∧ f 4 4 = hd.info.detail.toNat ∧ f 8 8 = hd.clk % 2 ^ 64 ∧
       f 16 8 = hd.info.addr % 2 ^ 64 ∧ f 24 4 = c.vcore % 2 ^ 32 ∧
       ∀ e, f (64 + 256 * e.tag) 8 = (c.strand e).pc.toNat ∧ f (72 + 256 * e.tag) 8 = (c.strand e).rsn.toNat ∧
         f (88 + 256 * e.tag) 1 = ((c.strand e).trap.map (fun y => y.cause.toNat)).getD 0) ∧
      t.core? ci = some d ∧ (∀ j, j ≠ ci → t.core? j = s.core? j) ∧
      (let own := s.mgmt.fnmode.getLsbD 0 = false ∧ c.cowFaults.isSome = true
       (own → d = { c with record := some pa } ∧ t.mgmt = s.mgmt) ∧
       (¬ own → d = { c with record := some pa, raised := true } ∧
         ∃ n, t.mgmt = s.mgmt.withEvent n ∧ n.ctx = x.ctx ∧ n.vcore = c.vcore ∧ n.qid = x.qid ∧ n.lseq = x.lseq ∧
           (s.mgmt.fnmode.getLsbD 0 = false → n.typ = 1 ∧ n.arg0 = pa ∧ n.arg1 = hd.info.cause.toNat + 256 * hd.srcByte))))) ∧
  (∀ (s : State) (ci k : Nat) (c : Core), s.core? ci = some c →
    let e : Eng := if k % 3 = 0 then .a else if k % 3 = 1 then .m else .v
    (c.killed = true ∨ c.exited = true → exec (.uncorrectableCoreState ci k) s = .next s) ∧
    (c.killed = false → c.exited = false → ∃ t d hd, exec (.uncorrectableCoreState ci k) s = .next t ∧
      OnlyCore (s.reachUnit 1 (s.slotUnitOf c)) t ci d ∧
      (d.strand e).trap = some (poisonTrap 3 0) ∧ d.trapped = some hd ∧ hd.noResume = true ∧
      (c.trapped = none → hd.info = poisonTrap 3 0 ∧ hd.src = e.tag ∧ hd.clk = s.clk) ∧
      ∀ old, c.trapped = some old → hd = { old.join (headOf (poisonTrap 3 0) e.tag s.clk) with noResume := true } ∧
        (old.clk ≠ s.clk → hd.info = old.info ∧ hd.src = old.src))) ∧
  (∀ (s : State) (n : Nat), s.Inv → Rung s n 6 32 →
    let who := s.trappedCore (s.arg 0 4) (s.arg 4 1) (s.arg 6 2) (s.arg 8 8)
    let task := s.namedTask (s.arg 4 1) (s.arg 6 2) (s.arg 8 8)
    let recPA := s.arg 16 8
    let stPA := s.arg 24 8
    (∀ k, who = .error k →
      (s.arg 5 1 ≠ 1 → s.arg 5 1 ≠ 2 → CommandRefused .continue s n k) ∧ (s.arg 5 1 = 1 → CommandRefused .killcore s n k)) ∧
    (∀ x ci c, who = .ok (x, ci, c) → s.arg 5 1 = 0 → recPA + 2560 ≤ 2 ^ 39 → stPA + 24576 ≤ 2 ^ 39 →
      let b := readBytes s.mem (if recPA = 0 then c.record.getD 0 else recPA) 2560
      let regs := readBytes s.mem stPA 24576
      let stuck := ∃ hd, c.trapped = some hd ∧ hd.noResume = true
      (stuck → CommandRefused .continue s n 4) ∧
      (¬ stuck → recordOk s c b = false ∨ (stPA ≠ 0 ∧ blockOk regs = false) → CommandRefused .continue s n 5) ∧
      (¬ stuck → recordOk s c b = true → stPA = 0 ∨ blockOk regs = true → CommandDone .continue s n [] (fun t => ∃ d,
        OnlyCore s t ci d ∧ d.trapped = none ∧ d.record = none ∧ d.raised = false ∧
        (s.stageOf c = some .running → c.killed = false → c.started = true → d.halted = false ∧ d.stopped = false) ∧
        (∀ e, (d.strand e).pc = BitVec.ofNat 52 (fieldAt b (64 + 256 * e.tag) 8) ∧
          (d.strand e).rsn = BitVec.ofNat 64 (fieldAt b (72 + 256 * e.tag) 8) ∧ (d.strand e).trap = none ∧
          (d.strand e).wait = .none) ∧
        (∀ k : BitVec 3, k.toNat < 6 → d.tokens.read k = BitVec.ofNat 4 (fieldAt b 832 4 / 16 ^ k.toNat)) ∧
        (stPA = 0 → d.s = c.s ∧ d.w = c.w ∧ d.tls = c.tls) ∧
        (stPA ≠ 0 → (∀ r : BitVec 5, r ≠ 0 → d.s.read r = BitVec.ofNat 64 (fieldAt regs (2560 + 8 * r.toNat) 8)) ∧
          d.estim = BitVec.ofNat 64 (fieldAt regs 3304 8) ∧
          (∀ i, i < 4 → (d.acc.at' i).tag = (fieldAt regs 3312 1).testBit i ∧
            (d.acc.at' i).psn = (fieldAt regs 3312 1).testBit (i + 4)) ∧
          (∀ l, l < 3 → (d.dmNext.at' l).isSome = (fieldAt regs (3320 + 8 * l) 8).testBit 63) ∧
          (∀ l, l < 5 → ((d.bars.at' l).done < (d.bars.at' l).made ↔ (fieldAt regs (3344 + 8 * l) 8).testBit 63 = true)) ∧
          (∀ g, g < 4 → (d.scans.at' g).join.isSome = (fieldAt regs (3384 + 8 * g) 8).testBit 63 ∧
            (d.scans.at' g).scg = BitVec.ofNat 64 (fieldAt regs (8224 + 8 * g) 8))) ∧
        d.v = c.v ∧ d.p.read 0 = c.p.read 0 ∧ ∀ a, (d.acc.read a).elems = (c.acc.read a).elems))) ∧
    (∀ x ci c, who = .ok (x, ci, c) → s.arg 5 1 > 2 → CommandRefused .continue s n 5) ∧
    (∀ x ci c, who = .ok (x, ci, c) → s.arg 5 1 = 1 → CommandDone .killcore s n [] (fun t => ∃ d, t.core? ci = some d ∧
      d.killed = true ∧ d.exited = true ∧ d.overlay = [] ∧ d.trapped = none ∧ t.mem = (s.landSent c).mem ∧
      (c.sending (fun _ => true) = false → t.mem = s.mem) ∧
      ∀ k, k < 8 → (d.tls.at' k).comp = (d.tls.at' k).iss)) ∧
    (s.arg 5 1 = 2 → (task = none → CommandRefused .endtask s n 3) ∧
      (∀ x, task = some x → s.task? x.id = some x →
        (x.nclus * x.ppc ≤ s.arg 0 4 → CommandRefused .endtask s n 3) ∧
        (s.arg 0 4 < x.nclus * x.ppc →
          let may := x.stage.saving = true ∨ ∃ c, s.peerCore x.id (s.arg 0 4) = some c ∧ c.halted = true
          (¬ may → CommandRefused .endtask s n 4) ∧
          (may → CommandDone .endtask s n [] (fun t => Ends s t x 0x31)))))) ∧
  (∀ (s : State) (n : Nat), s.Inv → Rung s n 7 32 → s.arg 4 4 = 0 →
    let task := s.namedTask (s.arg 0 1) (s.arg 2 2) (s.arg 8 8)
    let act := s.arg 1 1
    (task = none → CommandRefused .saveack s n 3) ∧
    (∀ x, task = some x → s.task? x.id = some x → (∀ cl, cl ∈ x.clusters → cl < 64) →
      (x.stage ≠ .aborted → CommandRefused .saveack s n 4) ∧
      (x.stage = .aborted →
        (2 < act ∨ (act = 1 ∧ 2 ^ 52 ≤ s.arg 16 8) → CommandRefused .saveack s n 5) ∧
        (act = 2 → CommandDone .saveack s n [] (fun t => Ends s t x 0x31)) ∧
        (act = 0 ∨ (act = 1 ∧ s.arg 16 8 < 2 ^ 52) → CommandDone .saveack s n [] (fun t =>
          t.task? x.id = some { x with
            stage := .draining s.clk, area := if act = 1 then (s.arg 16 8, s.arg 24 8) else x.area } ∧
          (∀ cl, cl ∈ x.clusters → (t.clusters.at' cl).closed = false) ∧
          ∀ ci c, s.core? ci = some c → ∃ d, t.core? ci = some d ∧ (c.task ≠ x.id → d = c) ∧
            (c.task = x.id → c.killed = true → d = { c with freeze := false }) ∧
            (c.task = x.id → c.killed = false → d.freeze = false ∧ d.stopped = false ∧ d.trapped = c.trapped ∧
              ∀ e, (d.strand e).pc = (c.strand e).pc)))))) ∧
  (∀ (s : State) (n : Nat), s.Inv → Rung s n 0x10 24 → s.arg 5 1 = 0 →
    let who := s.namedCore (s.arg 0 4) (s.arg 4 1) (s.arg 6 2) (s.arg 8 8)
    let dst := s.arg 16 8
    (∀ k, who = .error k → CommandRefused .corestate s n k) ∧
    (∀ x ci c, who = .ok (x, ci, c) →
      (c.freeze = false → c.trapped = none → CommandRefused .corestate s n 4) ∧
      (c.freeze = true ∨ c.trapped ≠ none →
        (2 ^ 39 < dst + 24576 → CommandRefused .corestate s n 5) ∧
        (dst + 24576 ≤ 2 ^ 39 → s.coreBusy c = true → exec .corestate s = .next s) ∧
        (dst + 24576 ≤ 2 ^ 39 → s.coreBusy c = false → c.Recordable → CommandDone .corestate s n [] (fun t =>
          t = { s with mem := t.mem, poison := t.poison, watched := t.watched } ∧
          (let as := (List.range 24576).map (fun i => dst + i)
           SameMemBut s t as ∧ Stands t as (stateBlock x c.landAll)) ∧
          (∀ e, readNat t.mem (dst + 64 + 256 * e.tag) 8 = (c.strand e).pc.toNat) ∧
          ∀ r : BitVec 5, r ≠ 0 → readNat t.mem (dst + 2560 + 8 * r.toNat) 8 = (c.s.read r).toNat)))))

/-- R344, R346, R366, R367, R382, R386, R387, R423, R424: an answer stands in the mailbox and ends the command; a command
that is not rung does nothing, a malformed head or payload length is refused with DETAIL 1. The commands for objects,
queues, contexts and the time-share table do what they name, or are refused with the DETAIL of R424. The model's readings:
SET_CONTEXT_DESCRIPTOR invalidates the old ASID itself (log entry 45); where the frames of an object go, and what makes it
malformed (log entries 21 and 61); DETAIL 4 where its tables meet an entry of another kind (log entry 81). -/
def Obligations.MailboxObjectResults : Prop :=
  ∀ (s : State) (n : Nat), s.Inv →
    (∀ (st d tag : Nat) (payload : List (BitVec 8)), payload.length ≤ 2032 →
      let t := s.respond n st d tag payload
      let f := fun (o k : Nat) => readNat t.mem (mailboxBase + 0x800 + o) k
      t = { s with mem := t.mem, poison := t.poison, watched := t.watched, mgmt := { s.mgmt with bell := none, belldone := n } } ∧
      f 0 1 = st % 256 ∧ f 1 1 = d % 256 ∧ f 2 2 = 0 ∧ f 4 4 = payload.length ∧ f 8 8 = tag % 2 ^ 64 ∧
      readBytes t.mem (mailboxBase + 0x810) payload.length = payload ∧
      SameMemBut s t ((List.range (16 + payload.length)).map (fun i => mailboxBase + 0x800 + i))) ∧
    (∀ i code len, (i, code, len) ∈ [(Instr.deregisterObject, 2, 8), (.registerQueue, 3, 32), (.setPbias, 4, 8),
        (.saveack, 7, 32), (.resync, 8, 16), (.qreset, 9, 8), (.fnset, 10, 32), (.attest, 11, 40), (.evring, 12, 16),
        (.mapq, 13, 8), (.setduty, 15, 8), (.corestate, 16, 24)] →
      (s.mgmt.bell = none ∨ readNat s.mem mailboxBase 1 ≠ code → exec i s = .next s) ∧
      (s.mgmt.bell = some n → readNat s.mem mailboxBase 1 = code → s.mgmt.ready = true ∨ code = 11 →
        readNat s.mem (mailboxBase + 1) 3 ≠ 0 ∨ readNat s.mem (mailboxBase + 4) 4 ≠ len → CommandRefused i s n 1)) ∧
    (∀ base, Rung s n 1 32 → s.arg 1 7 = 0 →
      let cno := s.arg 0 1
      let x := s.fw.contexts.at' cno
      let b := readBytes s.mem (hostBase + s.arg 8 8) (s.arg 16 8)
      let l := placeSects b (objSects b) base
      let frames := sectFrames l
      let room := base + 65536 * frames.length
      let inHost := s.arg 8 8 + s.arg 16 8 ≤ 2 ^ 48 ∧ s.arg 24 8 + 4096 ≤ 2 ^ 48
      let usable := base % 65536 = 0 ∧ room + 12288 * frames.length ≤ 2 ^ 39 ∧ ∀ f, f ∈ frames → f.2.2 ∉ s.mgmt.badFrames
      (16 ≤ cno ∨ x.valid = false → CommandRefused (.registerObject base) s n 3) ∧
      (cno < 16 → x.valid = true →
        (¬ inHost → CommandRefused (.registerObject base) s n 5) ∧
        (inHost → (∀ r, objRefusal b (s.objClash cno b) = some r → ∃ u,
            exec (.registerObject base) s = .next (u.respond n 1 6 (readNat s.mem (mailboxBase + 8) 8) []) ∧
            u = s.storeBytes (hostBase + s.arg 24 8) r) ∧
          (objRefusal b (s.objClash cno b) = none → (¬ usable → exec (.registerObject base) s = .next s) ∧
            (usable → ∀ s1, State.loadSects b x.root l [] room s = some s1 →
              CommandDone (.registerObject base) s n (leBytes 4 (s.fw.nextObj % 2 ^ 32)) (fun t => t.mem = s1.mem ∧
                t.fw = { s.fw with
                  objects := s.fw.objects ++ [{ id := s.fw.nextObj % 2 ^ 32, ctx := cno, bytes := b, frames := frames }],
                  nextObj := s.fw.nextObj + 1 })) ∧
            (usable → State.loadSects b x.root l [] room s = none → CommandRefused (.registerObject base) s n 4))))) ∧
    (Rung s n 2 8 → s.arg 4 4 = 0 →
      ((∀ o, o ∈ s.fw.objects → o.id ≠ s.arg 0 4) → CommandRefused .deregisterObject s n 3) ∧
      (∀ o, s.fw.objects.find? (fun o => o.id == s.arg 0 4) = some o →
        let x := s.fw.contexts.at' o.ctx
        let ended := fun (f : Nat × Nat × Nat) => s.inFlight x.asid f.1 (f.1 + 65536) = true
        (s.objUsed o = true → CommandRefused .deregisterObject s n 4) ∧
        (s.objUsed o = false → (∃ f, f ∈ o.frames ∧ ended f) → exec .deregisterObject s = .next s) ∧
        (s.objUsed o = false → (∀ f, f ∈ o.frames → ¬ended f) → CommandDone .deregisterObject s n [] (fun t =>
          t.fw.objects = s.fw.objects.filter (fun y => y.id != o.id) ∧ t.mgmt = s.mgmt ∧
          (∀ f cl u, f ∈ o.frames → cl < 64 → u ∈ (t.clusters.at' cl).tlb → u.inRange x.asid f.1 (f.1 + 65536) = false) ∧
          (∀ f c u, f ∈ o.frames → c ∈ t.cores → u ∈ c.tlb → u.inRange x.asid f.1 (f.1 + 65536) = false) ∧
          ∀ f pa, o.frames = [f] → leafPlace s.mem f.1 4 0 x.root = some pa →
            readNat t.mem pa 8 = 0 ∧ SameMemBut s t ((List.range 8).map (fun i => pa + i)))))) ∧
    (Rung s n 3 32 → s.arg 6 2 = 0 →
      let qid := s.arg 0 2
      let cno := s.arg 2 1
      let ok := 1 ≤ s.arg 3 1 ∧ s.arg 3 1 ≤ 16 ∧ 1 ≤ s.arg 4 2 ∧ s.arg 4 2 ≤ 2047 ∧ s.arg 8 8 < 2 ^ 52 ∧ s.arg 16 8 < 2 ^ 52 ∧
        s.arg 24 8 + 256 ≤ 2 ^ 39
      let busy := ∃ o, s.getQueue qid = some o ∧
        (o.nrun ≠ 0 ∨ s.selectedOf qid = true ∨ ∃ x, x ∈ s.fw.tasks ∧ x.qid = qid)
      let known := cno < 16 ∧ (s.fw.contexts.at' cno).valid = true
      (¬ known → CommandRefused .registerQueue s n 3) ∧ (known → ¬ ok → CommandRefused .registerQueue s n 5) ∧
      (known → ok → busy → CommandRefused .registerQueue s n 4) ∧
      (known → ok → ¬ busy → CommandDone .registerQueue s n [] (fun t => ∃ q, t.queue? qid = some q ∧
        q.ctx = cno ∧ q.rlog = s.arg 3 1 ∧ q.msix = s.arg 4 2 ∧ q.ring = s.arg 8 8 ∧ q.stva = s.arg 16 8 ∧
        q.qcb = s.arg 24 8 ∧ q.slot = none ∧ q.pend = false ∧ q.errstop = false ∧ q.subseen = 0 ∧ q.consumed = 0 ∧
        q.completed = 0 ∧ q.nrun = 0 ∧ q.pbias = 0 ∧ readBytes t.mem q.qcb 256 = q.qcbBytes ∧ qid ∉ t.fw.kickmap ∧
        (∀ o, s.getQueue qid = some o → o.slot.isSome = true → o.qcb + 256 ≤ q.qcb ∨ q.qcb + 256 ≤ o.qcb →
          readBytes t.mem o.qcb 256 = { o with slot := none, pend := false }.qcbBytes) ∧
        ∀ i, i ≠ qid → t.queue? i = s.queue? i))) ∧
    (Rung s n 4 8 → s.arg 3 5 = 0 →
      let v : Int := if s.arg 2 1 < 128 then s.arg 2 1 else (s.arg 2 1 : Int) - 256
      (s.getQueue (s.arg 0 2) = none → CommandRefused .setPbias s n 3) ∧
      (∀ q, s.getQueue (s.arg 0 2) = some q →
        (v < -15 ∨ 15 < v → CommandRefused .setPbias s n 5) ∧
        (-15 ≤ v → v ≤ 15 → CommandDone .setPbias s n [] (fun t => t.queue? q.qid = some { q with pbias := v } ∧
          (q.slot = none → readBytes t.mem q.qcb 256 = { q with pbias := v }.qcbBytes))))) ∧
    (Rung s n 5 136 → s.arg 2 6 = 0 → s.arg 1 1 ≠ 1 →
      let c := s.arg 0 1
      let x := contextOf (readBytes s.mem (mailboxBase + 24) 128)
      let old := s.fw.contexts.at' c
      let held := (∃ k, k ∈ s.fw.tasks ∧ k.ctx = c) ∧ (x.asid ≠ old.asid ∨ x.root ≠ old.root ∨ x.valid = false)
      let clean := s.arg 10 1 / 2 = 0 ∧ s.arg 12 4 = 0 ∧ s.arg 16 8 < 2 ^ 39 ∧
        ∀ i, i < 56 → readByte s.mem (mailboxBase + 96 + i) = 0
      (16 ≤ c → CommandRefused .setContextDescriptor s n 3) ∧
      (c < 16 → 1 < s.arg 1 1 → CommandRefused .setContextDescriptor s n 5) ∧
      (c < 16 → s.arg 1 1 = 0 → ¬ clean → CommandRefused .setContextDescriptor s n 1) ∧
      (c < 16 → s.arg 1 1 = 0 → clean → x.valid = true → s.contextRange c x = false →
        CommandRefused .setContextDescriptor s n 5) ∧
      (c < 16 → s.arg 1 1 = 0 → clean → x.valid = false ∨ s.contextRange c x = true → held ∨ s.partOk c x.part = false →
        CommandRefused .setContextDescriptor s n 4) ∧
      (c < 16 → s.arg 1 1 = 0 → clean → x.valid = false ∨ s.contextRange c x = true → ¬ held → s.partOk c x.part = true →
        CommandDone .setContextDescriptor s n [] (fun t => t.fw = { s.fw with contexts := s.fw.contexts.put c x } ∧
          t.mem = s.mem ∧ x.asid = s.arg 8 2 ∧ x.quota = s.arg 11 1 ∧ x.root = s.arg 16 8 ∧ x.part.toNat = s.arg 24 8 ∧
          x.wdog = s.arg 48 4 ∧ x.splim = s.arg 52 4 ∧ x.drlim = s.arg 56 8 ∧ x.wlt.toNat = s.arg 64 8 ∧
          (x.asid = old.asid → x.root = old.root → t.clusters = s.clusters) ∧
          (x.asid ≠ old.asid ∨ x.root ≠ old.root → ∀ cl u, cl < 64 → u ∈ (t.clusters.at' cl).tlb → u.asid ≠ old.asid)))) ∧
    (Rung s n 5 136 → s.arg 2 6 = 0 → s.arg 80 56 = 0 → s.arg 1 1 = 1 →
      let d := readBytes s.mem (mailboxBase + 24) 72
      let ok := ((List.range 72).map (fun i => (d.getD i 0).toNat % 128)).sum ≤ 64 ∧
        ∀ r, r < 9 → d.getD (8 * r + 7) 0 = 0
      (16 ≤ s.arg 0 1 → CommandRefused .setTimeShareTable s n 3) ∧
      (s.arg 0 1 < 16 → ¬ ok → CommandRefused .setTimeShareTable s n 5) ∧
      (s.arg 0 1 < 16 → ok → CommandDone .setTimeShareTable s n [] (fun t => t = { s with fw := t.fw } ∧
        t.fw = { s.fw with table2 := t.fw.table2 } ∧ ∀ i, i < 72 → t.fw.table2.at' i = d.getD i 0)))

/-- R348, R385, R393, R407, R411-R413, R415, R423, R424, R428: the commands for resynchronisation, reset, function modes,
attestation, the event ring, mapping, retirement and duty do what they name or are refused with their DETAIL; a requested
mode bit takes its value at its point, with event 0x20. Any other code, and any but ATTEST before READY, is refused.
The model's readings: what RETIRE keeps of counted errors (log entry 51) and where a frame moves (log entry 21); DETAIL 5 for a
MASK that names no mode, events 0x10 on entering host-assisted mapping, PEND after MAPQ unmaps (log entry 82). -/
def Obligations.MailboxControlResults : Prop :=
  ∀ (s : State) (n : Nat), s.Inv →
    (Rung s n 8 16 → s.arg 2 6 = 0 →
      let h := s.arg 8 8
      (s.getQueue (s.arg 0 2) = none → CommandRefused .resync s n 3) ∧
      (∀ q, s.getQueue (s.arg 0 2) = some q →
        (q.consumed + 2 ^ q.rlog < h → CommandRefused .resync s n 5) ∧
        (h ≤ q.consumed + 2 ^ q.rlog → q.slot.isSome = true → ∀ as, s.firmReach q.ctx .store q.stva 64 = .ok as →
          (∀ a, a ∈ as → a < hostBase ∨ windowBase ≤ a) →
          let q1 := { q with
            subseen := max h q.consumed, errstop := false, resync := false,
            hready := if q.subseen ≤ q.consumed ∧ q.consumed < h then s.clk else q.hready }
          CommandDone .resync s n { q1 with wseq := (q.wseq + 1) % 2 ^ 64 }.status (fun t => WroteStatus t q1 as)))) ∧
    (Rung s n 9 8 → s.arg 2 6 = 0 →
      let qid := s.arg 0 2
      (s.getQueue qid = none → CommandRefused .qreset s n 3) ∧
      (∀ q, s.getQueue qid = some q → q.slot.isSome = true → s.selectedOf qid = false →
        (s.mgmt.killing = none → (∀ x, x ∈ s.fw.tasks → x.qid ≠ qid) →
          (q.stWait = none → CommandDone .qreset s n [] (fun t =>
            t.queue? qid = some { q with subseen := q.consumed } ∧ t.cores = s.cores ∧ t.mgmt = s.mgmt)) ∧
          (q.stWait ≠ none → ∃ t, exec .qreset s = .next t ∧ t.mgmt = { s.mgmt with killing := some [] } ∧
            t.cores = s.cores ∧ t.queue? qid = some { q with subseen := q.consumed })) ∧
        (∀ x, s.mgmt.killing = none → s.fw.tasks = [x] → x.qid = qid → (∀ k, x.stage ≠ .saved k) → x.stage ≠ .loading →
          (s.Owes x → ∃ t, exec .qreset s = .next t ∧ t.mgmt.bell = some n ∧ t.mgmt.killing = some [x.id] ∧
            Ends s t x 0x30) ∧
          (¬ s.Owes x → ∃ e qe, Ends s e x 0x30 ∧ e.getQueue qid = some qe ∧
            (let ended := fun (kill : Option (List Nat)) (t : State) =>
               t = { e with fw := t.fw, mgmt := { e.mgmt with killing := kill } } ∧ t.fw.tasks = [] ∧
                 t.queue? qid = some { qe with subseen := qe.consumed }
             (qe.stWait = none → CommandDone .qreset s n [] (ended none)) ∧
             (qe.stWait ≠ none → ∃ t, exec .qreset s = .next t ∧ ended (some [x.id]) t)))) ∧
        (∀ l, s.mgmt.killing = some l →
          let left := (∃ x, x ∈ s.fw.tasks ∧ x.id ∈ l) ∨ q.stWait ≠ none
          (left → exec .qreset s = .next s) ∧
          (¬ left → CommandDone .qreset s n [] (fun t => t = { s with mgmt := { s.mgmt with killing := none } }))))) ∧
    (Rung s n 10 32 →
      let mask := s.arg 0 8
      (32 ≤ mask → CommandRefused .fnset s n 5) ∧
      (mask < 32 → CommandDone .fnset s n [] (fun t => t = { s with mgmt := t.mgmt } ∧
        t.mgmt = { s.mgmt with fnreq := t.mgmt.fnreq, telpa := t.mgmt.telpa, tellen := t.mgmt.tellen } ∧
        (∀ b v, b < 5 → ((b, v) ∈ t.mgmt.fnreq ↔
          if mask.testBit b then v = (s.arg 8 8).testBit b else (b, v) ∈ s.mgmt.fnreq)) ∧
        (s.arg 16 8 = 0 → t.mgmt.telpa = s.mgmt.telpa ∧ t.mgmt.tellen = s.mgmt.tellen) ∧
        (s.arg 16 8 ≠ 0 → t.mgmt.telpa = s.arg 16 8 ∧ t.mgmt.tellen = s.arg 24 8)))) ∧
    (∀ b, b < 64 → ((∀ v, (b, v) ∉ s.mgmt.fnreq) ∨ s.quiescent b = false → exec (.fnmodeApply b) s = .next s) ∧
      ∀ v, s.mgmt.fnreq.find? (fun r => r.1 == b) = some (b, v) → s.quiescent b = true →
        ∃ t, exec (.fnmodeApply b) s = .next t ∧ t = { s with mgmt := t.mgmt } ∧ t.mgmt.fnmode.getLsbD b = v ∧
          (∀ k, k < 64 → k ≠ b → t.mgmt.fnmode.getLsbD k = s.mgmt.fnmode.getLsbD k) ∧
          (∀ k w, (k, w) ∈ t.mgmt.fnreq ↔ (k, w) ∈ s.mgmt.fnreq ∧ k ≠ b) ∧
          (let first := s.mgmt.events ++ [(moduleNote 0x20 t.mgmt.fnmode.toNat b).bytes]
           (b ≠ 1 ∨ v = false ∨ s.mgmt.fnmode.getLsbD 1 = true → t.mgmt.events = first) ∧
           (b = 1 → v = true → s.mgmt.fnmode.getLsbD 1 = false → ∃ l, t.mgmt.events = first ++ l ∧
             l.length = (s.queues.filter (fun q => q.slot.isNone && q.pend)).length))) ∧
    (Rung s n 11 40 →
      let dst := s.arg 32 8
      let rep := s.report' (readBytes s.mem (mailboxBase + 16) 32)
      let as := (List.range 3693).map (fun i => hostBase + dst + i)
      (2 ^ 48 < dst + 3693 → CommandRefused .attest s n 5) ∧
      (dst + 3693 ≤ 2 ^ 48 → CommandDone .attest s n (leBytes 4 3693) (fun t =>
        t = { s with mem := t.mem, poison := t.poison, watched := t.watched } ∧ SameMemBut s t as ∧ rep.length = 384 ∧
        Stands t (as.take 384) rep ∧ Stands t (as.drop 384) ((List.range 3309).map (fun i =>
          (Config.signature (shake256 rep)).getD i 0)) ∧
        (∀ i, i < 32 → readByte t.mem (hostBase + dst + i) = readByte s.mem (mailboxBase + 16 + i)) ∧
        readNat t.mem (hostBase + dst + 32) 4 = s.mgmt.pkg.toNat ∧
        (∀ i, i < 8 → readNat t.mem (hostBase + dst + 40 + 32 * i) 32 = (s.mgmt.msm.at' i).toNat) ∧
        readNat t.mem (hostBase + dst + 296) 8 = s.mgmt.fnmode.toNat))) ∧
    (Rung s n 12 16 → s.arg 9 7 = 0 →
      let pa := s.arg 0 8
      let elog := s.arg 8 1
      let ok := pa % 4096 = 0 ∧ pa + 64 * 2 ^ elog ≤ 2 ^ 48 ∧ 4 ≤ elog ∧ elog ≤ 16
      (¬ ok → CommandRefused .evring s n 5) ∧
      (ok → CommandDone .evring s n [] (fun t => t = { s with mgmt := { s.mgmt with evring := some (pa, elog) } }))) ∧
    (Rung s n 13 8 → s.arg 3 5 = 0 →
      let slot := s.arg 2 1
      let taken := ∃ o, o ∈ s.fw.queues ∧ o.qid ≠ s.arg 0 2 ∧ o.slot = some slot
      (s.mgmt.fnmode.getLsbD 1 = false → CommandRefused .mapq s n 2) ∧
      (s.mgmt.fnmode.getLsbD 1 = true → (s.getQueue (s.arg 0 2) = none → CommandRefused .mapq s n 3) ∧
        (∀ q, s.getQueue (s.arg 0 2) = some q →
          (64 ≤ slot → slot ≠ 255 → CommandRefused .mapq s n 5) ∧ (slot < 64 → taken → CommandRefused .mapq s n 4) ∧
          (slot = 255 → CommandDone .mapq s n [] (fun t => t.mgmt = s.mgmt ∧
            (q.slot = none → t = s) ∧ (q.slot.isSome = true →
              t.queue? q.qid = some { q with slot := none, pend := decide (q.consumed < q.subseen) } ∧
              t.fw.kickmap = s.fw.kickmap ∧
              readBytes t.mem q.qcb 256 = { q with slot := none, pend := decide (q.consumed < q.subseen) }.qcbBytes))) ∧
          (slot < 64 → ¬ taken → CommandDone .mapq s n [] (fun t => t.mgmt = s.mgmt ∧ q.qid ∉ t.fw.kickmap ∧
            t.queue? q.qid = some { q with slot := some slot, pend := false, mappedAt := s.clk }))))) ∧
    (∀ frame base, Rung s n 14 16 → s.arg 1 7 = 0 →
      let kind := s.arg 0 1
      let unit := s.arg 8 8
      let done := fun (m : Mgmt) => CommandDone (.retire frame base) s n [] (fun t => t = { s with mgmt := m })
      let dealt := fun (u : Nat) => { s.mgmt with
        due := s.mgmt.due.filter (fun d => d != (kind, u))
        errors := s.mgmt.errors.filter (fun e => e.1 != kind || e.2.1 != u) }
      let lists := fun (u : Nat) (l : List Nat) (room : Nat) (put : Mgmt → Mgmt) =>
        (u ∈ l → done (dealt u)) ∧ (u ∉ l → l.length < room → done (put (dealt u))) ∧
        (u ∉ l → room ≤ l.length → done ((dealt u).withEvent (moduleNote 0x84 0 0)))
      let cl := unit / 256 * 256
      (2 < kind ∨ unitOk kind unit = false → CommandRefused (.retire frame base) s n 5) ∧
      (kind = 1 → unitOk 1 unit = true →
        lists unit s.mgmt.badCores 64 (fun m => { m with badCores := m.badCores ++ [unit] })) ∧
      (kind = 2 → unitOk 2 unit = true →
        lists cl s.mgmt.badClusters 8 (fun m => { m with badClusters := m.badClusters ++ [cl] })) ∧
      (kind = 0 → unitOk 0 unit = true → s.mgmt.fnmode.getLsbD 2 = true →
        lists unit s.mgmt.badFrames 4096 (fun m => { m with badFrames := m.badFrames ++ [unit] })) ∧
      (kind = 0 → unitOk 0 unit = true → s.mgmt.fnmode.getLsbD 2 = false →
        let r := s.retireFrame unit frame base
        (r.2 = true → CommandDone (.retire frame base) s n [] (fun u => u = r.1.settleUnit 0 unit) ∧
          (unit ∈ r.1.mgmt.badFrames ∨ 4096 ≤ s.mgmt.badFrames.length)) ∧
        (r.2 = false → exec (.retire frame base) s = .next s))) ∧
    (Rung s n 15 8 → s.arg 2 6 = 0 →
      let die := s.arg 0 1
      let d := s.arg 1 1
      let ok := die < 8 ∧ 16 ≤ d ∧ d ≤ 64
      (s.mgmt.fnmode.getLsbD 3 = false → CommandRefused .setduty s n 2) ∧
      (s.mgmt.fnmode.getLsbD 3 = true → ¬ ok → CommandRefused .setduty s n 5) ∧
      (s.mgmt.fnmode.getLsbD 3 = true → ok → CommandDone .setduty s n [] (fun t => t = { s with dies := t.dies } ∧
        ∀ i, i < 8 → t.dies.at' i = (if i = die then { s.dies.at' i with duty2 := d } else s.dies.at' i)))) ∧
    (s.mgmt.bell = some n →
      let code := readNat s.mem mailboxBase 1
      (1 ≤ code → code ≤ 16 → s.mgmt.ready = true ∨ code = 11 → exec .unknownCommand s = .next s) ∧
      (code = 0 ∨ 16 < code ∨ (s.mgmt.ready = false ∧ code ≠ 11) → CommandRefused .unknownCommand s n 0))

/-- R25, R382, R383, R385, R393, R405, R406, R413, R427, R429: window boundaries give the dies their next duties and the
firmware its next table; the power manager and the thermal manager change duties, telemetry writes its record at the end
of each period, scrubbing counts corrected errors, and a module without supply stops (Fault.poweredOff). The model's choices: by
how much duties fall (log entry 50), what a lost beat or accumulator holds (log entry 64), and what is counted towards a
threshold (log entry 51). -/
def Obligations.ModuleResults : Prop :=
  ∀ (s : State), s.Inv →
    let dies := fun (i : Instr) (m : Mgmt) (g : Nat → Die → Die) => ∃ t, exec i s = .next t ∧
      t = { s with dies := t.dies, mgmt := m } ∧ ∀ k, k < 8 → t.dies.at' k = g k (s.dies.at' k)
    let hot := fun (k : Nat) => s.mgmt.hot.testBit k
    (s.clk % 4096 ≠ 0 → exec .shareWindow s = .next s) ∧
    (s.clk % 4096 = 0 → ∃ t, exec .shareWindow s = .next t ∧ t = { s with dies := t.dies, fw := t.fw } ∧
      t.fw = { s.fw with table := s.fw.table2 } ∧
      ∀ k, k < 8 → t.dies.at' k = { s.dies.at' k with duty := (s.dies.at' k).duty2 }) ∧
    (∀ (watts : Nat) (duties : List Nat),
      let i := Instr.powerCapAdjust watts duties
      let ok := s.clk % 4096 = 0 ∧ duties.length = 8 ∧ ∀ d, d ∈ duties → 16 ≤ d ∧ d ≤ 64
      let low := fun (k : Nat) (d : Die) => { d with
        duty := min d.duty (duties.getD k 64), duty2 := min d.duty2 (duties.getD k 64) }
      let lowers := (∃ k, k < 8 ∧ duties.getD k 64 < (s.dies.at' k).duty) ∨ ∀ k, k < 8 → (s.dies.at' k).duty = 16
      (¬ ok → exec i s = .next s) ∧
      let new := fun (k : Nat) (d : Die) => if hot k then min (duties.getD k 64) (min d.duty d.duty2) else duties.getD k 64
      let reduces := (∀ k, k < 8 → new k (s.dies.at' k) ≤ (s.dies.at' k).duty) ∧
        ((∃ k, k < 8 ∧ new k (s.dies.at' k) < (s.dies.at' k).duty) ∨ ∀ k, k < 8 → (s.dies.at' k).duty = 16)
      (ok → s.mgmt.fnmode.getLsbD 3 = false → 4800 < watts → ¬ reduces → exec i s = .next s) ∧
      (ok → s.mgmt.fnmode.getLsbD 3 = false → watts ≤ 4800 ∨ reduces →
        dies i s.mgmt (fun k d => { d with duty := new k d, duty2 := new k d })) ∧
      (ok → s.mgmt.fnmode.getLsbD 3 = true →
        (watts ≤ 4800 → OnlyMgmt i s { s.mgmt with overClk := 0 }) ∧
        (4800 < watts → s.mgmt.overClk = 0 → OnlyMgmt i s { s.mgmt with overClk := s.clk + 1 }) ∧
        (4800 < watts → s.mgmt.overClk ≠ 0 → s.clk + 1 < s.mgmt.overClk + 2 ^ 20 → exec i s = .next s) ∧
        (4800 < watts → s.mgmt.overClk ≠ 0 → s.mgmt.overClk + 2 ^ 20 ≤ s.clk + 1 → ¬ lowers → exec i s = .next s) ∧
        (4800 < watts → s.mgmt.overClk ≠ 0 → s.mgmt.overClk + 2 ^ 20 ≤ s.clk + 1 → lowers →
          ∃ n, dies i ({ s.mgmt with overClk := 0 }.withEvent (moduleNote 0x12 watts n)) low ∧
            ∀ k, k < 8 → n ≤ (low k (s.dies.at' k)).duty))) ∧
    (∀ (die tenths : Nat),
      let i := Instr.thermalAction die tenths
      let note := moduleNote 0xA0 die tenths
      (8 ≤ die → exec i s = .next s) ∧
      (die < 8 → 1150 ≤ tenths → OnlyMgmt i s { s.mgmt with powered := false }) ∧
      (die < 8 → 1050 ≤ tenths → tenths < 1150 → dies i ({ s.mgmt with hot := 255 }.withEvent note) (fun _ d => { d with duty2 := 16 })) ∧
      (die < 8 → 950 ≤ tenths → tenths < 1050 → ∃ n,
        dies i ({ s.mgmt with hot := s.mgmt.hot ||| 2 ^ die }.withEvent note)
          (fun k d => if k = die then { d with duty2 := n } else d) ∧ n ≤ (s.dies.at' die).duty2 ∧
        (16 ≤ (s.dies.at' die).duty2 → 16 ≤ n) ∧ (16 < (s.dies.at' die).duty → n < (s.dies.at' die).duty)) ∧
      (die < 8 → tenths < 950 → ∃ h, OnlyMgmt i s { s.mgmt with hot := h } ∧ h.testBit die = false ∧
        ∀ k, k ≠ die → h.testBit k = hot k)) ∧
    OnlyMgmt .thermalPowerOff s { s.mgmt with powered := false } ∧
    OnlyMgmt .powerDeliveryTrip s { s.mgmt with powered := false } ∧
    (s.mgmt.powered = false → (∀ f p o b, s.turn.who ≠ .event (.coldReset f p o b)) → step s = .fault .poweredOff) ∧
    OnlyMgmt (.patrolScrub .corrected) s { s.mgmt with corrected := s.mgmt.corrected + 1 } ∧
    (∀ found kind unit most span, ((∃ f, found = Finding.correctedFrame f ∧ f % 65536 = 0 ∧ f < 2 ^ 39 ∧ kind = 0 ∧ unit = f) ∧
          most = 16 ∧ span = Config.dayClk ∨
        (∃ cl j, found = Finding.correctedSlot cl j ∧ cl < 64 ∧ j < Config.slotsPerCluster ∧ kind = 1 ∧
          unit = cl / 8 * 2 ^ 16 + cl % 8 * 2 ^ 8 + j) ∧ most = 4 ∧ span = 2 ^ 36) →
      let es := (kind, unit, s.clk) :: s.mgmt.errors.filter (fun e => e.1 != kind || decide (s.clk < e.2.2 + span))
      let hits := (es.filter (fun e => e.1 == kind && e.2.1 == unit)).length
      let m := { s.mgmt with corrected := s.mgmt.corrected + 1, errors := es }
      let known := unit ∈ (if kind = 0 then s.mgmt.badFrames else s.mgmt.badCores) ∨ (kind, unit) ∈ s.mgmt.due
      (hits < most ∨ known → OnlyMgmt (.patrolScrub found) s m) ∧
      (most ≤ hits → ¬ known → OnlyMgmt (.patrolScrub found) s { m with due := s.mgmt.due ++ [(kind, unit)] })) ∧
    (∀ a, (hostBase ≤ a ∧ a < windowBase → exec (.patrolScrub (.lostLine a)) s = .next s) ∧
      (a < hostBase ∨ windowBase ≤ a → ∃ t, exec (.patrolScrub (.lostLine a)) s = .next t ∧
        t = { s with poison := t.poison, mgmt := if a < 2 ^ 39 then (s.reachUnit 0 (a / 65536 * 65536)).mgmt else s.mgmt } ∧
        ∀ i, t.poisoned i = true ↔ s.poisoned i = true ∨ i / 64 = a / 64)) ∧
    (∀ ci a, ∃ t, exec (.patrolScrub (.lostAcc ci a)) s = .next t ∧ t = { s with cores := t.cores } ∧
      ∀ c, s.core? ci = some c → ∃ d, OnlyCore s t ci d ∧ { d with acc := c.acc } = c ∧ (d.acc.read a).psn = true ∧
        ∀ b, b ≠ a → d.acc.read b = c.acc.read b) ∧
    (∀ ci r link item c (l : Link) b, s.core? ci = some c → (c.routes.read r).links[link]? = some l →
      l.items[item]? = some (some b) → ∃ t d, exec (.patrolScrub (.lostBeat ci r link item)) s = .next t ∧ OnlyCore s t ci d ∧
        { d with routes := c.routes } = c ∧ (∀ k, k ≠ r → d.routes.read k = c.routes.read k) ∧
        ∃ l', (d.routes.read r).links[link]? = some l' ∧ l'.items[item]? = some (some { b with psn := true }) ∧
          l'.items.length = l.items.length ∧ ∀ k, k ≠ item → l'.items[k]? = l.items[k]?) ∧
    (∀ (watts tenths : Nat),
      let i := Instr.telemetryPeriod watts tenths
      let n := s.clk / 2 ^ 30 - 1
      let ends := s.clk % 2 ^ 30 = 0 ∧ s.mgmt.telno < s.clk / 2 ^ 30
      let slots := s.mgmt.tellen / 64
      let at' := hostBase + s.mgmt.telpa + 64 * (n % slots)
      let as := (List.range 64).map (fun k => at' + k)
      let mgmt := { s.mgmt with telno := n + 1, telclk := s.withheld, corrected := 0 }
      (¬ ends → exec i s = .next s) ∧
      (ends → s.mgmt.fnmode.getLsbD 4 = false →
        (s.mgmt.telpa = 0 ∨ slots = 0 → OnlyMgmt i s mgmt) ∧
        (s.mgmt.telpa ≠ 0 → slots ≠ 0 → ∃ t, exec i s = .next t ∧
          t = { s with mem := t.mem, poison := t.poison, watched := t.watched, mgmt := mgmt } ∧ SameMemBut s t as ∧
          readNat t.mem at' 8 = n % 2 ^ 64 ∧ readNat t.mem (at' + 8) 4 = watts % 2 ^ 32 ∧
          readNat t.mem (at' + 12) 4 = tenths % 2 ^ 32 ∧ readNat t.mem (at' + 16) 8 = s.mgmt.corrected % 2 ^ 64 ∧
          readNat t.mem (at' + 24) 8 = (s.withheld - s.mgmt.telclk) % 2 ^ 64 ∧
          readNat t.mem (at' + 32) 4 = s.mgmt.ports.toNat)) ∧
      (ends → s.mgmt.fnmode.getLsbD 4 = true → ∃ t pa, exec i s = .next t ∧
        t = { s with mem := t.mem, poison := t.poison, watched := t.watched, mgmt := mgmt.withEvent (moduleNote 0x13 pa n) } ∧
        pa + 64 ≤ 2 ^ 39 ∧ readNat t.mem pa 8 = n % 2 ^ 64 ∧ readNat t.mem (pa + 8) 4 = watts % 2 ^ 32))

/-- R12, R31, R32, R79, R238, R406, R407, R413, R428: a cold reset leaves host memory, the fused defect map and the
retirement lists; a function-level reset ends every task, forgets queues, contexts, objects and translations and sets
FNMODE to 0 and READY; a unit past its threshold is listed or reported; a failed link freezes the cores of the tasks it
carries; a poisoned or sound arrival from a peer reaches the memory it names, in a task that is resident. The model's choices:
what a cold reset leaves (log entry 49), the freezes at failures (log entry 48), the form of an arrival (log entry 52), the
system's packages (log entry 63), and the retirement that is due (log entry 51). -/
def Obligations.ModuleFailureResults : Prop :=
  ∀ (s : State), s.Inv →
    (∀ (fuses others : List Nat) (pkg : Nat) (images : List Image),
      let i := Instr.coldReset fuses pkg others images
      let pkgs := pkg :: others
      let ids := pkgs.Nodup ∧ ∀ p, p ∈ pkgs → p ≤ 786431
      let up := images.length = 4 ∧ ids ∧ ∀ x, x ∈ images →
        Config.verifies (shake256 x.bytes) x.sig = true ∧ Config.securityVersion.toNat ≤ x.version
      (fusesOk fuses = false → exec i s = .next s) ∧
      (fusesOk fuses = true → ∃ t, exec i s = .next t ∧ t.cores = [] ∧ t.fw = Firmware.zero ∧ t.poison = [] ∧
        t.reqs = [] ∧ t.lists = [] ∧ t.clk = 0 ∧
        (∀ a, hostBase ≤ a → a < hostBase + 2 ^ 48 → readByte t.mem a = readByte s.mem a) ∧
        (∀ a, a < hostBase ∨ hostBase + 2 ^ 48 ≤ a → readByte t.mem a = readByte [] a) ∧
        (t.mgmt.ready = true ↔ up) ∧ (t.mgmt.up = true ↔ up) ∧ (ids → t.mgmt.pkg.toNat = pkg) ∧ t.mgmt.powered = true ∧ t.mgmt.fnmode = 0 ∧
        t.mgmt.bell = none ∧ t.mgmt.belldone = 0 ∧ t.mgmt.evring = none ∧ (images = [] → ∀ k, t.mgmt.msm.read k = 0) ∧
        t.mgmt.badCores = s.mgmt.badCores ∧ t.mgmt.badClusters = s.mgmt.badClusters ∧ t.mgmt.badFrames = s.mgmt.badFrames ∧
        ∀ cl, cl < 64 → (t.clusters.at' cl).enabled = !(fuses.getD cl 0).testBit 64 ∧
          (t.clusters.at' cl).badSlots = [fuses.getD cl 0 % 2 ^ 7, fuses.getD cl 0 / 2 ^ 8 % 2 ^ 7] ∧
          (t.clusters.at' cl).tlb = [] ∧ (t.clusters.at' cl).lastCtx = none)) ∧
    (∃ t, exec .functionLevelReset s = .next t ∧ t.fw.tasks = [] ∧ t.fw.queues = [] ∧ t.fw.objects = [] ∧
      t.fw.selected = [] ∧ t.fw.kickmap = [] ∧ t.fw.fills = [] ∧ t.keys = [] ∧ (∀ c, c < 16 → t.fw.contexts.at' c = Context.zero) ∧
      (∀ c, c ∈ t.cores → ∀ x, x ∈ s.fw.tasks → c.task ≠ x.id) ∧
      (∀ cl, cl < 64 → (t.clusters.at' cl).tlb = [] ∧ (t.clusters.at' cl).lastCtx = none ∧
        (t.clusters.at' cl).enabled = (s.clusters.at' cl).enabled) ∧
      t.mgmt = { s.mgmt with fnmode := 0, fnreq := [], ready := s.mgmt.up, killing := none } ∧
      ((∀ x, x ∈ s.fw.tasks → (∀ n, x.stage ≠ .saved n) ∧ x.stage ≠ .loading ∧ x.stage ≠ .frozen none) → t.mem = s.mem) ∧
      (∀ x n as, s.fw.tasks = [x] → x.stage = .saved n ∨ x.stage = .loading ∨ x.stage = .frozen none → s.firmReach x.ctx .store x.area.1 4 = .ok as →
        ∀ a, a ∈ as → readByte t.mem a = 0)) ∧
    (∀ (die cl slot : Nat),
      let lists := fun (i : Instr) (kind unit : Nat) (l : List Nat) (room : Nat) (put : Mgmt → Mgmt) =>
        let dealt := { s.mgmt with
          due := s.mgmt.due.filter (fun d => d != (kind, unit))
          errors := s.mgmt.errors.filter (fun e => e.1 != kind || e.2.1 != unit) }
        (s.mgmt.fnmode.getLsbD 2 = true → OnlyMgmt i s (dealt.withEvent (moduleNote 0x11 unit kind))) ∧
        (s.mgmt.fnmode.getLsbD 2 = false → (unit ∈ l → OnlyMgmt i s dealt) ∧
          (unit ∉ l → l.length < room → OnlyMgmt i s (put dealt)) ∧
          (unit ∉ l → room ≤ l.length → OnlyMgmt i s (dealt.withEvent (moduleNote 0x84 0 0))))
      let unit := die * 2 ^ 16 + cl * 2 ^ 8
      (8 ≤ die ∨ 8 ≤ cl ∨ Config.slotsPerCluster ≤ slot ∨ (1, unit + slot) ∉ s.mgmt.due → exec (.coreSlotRetirement die cl slot) s = .next s) ∧
      (die < 8 → cl < 8 → slot < Config.slotsPerCluster → (1, unit + slot) ∈ s.mgmt.due →
        lists (.coreSlotRetirement die cl slot) 1 (unit + slot) s.mgmt.badCores 64
          (fun m => { m with badCores := m.badCores ++ [unit + slot] })) ∧
      (8 ≤ die ∨ 8 ≤ cl → exec (.clusterHardFailure die cl) s = .next s) ∧
      (die < 8 → cl < 8 → lists (.clusterHardFailure die cl) 2 unit s.mgmt.badClusters 8
        (fun m => { m with badClusters := m.badClusters ++ [unit] }))) ∧
    (∀ edge, 14 ≤ edge → exec (.dieToDieLinkFailure edge) s = .next s) ∧
    (∀ edge, edge < 14 → ∃ t, exec (.dieToDieLinkFailure edge) s = .next t ∧ t = { s with cores := t.cores, mgmt := t.mgmt } ∧
      edge ∈ t.mgmt.edges ∧ t.mgmt = { s.mgmt with edges := t.mgmt.edges } ∧
      Frozen s t (fun c => s.fw.tasks.any (fun x => x.id == c.task) && !c.freeze)) ∧
    (∀ port, (8 ≤ port → exec (.scaleOutPortFailure port) s = .next s) ∧
      (port < 8 → ∃ t, exec (.scaleOutPortFailure port) s = .next t ∧ t = { s with cores := t.cores, mgmt := t.mgmt } ∧
        t.mgmt = { s.mgmt with ports := t.mgmt.ports } ∧ t.mgmt.ports.getLsbD port = false ∧
        (∀ k, k ≠ port → t.mgmt.ports.getLsbD k = s.mgmt.ports.getLsbD k) ∧
        Frozen s t (fun c => s.fw.tasks.any (fun x => fieldAt x.launch 44 4 != 0 && x.id == c.task) && !c.freeze))) ∧
    (∀ (kind job cl addr : Nat) (data : List (BitVec 8)),
      let i := Instr.remoteCopyArrival kind job cl addr data
      let bad := kind.testBit 2
      let stored := fun (as : List Nat) (bs : List (BitVec 8)) => ∃ t, exec i s = .next t ∧
        t = { s with mem := t.mem, poison := t.poison, watched := t.watched } ∧ SameMemBut s t as ∧ Stands t as bs ∧
        (bad = true → ∀ a, a ∈ as → t.poisoned a = true)
      (s.peerTask job = none → exec i s = .next s) ∧
      (∀ x, s.peerTask job = some x →
        let gone := x.nclus ≤ cl ∨ (s.clusters.at' (x.phys cl)).closed = true
        let reach := fun (a n : Nat) => ((List.range n).map (fun k => windowAddr (x.phys cl) x.ppc 0 (a + k))).filterMap id
        let win := reach addr data.length
        let va := addr % 2 ^ 52
        (gone → exec i s = .next s) ∧
        (¬ gone → kind % 4 = 0 → (win.length ≠ data.length → exec i s = .next s) ∧
          (win.length = data.length → stored win data)) ∧
        (¬ gone → kind % 4 = 1 →
          (∀ as, s.firmReach x.ctx .store va data.length = .ok as → as.length = data.length → stored as data) ∧
          (∀ r, s.firmReach x.ctx .store va data.length = .fault r → exec i s = .next s) ∧
          (∀ y, s.firmReach x.ctx .store va data.length = .hold y → exec i s = .next (s.wantFill y))) ∧
        (¬ gone → kind % 4 = 2 →
          let w := fieldAt data 0 1
          let bytes := reach (addr / 8) ((addr + w + 7) / 8 - addr / 8)
          w ≠ 0 → bytes.length = (addr + w + 7) / 8 - addr / 8 → bytes.Nodup → ∃ t, exec i s = .next t ∧
            t = { s with mem := t.mem, poison := t.poison, watched := t.watched } ∧ SameMemBut s t bytes ∧
            (let new := leNat (bytes.map (readByte t.mem))
             let old := leNat (bytes.map (readByte s.mem))
             new / 2 ^ (addr % 8) % 2 ^ w = fieldAt data 1 4 % 2 ^ w ∧ new % 2 ^ (addr % 8) = old % 2 ^ (addr % 8) ∧
             new / 2 ^ (addr % 8 + w) = old / 2 ^ (addr % 8 + w))) ∧
        (¬ gone → kind % 4 = 3 →
          let op := fieldAt data 0 1
          let ty := fieldAt data 1 1
          let z := if ty = 12 then 8 else 4
          (aopTyOk true op ty = false ∨ va % z ≠ 0 → exec i s = .next s) ∧
          (aopTyOk true op ty = true → va % z = 0 → ∀ as, s.firmReach x.ctx .atomic va z = .ok as →
            let a := as.headD 0
            (s.poisoned a = true → exec i s = .next s) ∧
            (s.poisoned a = false → ∃ t, exec i s = .next t ∧ t = { s with mem := t.mem, poison := t.poison, watched := t.watched } ∧
              SameMemBut s t ((List.range z).map (fun k => a + k)) ∧
              readNat t.mem a z = aopApply op ty (readNat s.mem a z) (fieldAt data 2 z) % 2 ^ (8 * z))))))

/-- R7, R37, R45-R60, R326: instruction and strip words written out bit by bit from the encodings of the spec decode to the
instructions that they stand for. -/
def Obligations.DecodeSampleWords : Prop :=
  let plain := fun (e : BitVec 3) => ({ eng := e, pushN := false, pushP := false, popN := false, popP := false, dly := 0 } : Hdr)
  decode [0x000100A208000000] = .ok (.add (plain 0) { sd := 5, sa := 2, sb := 1, sc := 0, rsv := 0 }) ∧
  decode [0x6007000000000000] = .ok (.exit (plain 3) { sa := 0, cf := 0, cn := 0, lv := 0, ops := 0, imm := 0 }) ∧
  decode [0x61F0000000000000] = .ok (.nop (plain 3) { sa := 0, cf := 0, cn := 0, lv := 0, ops := 0, imm := 0 }) ∧
  decode [0x60020000000FFFFF] = .ok (.endn (plain 3) { sa := 0, cf := 0, cn := 0, lv := 0, ops := 0, imm := -1 }) ∧
  decode [0x210402114480001F] = .ok (.mmul (plain 1)
    { acd := 2, acs := 0, wa := 4, wb := 5, ty := 1, rm := 0, flg := 8, ops := 31 }) ∧
  decode [0x01C1000000180001] = .ok (.waitt (plain 0) { sd := 0, sa := 0, sb := 0, scp := 0, idx := 1, ops := 0x80001 }) ∧
  decode [0x0830400700310000, 0x1001F02F00000060] = .ok (.wset { plain 0 with pushP := true }
    { sd := 0, sa := 7, sb := 0, scp := 0, idx := 3, ops := 0x10000 } 0x1001F02F00000060) ∧
  decode [0x8000000000000000] = .error (.check 1) ∧ decode [0x6807000000000000] = .error (.check 2) ∧
  decode [0x000100A208000000 ||| 0x0000400000000000] = .error (.check 4) ∧
  decodeStrip 0xA004201F = some (.xCvt { a := 0, b := 0, c := 0, int := 0, sub := 1, rm := 0, flg := 0, pk := 1, rsv := 0, nm1 := 31 }) ∧
  decodeStrip 0xD0000000 = none

/-- R37, R40, R45-R60, R326: for every well-formed instruction word, of every family and with every operand, decoding its
encoding gives the instruction back; every word that decodes to a well-formed instruction is that instruction's encoding;
and a strip word and its instruction determine each other. -/
def Obligations.DecodeEncodeAgree : Prop :=
  (∀ i : Instr, WellFormed i → (opcOf i).isSome = true → decode (encode i) = .ok i) ∧
  (∀ (ws : List Word) (i : Instr), decode ws = .ok i → WellFormed i → encode i = ws.take (encode i).length) ∧
  (∀ (i : Instr) (w : BitVec 32), encodeStrip i = some w ↔ decodeStrip w = some i)

/-- R38, R40, R54, R295-R297, R304, R325: what a step does. A strand that may issue fetches the words at its PC through
translation and executes the instruction that they decode to, or the word that it holds; it walks past a word that it
does not execute. A strip executes the instruction at its position, and an event row is executed as it is. Time passes
and the agenda advances first (log entries 1 and 4). -/
def Obligations.StepRunsDecoded : Prop :=
  ∀ (s : State), s.mgmt.powered = true →
    let s0 := { s.pass s.turn.dt with agenda := s.agenda.tail, freeIx := s.freeIx + 1 }
    (∀ i, s.turn.who = .event i → step s = exec i { s0 with actor := .none }) ∧
    (∀ cl ws w i, s.turn.who = .strip cl ws → s0.clk % 64 < (s0.dies.at' (cl / 8)).duty →
      (let x := (s.clusters.at' cl).strips.at' ws
       x.prog[x.pos]? = some w) → decodeStrip w = some i → step s = exec i { s0 with actor := .strip cl ws }) ∧
    (∀ ci e b c0, s.turn.who = .strand ci e b → s.core? ci = some c0 →
      let c := c0.land (s0.iclk c0)
      let s1 := { s0 with actor := .strand ci e b }.setCore ci c
      let st := c.strand e
      c.halted = false → c.stopped = false → st.exited = false → st.parked = false → s1.issues c = true →
      (e = .v → c.vnext ≤ s1.iclk c) → c.pushBlocked e (s1.iclk c) = none →
      let valid := fun (u : State) (ws : List Word) (i : Instr) =>
        decode ws = .ok i ∧ check6 i = true ∧ tyStatic i = true ∧ u.declares c.task (profOf (ws.headD 0)) = true
      (∀ ws i, st.held = some ws → st.rep e = none → valid s1 ws i → step s = exec i s1) ∧
      (∀ ws n i, st.held = some ws → st.rep e = some n → valid s1 (repWords (ws.headD 0) ws.tail n.1) i →
        step s = exec i s1) ∧
      (st.held = none → c.slipHeld e = false → ∀ w s2, s1.fetchWords ci st.fillBad 1 st.pc = .got [w] s2 →
        (∃ en lvl a, s1.xlateCore c .fetch st.pc.toNat = .ok en lvl a ∧ w.toNat = readNat s.mem a 8) ∧
        (st.skipping = true ∨ executes w e = false → step s = exec (.walkedWord w) s2) ∧
        (st.skipping = false → executes w e = true → leadCheck w = none → st.repn = 0 → ∀ ext s3,
          s2.fetchWords ci st.fillBad (w.toNat / 2 ^ 46 % 4) (st.pc + 8) = .got ext s3 →
          let ws := c.overlaid st.pc (w :: ext)
          ∀ i, valid s3 ws i → step s = exec i (s3.updStrand ci e (fun x =>
            { x.noteFetch x.dwc.toNat x.pc with held := some ws })))))

/-- The memory of the model is one canonical list (its own representation): every step of every agent keeps it so. -/
def Obligations.StepKeepsMemory : Prop :=
  ∀ (s t : State), s.Inv → step s = .next t → t.Inv

/-- R382, R385, R413, R423, R428: after reset memory has its canonical form, no core is bound, the time-share table gives row
D the shares FW = 4 and HS = 4, every die may issue on every clk, FNMODE is 0, no doorbell is rung and READY is clear.
(Registers without a stated reset value: log entry 9.) -/
def Obligations.ResetState : Prop :=
  State.reset.Inv ∧ State.reset.cores = [] ∧ State.reset.clk = 0 ∧ State.reset.fw.queues = [] ∧
  State.reset.fw.tasks = [] ∧ State.reset.fw.table.at' 68 = 4 ∧ State.reset.fw.table.at' 69 = 4 ∧
  (∀ i, i < 128 → i ≠ 68 → i ≠ 69 → State.reset.fw.table.at' i = 0) ∧
  (∀ d, d < 8 → (State.reset.dies.at' d).duty = 64 ∧ (State.reset.dies.at' d).duty2 = 64) ∧
  State.reset.mgmt.fnmode = 0 ∧ State.reset.mgmt.bell = none ∧ State.reset.mgmt.belldone = 0 ∧
  State.reset.mgmt.ready = false ∧ (∀ k, k < 8 → State.reset.mgmt.msm.at' k = 0)

end
end

