-- ==== Sys2Proof/Laws/Memory.lean ====
section
/-! SUPPORT. Memory: reading after writing, and the canonical form that every operation keeps. -/
namespace Sys2Proof.Machine

theorem cellsFrom_le {lo lo' : Nat} {m : List Host.Cell} (h : cellsFrom lo m = true) (hl : lo' ≤ lo) :
    cellsFrom lo' m = true := by
  cases m with
  | nil => rfl
  | cons c m =>
    obtain ⟨k, b⟩ := c
    simp only [cellsFrom, Bool.and_eq_true, decide_eq_true_eq] at h ⊢
    exact ⟨⟨Nat.le_trans hl h.1.1, h.1.2⟩, h.2⟩

/-- An address below every cell reads as an unlisted one. -/
theorem readByte_below {lo a : Nat} {m : List Host.Cell} (h : cellsFrom lo m = true) (ha : a < lo) :
    readByte m a = emptyByte := by
  cases m with
  | nil => rfl
  | cons c m =>
    obtain ⟨k, b⟩ := c
    simp only [cellsFrom, Bool.and_eq_true, decide_eq_true_eq] at h
    have hk : a < k := Nat.lt_of_lt_of_le ha h.1.1
    simp [readByte, hk]

theorem cellsFrom_writeByte {lo a : Nat} {m : List Host.Cell} (b : BitVec 8) (h : cellsFrom lo m = true) (ha : lo ≤ a) :
    cellsFrom lo (writeByte m a b) = true := by
  induction m generalizing lo with
  | nil =>
    unfold writeByte
    split
    · rfl
    · next hb => simp [cellsFrom, ha, bne, hb]
  | cons c m ih =>
    obtain ⟨k, x⟩ := c
    simp only [cellsFrom, Bool.and_eq_true, decide_eq_true_eq] at h
    obtain ⟨⟨hlo, hx⟩, hm⟩ := h
    unfold writeByte
    by_cases h1 : a < k
    · by_cases hb : (b == emptyByte) = true
      · simp [h1, hb, cellsFrom, hlo, hx, hm]
      · have hx' : ¬x = emptyByte := by simpa using hx
        simp [h1, hb, cellsFrom, ha, hx', hm, bne, Nat.succ_le_of_lt h1]
    · by_cases h2 : a = k
      · subst h2
        by_cases hb : (b == emptyByte) = true
        · simpa [hb] using cellsFrom_le hm (Nat.le_succ_of_le hlo)
        · simp [hb, cellsFrom, ha, hm, bne]
      · have h2' : (a == k) = false := by simp [h2]
        simp only [h1, if_false, h2', cellsFrom, Bool.and_eq_true, decide_eq_true_eq, Bool.false_eq_true]
        exact ⟨⟨hlo, hx⟩, ih hm (by omega)⟩

/-- Writing a byte keeps the canonical form. -/
theorem wf_writeByte {m : List Host.Cell} (a : Nat) (b : BitVec 8) (h : Memory.wf m = true) :
    Memory.wf (writeByte m a b) = true :=
  cellsFrom_writeByte b h (Nat.zero_le a)

theorem wf_writeCells {m : List Host.Cell} (cs : List Host.Cell) (h : Memory.wf m = true) :
    Memory.wf (writeCells m cs) = true := by
  induction cs generalizing m with
  | nil => exact h
  | cons c cs ih => exact ih (wf_writeByte c.1 c.2 h)

theorem cellsFrom_filter {lo : Nat} {m : List Host.Cell} (p : Host.Cell → Bool) (h : cellsFrom lo m = true) :
    cellsFrom lo (m.filter p) = true := by
  induction m generalizing lo with
  | nil => rfl
  | cons c m ih =>
    obtain ⟨k, b⟩ := c
    simp only [cellsFrom, Bool.and_eq_true, decide_eq_true_eq] at h
    by_cases hp : p (k, b) = true
    · simp [List.filter, hp, cellsFrom, h.1.1, h.1.2, ih h.2]
    · simpa [List.filter, hp] using cellsFrom_le (ih h.2) (Nat.le_succ_of_le h.1.1)

theorem wf_eraseRange {m : List Host.Cell} (lo hi : Nat) (h : Memory.wf m = true) :
    Memory.wf (eraseRange m lo hi) = true :=
  cellsFrom_filter _ h

theorem wf_copyRange {m : List Host.Cell} (src dst n : Nat) (h : Memory.wf m = true) :
    Memory.wf (copyRange m src dst n) = true :=
  wf_writeCells _ (wf_eraseRange _ _ h)

/-- A byte written reads back, and no other byte changes. -/
theorem readByte_writeByte {lo : Nat} {m : List Host.Cell} (a b' : Nat) (b : BitVec 8) (h : cellsFrom lo m = true)
    (ha : lo ≤ a) : readByte (writeByte m a b) b' = if b' = a then b else readByte m b' := by
  induction m generalizing lo with
  | nil =>
    unfold writeByte
    by_cases hb : (b == emptyByte) = true
    · obtain rfl := eq_of_beq hb
      by_cases hab : b' = a <;> simp [readByte]
    · by_cases hab : b' = a
      · simp [hb, readByte, hab]
      · simp [hb, readByte, hab]
  | cons c m ih =>
    obtain ⟨k, x⟩ := c
    simp only [cellsFrom, Bool.and_eq_true, decide_eq_true_eq] at h
    obtain ⟨⟨hlo, hx⟩, hm⟩ := h
    unfold writeByte
    by_cases h1 : a < k
    · by_cases hb : (b == emptyByte) = true
      · obtain rfl := eq_of_beq hb
        by_cases hab : b' = a
        · subst hab; simp [h1, readByte]
        · simp [h1, hab]
      · by_cases hab : b' = a
        · subst hab; simp [h1, hb, readByte]
        · by_cases hlt : b' < a
          · have : b' < k := Nat.lt_trans hlt h1
            simp [h1, hb, readByte, hab, hlt, this]
          · simp [h1, hb, readByte, hab, hlt]
    · by_cases h2 : a = k
      · subst h2
        by_cases hb : (b == emptyByte) = true
        · obtain rfl := eq_of_beq hb
          by_cases hab : b' = a
          · subst hab
            simpa using readByte_below hm (Nat.lt_succ_self b')
          · by_cases hlt : b' < a
            · simpa [hab, readByte, hlt] using readByte_below hm (Nat.lt_succ_of_lt hlt)
            · simp [hab, readByte, hlt]
        · by_cases hab : b' = a
          · simp [hb, readByte, hab]
          · simp [hb, readByte, hab]
      · have h2' : (a == k) = false := by simp [h2]
        have ih' := ih hm (by omega)
        simp only [h1, if_false, h2', readByte, ih', Bool.false_eq_true]
        by_cases hk1 : b' < k
        · have : b' ≠ a := by omega
          simp [hk1, this]
        · by_cases hk2 : b' = k
          · have : b' ≠ a := by omega
            simp [hk2]; omega
          · simp [hk1, hk2]

/-- Reading a byte after writing one. -/
theorem readByte_write {m : List Host.Cell} (a b' : Nat) (b : BitVec 8) (h : Memory.wf m = true) :
    readByte (writeByte m a b) b' = if b' = a then b else readByte m b' :=
  readByte_writeByte a b' b h (Nat.zero_le a)

/-- Bytes that no cell of a list names keep their values. -/
theorem readByte_writeCells_of_not_mem {m : List Host.Cell} (cs : List Host.Cell) (a : Nat) (h : Memory.wf m = true)
    (ha : a ∉ cs.map Prod.fst) : readByte (writeCells m cs) a = readByte m a := by
  induction cs generalizing m with
  | nil => rfl
  | cons c cs ih =>
    simp only [List.map_cons, List.mem_cons, not_or] at ha
    show readByte (writeCells (writeByte m c.1 c.2) cs) a = _
    rw [ih (wf_writeByte _ _ h) ha.2, readByte_write _ _ _ h, if_neg ha.1]

theorem wf_store {s : State} (cs : List Host.Cell) (h : s.Inv) : (s.store cs).Inv :=
  wf_writeCells cs h

theorem wf_storeBytes {s : State} (a : Nat) (bs : List (BitVec 8)) (h : s.Inv) : (s.storeBytes a bs).Inv :=
  wf_store _ h

theorem wf_storeNat {s : State} (a n x : Nat) (h : s.Inv) : (s.storeNat a n x).Inv :=
  wf_storeBytes _ _ h

theorem mem_map_fst_cellsAt (a : Nat) (bs : List (BitVec 8)) (x : Nat) :
    x ∈ (cellsAt a bs).map Prod.fst ↔ a ≤ x ∧ x < a + bs.length := by
  induction bs generalizing a with
  | nil => simp [cellsAt]
  | cons b bs ih => simp only [cellsAt, List.map_cons, List.mem_cons, ih, List.length_cons]; omega

/-- A store of consecutive bytes leaves every other byte alone. -/
theorem readByte_storeBytes_ne {s : State} {a x : Nat} (bs : List (BitVec 8)) (h : s.Inv)
    (hx : x < a ∨ a + bs.length ≤ x) : readByte (s.storeBytes a bs).mem x = readByte s.mem x := by
  refine readByte_writeCells_of_not_mem _ x h ?_
  rw [mem_map_fst_cellsAt]; omega

end Sys2Proof.Machine
end

