-- ==== Sys2Proof/Laws/State.lean ====
section
/-! SUPPORT. One lemma per field and update of the state, so that no proof unfolds a record update. -/
namespace Sys2Proof.Machine

@[simp] theorem State.setCore_clk (s : State) (ci : Nat) (c : Core) : (s.setCore ci c).clk = s.clk := rfl
@[simp] theorem State.setCore_mem (s : State) (ci : Nat) (c : Core) : (s.setCore ci c).mem = s.mem := rfl
@[simp] theorem State.setCore_poison (s : State) (ci : Nat) (c : Core) : (s.setCore ci c).poison = s.poison := rfl
@[simp] theorem State.setCore_watched (s : State) (ci : Nat) (c : Core) : (s.setCore ci c).watched = s.watched := rfl
@[simp] theorem State.setCore_homes (s : State) (ci : Nat) (c : Core) : (s.setCore ci c).homes = s.homes := rfl
@[simp] theorem State.setCore_reqs (s : State) (ci : Nat) (c : Core) : (s.setCore ci c).reqs = s.reqs := rfl
@[simp] theorem State.setCore_lists (s : State) (ci : Nat) (c : Core) : (s.setCore ci c).lists = s.lists := rfl
@[simp] theorem State.setCore_keys (s : State) (ci : Nat) (c : Core) : (s.setCore ci c).keys = s.keys := rfl
@[simp] theorem State.setCore_outbox (s : State) (ci : Nat) (c : Core) : (s.setCore ci c).outbox = s.outbox := rfl
@[simp] theorem State.setCore_dies (s : State) (ci : Nat) (c : Core) : (s.setCore ci c).dies = s.dies := rfl
@[simp] theorem State.setCore_clusters (s : State) (ci : Nat) (c : Core) : (s.setCore ci c).clusters = s.clusters := rfl
@[simp] theorem State.setCore_fw (s : State) (ci : Nat) (c : Core) : (s.setCore ci c).fw = s.fw := rfl
@[simp] theorem State.setCore_mgmt (s : State) (ci : Nat) (c : Core) : (s.setCore ci c).mgmt = s.mgmt := rfl
@[simp] theorem State.setCore_agenda (s : State) (ci : Nat) (c : Core) : (s.setCore ci c).agenda = s.agenda := rfl
@[simp] theorem State.setCore_actor (s : State) (ci : Nat) (c : Core) : (s.setCore ci c).actor = s.actor := rfl
@[simp] theorem State.setCore_freeIx (s : State) (ci : Nat) (c : Core) : (s.setCore ci c).freeIx = s.freeIx := rfl

@[simp] theorem State.updCore_clk (s : State) (ci : Nat) (f : Core → Core) : (s.updCore ci f).clk = s.clk := rfl
@[simp] theorem State.updCore_mem (s : State) (ci : Nat) (f : Core → Core) : (s.updCore ci f).mem = s.mem := rfl
@[simp] theorem State.updCore_poison (s : State) (ci : Nat) (f : Core → Core) : (s.updCore ci f).poison = s.poison := rfl
@[simp] theorem State.updCore_watched (s : State) (ci : Nat) (f : Core → Core) : (s.updCore ci f).watched = s.watched := rfl
@[simp] theorem State.updCore_homes (s : State) (ci : Nat) (f : Core → Core) : (s.updCore ci f).homes = s.homes := rfl
@[simp] theorem State.updCore_reqs (s : State) (ci : Nat) (f : Core → Core) : (s.updCore ci f).reqs = s.reqs := rfl
@[simp] theorem State.updCore_lists (s : State) (ci : Nat) (f : Core → Core) : (s.updCore ci f).lists = s.lists := rfl
@[simp] theorem State.updCore_keys (s : State) (ci : Nat) (f : Core → Core) : (s.updCore ci f).keys = s.keys := rfl
@[simp] theorem State.updCore_outbox (s : State) (ci : Nat) (f : Core → Core) : (s.updCore ci f).outbox = s.outbox := rfl
@[simp] theorem State.updCore_dies (s : State) (ci : Nat) (f : Core → Core) : (s.updCore ci f).dies = s.dies := rfl
@[simp] theorem State.updCore_clusters (s : State) (ci : Nat) (f : Core → Core) : (s.updCore ci f).clusters = s.clusters := rfl
@[simp] theorem State.updCore_fw (s : State) (ci : Nat) (f : Core → Core) : (s.updCore ci f).fw = s.fw := rfl
@[simp] theorem State.updCore_mgmt (s : State) (ci : Nat) (f : Core → Core) : (s.updCore ci f).mgmt = s.mgmt := rfl
@[simp] theorem State.updCore_agenda (s : State) (ci : Nat) (f : Core → Core) : (s.updCore ci f).agenda = s.agenda := rfl
@[simp] theorem State.updCore_actor (s : State) (ci : Nat) (f : Core → Core) : (s.updCore ci f).actor = s.actor := rfl
@[simp] theorem State.updCore_freeIx (s : State) (ci : Nat) (f : Core → Core) : (s.updCore ci f).freeIx = s.freeIx := rfl

@[simp] theorem State.updStrand_clk (s : State) (ci : Nat) (e : Eng) (f : Strand → Strand) : (s.updStrand ci e f).clk = s.clk := rfl
@[simp] theorem State.updStrand_mem (s : State) (ci : Nat) (e : Eng) (f : Strand → Strand) : (s.updStrand ci e f).mem = s.mem := rfl
@[simp] theorem State.updStrand_poison (s : State) (ci : Nat) (e : Eng) (f : Strand → Strand) : (s.updStrand ci e f).poison = s.poison := rfl
@[simp] theorem State.updStrand_watched (s : State) (ci : Nat) (e : Eng) (f : Strand → Strand) : (s.updStrand ci e f).watched = s.watched := rfl
@[simp] theorem State.updStrand_homes (s : State) (ci : Nat) (e : Eng) (f : Strand → Strand) : (s.updStrand ci e f).homes = s.homes := rfl
@[simp] theorem State.updStrand_reqs (s : State) (ci : Nat) (e : Eng) (f : Strand → Strand) : (s.updStrand ci e f).reqs = s.reqs := rfl
@[simp] theorem State.updStrand_lists (s : State) (ci : Nat) (e : Eng) (f : Strand → Strand) : (s.updStrand ci e f).lists = s.lists := rfl
@[simp] theorem State.updStrand_keys (s : State) (ci : Nat) (e : Eng) (f : Strand → Strand) : (s.updStrand ci e f).keys = s.keys := rfl
@[simp] theorem State.updStrand_outbox (s : State) (ci : Nat) (e : Eng) (f : Strand → Strand) : (s.updStrand ci e f).outbox = s.outbox := rfl
@[simp] theorem State.updStrand_dies (s : State) (ci : Nat) (e : Eng) (f : Strand → Strand) : (s.updStrand ci e f).dies = s.dies := rfl
@[simp] theorem State.updStrand_clusters (s : State) (ci : Nat) (e : Eng) (f : Strand → Strand) : (s.updStrand ci e f).clusters = s.clusters := rfl
@[simp] theorem State.updStrand_fw (s : State) (ci : Nat) (e : Eng) (f : Strand → Strand) : (s.updStrand ci e f).fw = s.fw := rfl
@[simp] theorem State.updStrand_mgmt (s : State) (ci : Nat) (e : Eng) (f : Strand → Strand) : (s.updStrand ci e f).mgmt = s.mgmt := rfl
@[simp] theorem State.updStrand_agenda (s : State) (ci : Nat) (e : Eng) (f : Strand → Strand) : (s.updStrand ci e f).agenda = s.agenda := rfl
@[simp] theorem State.updStrand_actor (s : State) (ci : Nat) (e : Eng) (f : Strand → Strand) : (s.updStrand ci e f).actor = s.actor := rfl
@[simp] theorem State.updStrand_freeIx (s : State) (ci : Nat) (e : Eng) (f : Strand → Strand) : (s.updStrand ci e f).freeIx = s.freeIx := rfl

@[simp] theorem State.mapCores_clk (s : State) (p : Core → Bool) (f : Core → Core) : (s.mapCores p f).clk = s.clk := rfl
@[simp] theorem State.mapCores_mem (s : State) (p : Core → Bool) (f : Core → Core) : (s.mapCores p f).mem = s.mem := rfl
@[simp] theorem State.mapCores_poison (s : State) (p : Core → Bool) (f : Core → Core) : (s.mapCores p f).poison = s.poison := rfl
@[simp] theorem State.mapCores_watched (s : State) (p : Core → Bool) (f : Core → Core) : (s.mapCores p f).watched = s.watched := rfl
@[simp] theorem State.mapCores_homes (s : State) (p : Core → Bool) (f : Core → Core) : (s.mapCores p f).homes = s.homes := rfl
@[simp] theorem State.mapCores_reqs (s : State) (p : Core → Bool) (f : Core → Core) : (s.mapCores p f).reqs = s.reqs := rfl
@[simp] theorem State.mapCores_lists (s : State) (p : Core → Bool) (f : Core → Core) : (s.mapCores p f).lists = s.lists := rfl
@[simp] theorem State.mapCores_keys (s : State) (p : Core → Bool) (f : Core → Core) : (s.mapCores p f).keys = s.keys := rfl
@[simp] theorem State.mapCores_outbox (s : State) (p : Core → Bool) (f : Core → Core) : (s.mapCores p f).outbox = s.outbox := rfl
@[simp] theorem State.mapCores_dies (s : State) (p : Core → Bool) (f : Core → Core) : (s.mapCores p f).dies = s.dies := rfl
@[simp] theorem State.mapCores_clusters (s : State) (p : Core → Bool) (f : Core → Core) : (s.mapCores p f).clusters = s.clusters := rfl
@[simp] theorem State.mapCores_fw (s : State) (p : Core → Bool) (f : Core → Core) : (s.mapCores p f).fw = s.fw := rfl
@[simp] theorem State.mapCores_mgmt (s : State) (p : Core → Bool) (f : Core → Core) : (s.mapCores p f).mgmt = s.mgmt := rfl
@[simp] theorem State.mapCores_agenda (s : State) (p : Core → Bool) (f : Core → Core) : (s.mapCores p f).agenda = s.agenda := rfl
@[simp] theorem State.mapCores_actor (s : State) (p : Core → Bool) (f : Core → Core) : (s.mapCores p f).actor = s.actor := rfl
@[simp] theorem State.mapCores_freeIx (s : State) (p : Core → Bool) (f : Core → Core) : (s.mapCores p f).freeIx = s.freeIx := rfl

@[simp] theorem State.waitOn_clk (s : State) (ci : Nat) (e : Eng) (w : Wait) : (s.waitOn ci e w).clk = s.clk := rfl
@[simp] theorem State.waitOn_mem (s : State) (ci : Nat) (e : Eng) (w : Wait) : (s.waitOn ci e w).mem = s.mem := rfl
@[simp] theorem State.waitOn_poison (s : State) (ci : Nat) (e : Eng) (w : Wait) : (s.waitOn ci e w).poison = s.poison := rfl
@[simp] theorem State.waitOn_watched (s : State) (ci : Nat) (e : Eng) (w : Wait) : (s.waitOn ci e w).watched = s.watched := rfl
@[simp] theorem State.waitOn_homes (s : State) (ci : Nat) (e : Eng) (w : Wait) : (s.waitOn ci e w).homes = s.homes := rfl
@[simp] theorem State.waitOn_reqs (s : State) (ci : Nat) (e : Eng) (w : Wait) : (s.waitOn ci e w).reqs = s.reqs := rfl
@[simp] theorem State.waitOn_lists (s : State) (ci : Nat) (e : Eng) (w : Wait) : (s.waitOn ci e w).lists = s.lists := rfl
@[simp] theorem State.waitOn_keys (s : State) (ci : Nat) (e : Eng) (w : Wait) : (s.waitOn ci e w).keys = s.keys := rfl
@[simp] theorem State.waitOn_outbox (s : State) (ci : Nat) (e : Eng) (w : Wait) : (s.waitOn ci e w).outbox = s.outbox := rfl
@[simp] theorem State.waitOn_dies (s : State) (ci : Nat) (e : Eng) (w : Wait) : (s.waitOn ci e w).dies = s.dies := rfl
@[simp] theorem State.waitOn_clusters (s : State) (ci : Nat) (e : Eng) (w : Wait) : (s.waitOn ci e w).clusters = s.clusters := rfl
@[simp] theorem State.waitOn_fw (s : State) (ci : Nat) (e : Eng) (w : Wait) : (s.waitOn ci e w).fw = s.fw := rfl
@[simp] theorem State.waitOn_mgmt (s : State) (ci : Nat) (e : Eng) (w : Wait) : (s.waitOn ci e w).mgmt = s.mgmt := rfl
@[simp] theorem State.waitOn_agenda (s : State) (ci : Nat) (e : Eng) (w : Wait) : (s.waitOn ci e w).agenda = s.agenda := rfl
@[simp] theorem State.waitOn_actor (s : State) (ci : Nat) (e : Eng) (w : Wait) : (s.waitOn ci e w).actor = s.actor := rfl
@[simp] theorem State.waitOn_freeIx (s : State) (ci : Nat) (e : Eng) (w : Wait) : (s.waitOn ci e w).freeIx = s.freeIx := rfl

@[simp] theorem State.takeTrap_clk (s : State) (ci src : Nat) (who : Option Eng) (x : TrapInfo) : (s.takeTrap ci src who x).clk = s.clk := rfl
@[simp] theorem State.takeTrap_mem (s : State) (ci src : Nat) (who : Option Eng) (x : TrapInfo) : (s.takeTrap ci src who x).mem = s.mem := rfl
@[simp] theorem State.takeTrap_poison (s : State) (ci src : Nat) (who : Option Eng) (x : TrapInfo) : (s.takeTrap ci src who x).poison = s.poison := rfl
@[simp] theorem State.takeTrap_watched (s : State) (ci src : Nat) (who : Option Eng) (x : TrapInfo) : (s.takeTrap ci src who x).watched = s.watched := rfl
@[simp] theorem State.takeTrap_homes (s : State) (ci src : Nat) (who : Option Eng) (x : TrapInfo) : (s.takeTrap ci src who x).homes = s.homes := rfl
@[simp] theorem State.takeTrap_reqs (s : State) (ci src : Nat) (who : Option Eng) (x : TrapInfo) : (s.takeTrap ci src who x).reqs = s.reqs := rfl
@[simp] theorem State.takeTrap_lists (s : State) (ci src : Nat) (who : Option Eng) (x : TrapInfo) : (s.takeTrap ci src who x).lists = s.lists := rfl
@[simp] theorem State.takeTrap_keys (s : State) (ci src : Nat) (who : Option Eng) (x : TrapInfo) : (s.takeTrap ci src who x).keys = s.keys := rfl
@[simp] theorem State.takeTrap_outbox (s : State) (ci src : Nat) (who : Option Eng) (x : TrapInfo) : (s.takeTrap ci src who x).outbox = s.outbox := rfl
@[simp] theorem State.takeTrap_dies (s : State) (ci src : Nat) (who : Option Eng) (x : TrapInfo) : (s.takeTrap ci src who x).dies = s.dies := rfl
@[simp] theorem State.takeTrap_clusters (s : State) (ci src : Nat) (who : Option Eng) (x : TrapInfo) : (s.takeTrap ci src who x).clusters = s.clusters := rfl
@[simp] theorem State.takeTrap_fw (s : State) (ci src : Nat) (who : Option Eng) (x : TrapInfo) : (s.takeTrap ci src who x).fw = s.fw := rfl
@[simp] theorem State.takeTrap_mgmt (s : State) (ci src : Nat) (who : Option Eng) (x : TrapInfo) : (s.takeTrap ci src who x).mgmt = s.mgmt := rfl
@[simp] theorem State.takeTrap_agenda (s : State) (ci src : Nat) (who : Option Eng) (x : TrapInfo) : (s.takeTrap ci src who x).agenda = s.agenda := rfl
@[simp] theorem State.takeTrap_actor (s : State) (ci src : Nat) (who : Option Eng) (x : TrapInfo) : (s.takeTrap ci src who x).actor = s.actor := rfl
@[simp] theorem State.takeTrap_freeIx (s : State) (ci src : Nat) (who : Option Eng) (x : TrapInfo) : (s.takeTrap ci src who x).freeIx = s.freeIx := rfl

@[simp] theorem State.updFw_clk (s : State) (f : Firmware → Firmware) : (s.updFw f).clk = s.clk := rfl
@[simp] theorem State.updFw_mem (s : State) (f : Firmware → Firmware) : (s.updFw f).mem = s.mem := rfl
@[simp] theorem State.updFw_poison (s : State) (f : Firmware → Firmware) : (s.updFw f).poison = s.poison := rfl
@[simp] theorem State.updFw_watched (s : State) (f : Firmware → Firmware) : (s.updFw f).watched = s.watched := rfl
@[simp] theorem State.updFw_homes (s : State) (f : Firmware → Firmware) : (s.updFw f).homes = s.homes := rfl
@[simp] theorem State.updFw_reqs (s : State) (f : Firmware → Firmware) : (s.updFw f).reqs = s.reqs := rfl
@[simp] theorem State.updFw_lists (s : State) (f : Firmware → Firmware) : (s.updFw f).lists = s.lists := rfl
@[simp] theorem State.updFw_keys (s : State) (f : Firmware → Firmware) : (s.updFw f).keys = s.keys := rfl
@[simp] theorem State.updFw_outbox (s : State) (f : Firmware → Firmware) : (s.updFw f).outbox = s.outbox := rfl
@[simp] theorem State.updFw_dies (s : State) (f : Firmware → Firmware) : (s.updFw f).dies = s.dies := rfl
@[simp] theorem State.updFw_clusters (s : State) (f : Firmware → Firmware) : (s.updFw f).clusters = s.clusters := rfl
@[simp] theorem State.updFw_cores (s : State) (f : Firmware → Firmware) : (s.updFw f).cores = s.cores := rfl
@[simp] theorem State.updFw_mgmt (s : State) (f : Firmware → Firmware) : (s.updFw f).mgmt = s.mgmt := rfl
@[simp] theorem State.updFw_agenda (s : State) (f : Firmware → Firmware) : (s.updFw f).agenda = s.agenda := rfl
@[simp] theorem State.updFw_actor (s : State) (f : Firmware → Firmware) : (s.updFw f).actor = s.actor := rfl
@[simp] theorem State.updFw_freeIx (s : State) (f : Firmware → Firmware) : (s.updFw f).freeIx = s.freeIx := rfl

@[simp] theorem State.updTask_clk (s : State) (id : Nat) (f : Task → Task) : (s.updTask id f).clk = s.clk := rfl
@[simp] theorem State.updTask_mem (s : State) (id : Nat) (f : Task → Task) : (s.updTask id f).mem = s.mem := rfl
@[simp] theorem State.updTask_poison (s : State) (id : Nat) (f : Task → Task) : (s.updTask id f).poison = s.poison := rfl
@[simp] theorem State.updTask_watched (s : State) (id : Nat) (f : Task → Task) : (s.updTask id f).watched = s.watched := rfl
@[simp] theorem State.updTask_homes (s : State) (id : Nat) (f : Task → Task) : (s.updTask id f).homes = s.homes := rfl
@[simp] theorem State.updTask_reqs (s : State) (id : Nat) (f : Task → Task) : (s.updTask id f).reqs = s.reqs := rfl
@[simp] theorem State.updTask_lists (s : State) (id : Nat) (f : Task → Task) : (s.updTask id f).lists = s.lists := rfl
@[simp] theorem State.updTask_keys (s : State) (id : Nat) (f : Task → Task) : (s.updTask id f).keys = s.keys := rfl
@[simp] theorem State.updTask_outbox (s : State) (id : Nat) (f : Task → Task) : (s.updTask id f).outbox = s.outbox := rfl
@[simp] theorem State.updTask_dies (s : State) (id : Nat) (f : Task → Task) : (s.updTask id f).dies = s.dies := rfl
@[simp] theorem State.updTask_clusters (s : State) (id : Nat) (f : Task → Task) : (s.updTask id f).clusters = s.clusters := rfl
@[simp] theorem State.updTask_cores (s : State) (id : Nat) (f : Task → Task) : (s.updTask id f).cores = s.cores := rfl
@[simp] theorem State.updTask_mgmt (s : State) (id : Nat) (f : Task → Task) : (s.updTask id f).mgmt = s.mgmt := rfl
@[simp] theorem State.updTask_agenda (s : State) (id : Nat) (f : Task → Task) : (s.updTask id f).agenda = s.agenda := rfl
@[simp] theorem State.updTask_actor (s : State) (id : Nat) (f : Task → Task) : (s.updTask id f).actor = s.actor := rfl
@[simp] theorem State.updTask_freeIx (s : State) (id : Nat) (f : Task → Task) : (s.updTask id f).freeIx = s.freeIx := rfl

@[simp] theorem State.updCtx_clk (s : State) (n : Nat) (f : Context → Context) : (s.updCtx n f).clk = s.clk := rfl
@[simp] theorem State.updCtx_mem (s : State) (n : Nat) (f : Context → Context) : (s.updCtx n f).mem = s.mem := rfl
@[simp] theorem State.updCtx_poison (s : State) (n : Nat) (f : Context → Context) : (s.updCtx n f).poison = s.poison := rfl
@[simp] theorem State.updCtx_watched (s : State) (n : Nat) (f : Context → Context) : (s.updCtx n f).watched = s.watched := rfl
@[simp] theorem State.updCtx_homes (s : State) (n : Nat) (f : Context → Context) : (s.updCtx n f).homes = s.homes := rfl
@[simp] theorem State.updCtx_reqs (s : State) (n : Nat) (f : Context → Context) : (s.updCtx n f).reqs = s.reqs := rfl
@[simp] theorem State.updCtx_lists (s : State) (n : Nat) (f : Context → Context) : (s.updCtx n f).lists = s.lists := rfl
@[simp] theorem State.updCtx_keys (s : State) (n : Nat) (f : Context → Context) : (s.updCtx n f).keys = s.keys := rfl
@[simp] theorem State.updCtx_outbox (s : State) (n : Nat) (f : Context → Context) : (s.updCtx n f).outbox = s.outbox := rfl
@[simp] theorem State.updCtx_dies (s : State) (n : Nat) (f : Context → Context) : (s.updCtx n f).dies = s.dies := rfl
@[simp] theorem State.updCtx_clusters (s : State) (n : Nat) (f : Context → Context) : (s.updCtx n f).clusters = s.clusters := rfl
@[simp] theorem State.updCtx_cores (s : State) (n : Nat) (f : Context → Context) : (s.updCtx n f).cores = s.cores := rfl
@[simp] theorem State.updCtx_mgmt (s : State) (n : Nat) (f : Context → Context) : (s.updCtx n f).mgmt = s.mgmt := rfl
@[simp] theorem State.updCtx_agenda (s : State) (n : Nat) (f : Context → Context) : (s.updCtx n f).agenda = s.agenda := rfl
@[simp] theorem State.updCtx_actor (s : State) (n : Nat) (f : Context → Context) : (s.updCtx n f).actor = s.actor := rfl
@[simp] theorem State.updCtx_freeIx (s : State) (n : Nat) (f : Context → Context) : (s.updCtx n f).freeIx = s.freeIx := rfl

@[simp] theorem State.updQueue_clk (s : State) (q : Nat) (f : Queue → Queue) : (s.updQueue q f).clk = s.clk := rfl
@[simp] theorem State.updQueue_mem (s : State) (q : Nat) (f : Queue → Queue) : (s.updQueue q f).mem = s.mem := rfl
@[simp] theorem State.updQueue_poison (s : State) (q : Nat) (f : Queue → Queue) : (s.updQueue q f).poison = s.poison := rfl
@[simp] theorem State.updQueue_watched (s : State) (q : Nat) (f : Queue → Queue) : (s.updQueue q f).watched = s.watched := rfl
@[simp] theorem State.updQueue_homes (s : State) (q : Nat) (f : Queue → Queue) : (s.updQueue q f).homes = s.homes := rfl
@[simp] theorem State.updQueue_reqs (s : State) (q : Nat) (f : Queue → Queue) : (s.updQueue q f).reqs = s.reqs := rfl
@[simp] theorem State.updQueue_lists (s : State) (q : Nat) (f : Queue → Queue) : (s.updQueue q f).lists = s.lists := rfl
@[simp] theorem State.updQueue_keys (s : State) (q : Nat) (f : Queue → Queue) : (s.updQueue q f).keys = s.keys := rfl
@[simp] theorem State.updQueue_outbox (s : State) (q : Nat) (f : Queue → Queue) : (s.updQueue q f).outbox = s.outbox := rfl
@[simp] theorem State.updQueue_dies (s : State) (q : Nat) (f : Queue → Queue) : (s.updQueue q f).dies = s.dies := rfl
@[simp] theorem State.updQueue_clusters (s : State) (q : Nat) (f : Queue → Queue) : (s.updQueue q f).clusters = s.clusters := rfl
@[simp] theorem State.updQueue_cores (s : State) (q : Nat) (f : Queue → Queue) : (s.updQueue q f).cores = s.cores := rfl
@[simp] theorem State.updQueue_mgmt (s : State) (q : Nat) (f : Queue → Queue) : (s.updQueue q f).mgmt = s.mgmt := rfl
@[simp] theorem State.updQueue_agenda (s : State) (q : Nat) (f : Queue → Queue) : (s.updQueue q f).agenda = s.agenda := rfl
@[simp] theorem State.updQueue_actor (s : State) (q : Nat) (f : Queue → Queue) : (s.updQueue q f).actor = s.actor := rfl
@[simp] theorem State.updQueue_freeIx (s : State) (q : Nat) (f : Queue → Queue) : (s.updQueue q f).freeIx = s.freeIx := rfl

@[simp] theorem State.addLate_clk (s : State) (task n : Nat) : (s.addLate task n).clk = s.clk := rfl
@[simp] theorem State.addLate_mem (s : State) (task n : Nat) : (s.addLate task n).mem = s.mem := rfl
@[simp] theorem State.addLate_poison (s : State) (task n : Nat) : (s.addLate task n).poison = s.poison := rfl
@[simp] theorem State.addLate_watched (s : State) (task n : Nat) : (s.addLate task n).watched = s.watched := rfl
@[simp] theorem State.addLate_homes (s : State) (task n : Nat) : (s.addLate task n).homes = s.homes := rfl
@[simp] theorem State.addLate_reqs (s : State) (task n : Nat) : (s.addLate task n).reqs = s.reqs := rfl
@[simp] theorem State.addLate_lists (s : State) (task n : Nat) : (s.addLate task n).lists = s.lists := rfl
@[simp] theorem State.addLate_keys (s : State) (task n : Nat) : (s.addLate task n).keys = s.keys := rfl
@[simp] theorem State.addLate_outbox (s : State) (task n : Nat) : (s.addLate task n).outbox = s.outbox := rfl
@[simp] theorem State.addLate_dies (s : State) (task n : Nat) : (s.addLate task n).dies = s.dies := rfl
@[simp] theorem State.addLate_clusters (s : State) (task n : Nat) : (s.addLate task n).clusters = s.clusters := rfl
@[simp] theorem State.addLate_cores (s : State) (task n : Nat) : (s.addLate task n).cores = s.cores := rfl
@[simp] theorem State.addLate_mgmt (s : State) (task n : Nat) : (s.addLate task n).mgmt = s.mgmt := rfl
@[simp] theorem State.addLate_agenda (s : State) (task n : Nat) : (s.addLate task n).agenda = s.agenda := rfl
@[simp] theorem State.addLate_actor (s : State) (task n : Nat) : (s.addLate task n).actor = s.actor := rfl
@[simp] theorem State.addLate_freeIx (s : State) (task n : Nat) : (s.addLate task n).freeIx = s.freeIx := rfl

@[simp] theorem State.updMgmt_clk (s : State) (f : Mgmt → Mgmt) : (s.updMgmt f).clk = s.clk := rfl
@[simp] theorem State.updMgmt_mem (s : State) (f : Mgmt → Mgmt) : (s.updMgmt f).mem = s.mem := rfl
@[simp] theorem State.updMgmt_poison (s : State) (f : Mgmt → Mgmt) : (s.updMgmt f).poison = s.poison := rfl
@[simp] theorem State.updMgmt_watched (s : State) (f : Mgmt → Mgmt) : (s.updMgmt f).watched = s.watched := rfl
@[simp] theorem State.updMgmt_homes (s : State) (f : Mgmt → Mgmt) : (s.updMgmt f).homes = s.homes := rfl
@[simp] theorem State.updMgmt_reqs (s : State) (f : Mgmt → Mgmt) : (s.updMgmt f).reqs = s.reqs := rfl
@[simp] theorem State.updMgmt_lists (s : State) (f : Mgmt → Mgmt) : (s.updMgmt f).lists = s.lists := rfl
@[simp] theorem State.updMgmt_keys (s : State) (f : Mgmt → Mgmt) : (s.updMgmt f).keys = s.keys := rfl
@[simp] theorem State.updMgmt_outbox (s : State) (f : Mgmt → Mgmt) : (s.updMgmt f).outbox = s.outbox := rfl
@[simp] theorem State.updMgmt_dies (s : State) (f : Mgmt → Mgmt) : (s.updMgmt f).dies = s.dies := rfl
@[simp] theorem State.updMgmt_clusters (s : State) (f : Mgmt → Mgmt) : (s.updMgmt f).clusters = s.clusters := rfl
@[simp] theorem State.updMgmt_cores (s : State) (f : Mgmt → Mgmt) : (s.updMgmt f).cores = s.cores := rfl
@[simp] theorem State.updMgmt_fw (s : State) (f : Mgmt → Mgmt) : (s.updMgmt f).fw = s.fw := rfl
@[simp] theorem State.updMgmt_agenda (s : State) (f : Mgmt → Mgmt) : (s.updMgmt f).agenda = s.agenda := rfl
@[simp] theorem State.updMgmt_actor (s : State) (f : Mgmt → Mgmt) : (s.updMgmt f).actor = s.actor := rfl
@[simp] theorem State.updMgmt_freeIx (s : State) (f : Mgmt → Mgmt) : (s.updMgmt f).freeIx = s.freeIx := rfl

@[simp] theorem State.updCluster_clk (s : State) (cl : Nat) (f : Cluster → Cluster) : (s.updCluster cl f).clk = s.clk := rfl
@[simp] theorem State.updCluster_mem (s : State) (cl : Nat) (f : Cluster → Cluster) : (s.updCluster cl f).mem = s.mem := rfl
@[simp] theorem State.updCluster_poison (s : State) (cl : Nat) (f : Cluster → Cluster) : (s.updCluster cl f).poison = s.poison := rfl
@[simp] theorem State.updCluster_watched (s : State) (cl : Nat) (f : Cluster → Cluster) : (s.updCluster cl f).watched = s.watched := rfl
@[simp] theorem State.updCluster_homes (s : State) (cl : Nat) (f : Cluster → Cluster) : (s.updCluster cl f).homes = s.homes := rfl
@[simp] theorem State.updCluster_reqs (s : State) (cl : Nat) (f : Cluster → Cluster) : (s.updCluster cl f).reqs = s.reqs := rfl
@[simp] theorem State.updCluster_lists (s : State) (cl : Nat) (f : Cluster → Cluster) : (s.updCluster cl f).lists = s.lists := rfl
@[simp] theorem State.updCluster_keys (s : State) (cl : Nat) (f : Cluster → Cluster) : (s.updCluster cl f).keys = s.keys := rfl
@[simp] theorem State.updCluster_outbox (s : State) (cl : Nat) (f : Cluster → Cluster) : (s.updCluster cl f).outbox = s.outbox := rfl
@[simp] theorem State.updCluster_dies (s : State) (cl : Nat) (f : Cluster → Cluster) : (s.updCluster cl f).dies = s.dies := rfl
@[simp] theorem State.updCluster_cores (s : State) (cl : Nat) (f : Cluster → Cluster) : (s.updCluster cl f).cores = s.cores := rfl
@[simp] theorem State.updCluster_fw (s : State) (cl : Nat) (f : Cluster → Cluster) : (s.updCluster cl f).fw = s.fw := rfl
@[simp] theorem State.updCluster_mgmt (s : State) (cl : Nat) (f : Cluster → Cluster) : (s.updCluster cl f).mgmt = s.mgmt := rfl
@[simp] theorem State.updCluster_agenda (s : State) (cl : Nat) (f : Cluster → Cluster) : (s.updCluster cl f).agenda = s.agenda := rfl
@[simp] theorem State.updCluster_actor (s : State) (cl : Nat) (f : Cluster → Cluster) : (s.updCluster cl f).actor = s.actor := rfl
@[simp] theorem State.updCluster_freeIx (s : State) (cl : Nat) (f : Cluster → Cluster) : (s.updCluster cl f).freeIx = s.freeIx := rfl

@[simp] theorem State.setMem_clk (s : State) (cs : List Host.Cell) : (s.setMem cs).clk = s.clk := rfl
@[simp] theorem State.setMem_poison (s : State) (cs : List Host.Cell) : (s.setMem cs).poison = s.poison := rfl
@[simp] theorem State.setMem_homes (s : State) (cs : List Host.Cell) : (s.setMem cs).homes = s.homes := rfl
@[simp] theorem State.setMem_reqs (s : State) (cs : List Host.Cell) : (s.setMem cs).reqs = s.reqs := rfl
@[simp] theorem State.setMem_lists (s : State) (cs : List Host.Cell) : (s.setMem cs).lists = s.lists := rfl
@[simp] theorem State.setMem_keys (s : State) (cs : List Host.Cell) : (s.setMem cs).keys = s.keys := rfl
@[simp] theorem State.setMem_outbox (s : State) (cs : List Host.Cell) : (s.setMem cs).outbox = s.outbox := rfl
@[simp] theorem State.setMem_dies (s : State) (cs : List Host.Cell) : (s.setMem cs).dies = s.dies := rfl
@[simp] theorem State.setMem_clusters (s : State) (cs : List Host.Cell) : (s.setMem cs).clusters = s.clusters := rfl
@[simp] theorem State.setMem_cores (s : State) (cs : List Host.Cell) : (s.setMem cs).cores = s.cores := rfl
@[simp] theorem State.setMem_fw (s : State) (cs : List Host.Cell) : (s.setMem cs).fw = s.fw := rfl
@[simp] theorem State.setMem_mgmt (s : State) (cs : List Host.Cell) : (s.setMem cs).mgmt = s.mgmt := rfl
@[simp] theorem State.setMem_agenda (s : State) (cs : List Host.Cell) : (s.setMem cs).agenda = s.agenda := rfl
@[simp] theorem State.setMem_actor (s : State) (cs : List Host.Cell) : (s.setMem cs).actor = s.actor := rfl
@[simp] theorem State.setMem_freeIx (s : State) (cs : List Host.Cell) : (s.setMem cs).freeIx = s.freeIx := rfl
@[simp] theorem State.setMem_mem (s : State) (cs : List Host.Cell) : (s.setMem cs).mem = writeCells s.mem cs := rfl

@[simp] theorem State.store_clk (s : State) (cs : List Host.Cell) : (s.store cs).clk = s.clk := rfl
@[simp] theorem State.store_homes (s : State) (cs : List Host.Cell) : (s.store cs).homes = s.homes := rfl
@[simp] theorem State.store_reqs (s : State) (cs : List Host.Cell) : (s.store cs).reqs = s.reqs := rfl
@[simp] theorem State.store_lists (s : State) (cs : List Host.Cell) : (s.store cs).lists = s.lists := rfl
@[simp] theorem State.store_keys (s : State) (cs : List Host.Cell) : (s.store cs).keys = s.keys := rfl
@[simp] theorem State.store_outbox (s : State) (cs : List Host.Cell) : (s.store cs).outbox = s.outbox := rfl
@[simp] theorem State.store_dies (s : State) (cs : List Host.Cell) : (s.store cs).dies = s.dies := rfl
@[simp] theorem State.store_clusters (s : State) (cs : List Host.Cell) : (s.store cs).clusters = s.clusters := rfl
@[simp] theorem State.store_cores (s : State) (cs : List Host.Cell) : (s.store cs).cores = s.cores := rfl
@[simp] theorem State.store_fw (s : State) (cs : List Host.Cell) : (s.store cs).fw = s.fw := rfl
@[simp] theorem State.store_mgmt (s : State) (cs : List Host.Cell) : (s.store cs).mgmt = s.mgmt := rfl
@[simp] theorem State.store_agenda (s : State) (cs : List Host.Cell) : (s.store cs).agenda = s.agenda := rfl
@[simp] theorem State.store_actor (s : State) (cs : List Host.Cell) : (s.store cs).actor = s.actor := rfl
@[simp] theorem State.store_freeIx (s : State) (cs : List Host.Cell) : (s.store cs).freeIx = s.freeIx := rfl

@[simp] theorem State.coverClear_clk (s : State) (as : List Nat) : (s.coverClear as).clk = s.clk := rfl
@[simp] theorem State.coverClear_mem (s : State) (as : List Nat) : (s.coverClear as).mem = s.mem := rfl
@[simp] theorem State.coverClear_watched (s : State) (as : List Nat) : (s.coverClear as).watched = s.watched := rfl
@[simp] theorem State.coverClear_homes (s : State) (as : List Nat) : (s.coverClear as).homes = s.homes := rfl
@[simp] theorem State.coverClear_reqs (s : State) (as : List Nat) : (s.coverClear as).reqs = s.reqs := rfl
@[simp] theorem State.coverClear_lists (s : State) (as : List Nat) : (s.coverClear as).lists = s.lists := rfl
@[simp] theorem State.coverClear_keys (s : State) (as : List Nat) : (s.coverClear as).keys = s.keys := rfl
@[simp] theorem State.coverClear_outbox (s : State) (as : List Nat) : (s.coverClear as).outbox = s.outbox := rfl
@[simp] theorem State.coverClear_dies (s : State) (as : List Nat) : (s.coverClear as).dies = s.dies := rfl
@[simp] theorem State.coverClear_clusters (s : State) (as : List Nat) : (s.coverClear as).clusters = s.clusters := rfl
@[simp] theorem State.coverClear_cores (s : State) (as : List Nat) : (s.coverClear as).cores = s.cores := rfl
@[simp] theorem State.coverClear_fw (s : State) (as : List Nat) : (s.coverClear as).fw = s.fw := rfl
@[simp] theorem State.coverClear_mgmt (s : State) (as : List Nat) : (s.coverClear as).mgmt = s.mgmt := rfl
@[simp] theorem State.coverClear_agenda (s : State) (as : List Nat) : (s.coverClear as).agenda = s.agenda := rfl
@[simp] theorem State.coverClear_actor (s : State) (as : List Nat) : (s.coverClear as).actor = s.actor := rfl
@[simp] theorem State.coverClear_freeIx (s : State) (as : List Nat) : (s.coverClear as).freeIx = s.freeIx := rfl

@[simp] theorem State.unmark_clk (s : State) (g : Nat) : (s.unmark g).clk = s.clk := rfl
@[simp] theorem State.unmark_mem (s : State) (g : Nat) : (s.unmark g).mem = s.mem := rfl
@[simp] theorem State.unmark_watched (s : State) (g : Nat) : (s.unmark g).watched = s.watched := rfl
@[simp] theorem State.unmark_homes (s : State) (g : Nat) : (s.unmark g).homes = s.homes := rfl
@[simp] theorem State.unmark_reqs (s : State) (g : Nat) : (s.unmark g).reqs = s.reqs := rfl
@[simp] theorem State.unmark_lists (s : State) (g : Nat) : (s.unmark g).lists = s.lists := rfl
@[simp] theorem State.unmark_keys (s : State) (g : Nat) : (s.unmark g).keys = s.keys := rfl
@[simp] theorem State.unmark_outbox (s : State) (g : Nat) : (s.unmark g).outbox = s.outbox := rfl
@[simp] theorem State.unmark_dies (s : State) (g : Nat) : (s.unmark g).dies = s.dies := rfl
@[simp] theorem State.unmark_clusters (s : State) (g : Nat) : (s.unmark g).clusters = s.clusters := rfl
@[simp] theorem State.unmark_cores (s : State) (g : Nat) : (s.unmark g).cores = s.cores := rfl
@[simp] theorem State.unmark_fw (s : State) (g : Nat) : (s.unmark g).fw = s.fw := rfl
@[simp] theorem State.unmark_mgmt (s : State) (g : Nat) : (s.unmark g).mgmt = s.mgmt := rfl
@[simp] theorem State.unmark_agenda (s : State) (g : Nat) : (s.unmark g).agenda = s.agenda := rfl
@[simp] theorem State.unmark_actor (s : State) (g : Nat) : (s.unmark g).actor = s.actor := rfl
@[simp] theorem State.unmark_freeIx (s : State) (g : Nat) : (s.unmark g).freeIx = s.freeIx := rfl

@[simp] theorem State.pass_mem (s : State) (dt : Nat) : (s.pass dt).mem = s.mem := rfl
@[simp] theorem State.pass_poison (s : State) (dt : Nat) : (s.pass dt).poison = s.poison := rfl
@[simp] theorem State.pass_watched (s : State) (dt : Nat) : (s.pass dt).watched = s.watched := rfl
@[simp] theorem State.pass_homes (s : State) (dt : Nat) : (s.pass dt).homes = s.homes := rfl
@[simp] theorem State.pass_lists (s : State) (dt : Nat) : (s.pass dt).lists = s.lists := rfl
@[simp] theorem State.pass_keys (s : State) (dt : Nat) : (s.pass dt).keys = s.keys := rfl
@[simp] theorem State.pass_outbox (s : State) (dt : Nat) : (s.pass dt).outbox = s.outbox := rfl
@[simp] theorem State.pass_clusters (s : State) (dt : Nat) : (s.pass dt).clusters = s.clusters := rfl
@[simp] theorem State.pass_cores (s : State) (dt : Nat) : (s.pass dt).cores = s.cores := rfl
@[simp] theorem State.pass_mgmt (s : State) (dt : Nat) : (s.pass dt).mgmt = s.mgmt := rfl
@[simp] theorem State.pass_agenda (s : State) (dt : Nat) : (s.pass dt).agenda = s.agenda := rfl
@[simp] theorem State.pass_actor (s : State) (dt : Nat) : (s.pass dt).actor = s.actor := rfl
@[simp] theorem State.pass_freeIx (s : State) (dt : Nat) : (s.pass dt).freeIx = s.freeIx := rfl
@[simp] theorem State.pass_reqs (s : State) (dt : Nat) : (s.pass dt).reqs = s.reqs.map (fun r => r.age (s.clk + dt)) := rfl

@[simp] theorem State.updScan_clk (s : State) (ci g : Nat) (f : ScanIx → ScanIx) : (s.updScan ci g f).clk = s.clk := rfl
@[simp] theorem State.updScan_mem (s : State) (ci g : Nat) (f : ScanIx → ScanIx) : (s.updScan ci g f).mem = s.mem := rfl
@[simp] theorem State.updScan_poison (s : State) (ci g : Nat) (f : ScanIx → ScanIx) : (s.updScan ci g f).poison = s.poison := rfl
@[simp] theorem State.updScan_watched (s : State) (ci g : Nat) (f : ScanIx → ScanIx) : (s.updScan ci g f).watched = s.watched := rfl
@[simp] theorem State.updScan_homes (s : State) (ci g : Nat) (f : ScanIx → ScanIx) : (s.updScan ci g f).homes = s.homes := rfl
@[simp] theorem State.updScan_reqs (s : State) (ci g : Nat) (f : ScanIx → ScanIx) : (s.updScan ci g f).reqs = s.reqs := rfl
@[simp] theorem State.updScan_lists (s : State) (ci g : Nat) (f : ScanIx → ScanIx) : (s.updScan ci g f).lists = s.lists := rfl
@[simp] theorem State.updScan_keys (s : State) (ci g : Nat) (f : ScanIx → ScanIx) : (s.updScan ci g f).keys = s.keys := rfl
@[simp] theorem State.updScan_outbox (s : State) (ci g : Nat) (f : ScanIx → ScanIx) : (s.updScan ci g f).outbox = s.outbox := rfl
@[simp] theorem State.updScan_dies (s : State) (ci g : Nat) (f : ScanIx → ScanIx) : (s.updScan ci g f).dies = s.dies := rfl
@[simp] theorem State.updScan_clusters (s : State) (ci g : Nat) (f : ScanIx → ScanIx) : (s.updScan ci g f).clusters = s.clusters := rfl
@[simp] theorem State.updScan_fw (s : State) (ci g : Nat) (f : ScanIx → ScanIx) : (s.updScan ci g f).fw = s.fw := rfl
@[simp] theorem State.updScan_mgmt (s : State) (ci g : Nat) (f : ScanIx → ScanIx) : (s.updScan ci g f).mgmt = s.mgmt := rfl
@[simp] theorem State.updScan_agenda (s : State) (ci g : Nat) (f : ScanIx → ScanIx) : (s.updScan ci g f).agenda = s.agenda := rfl
@[simp] theorem State.updScan_actor (s : State) (ci g : Nat) (f : ScanIx → ScanIx) : (s.updScan ci g f).actor = s.actor := rfl
@[simp] theorem State.updScan_freeIx (s : State) (ci g : Nat) (f : ScanIx → ScanIx) : (s.updScan ci g f).freeIx = s.freeIx := rfl

@[simp] theorem State.updRoute_clk (s : State) (ci rt : Nat) (f : Route → Route) : (s.updRoute ci rt f).clk = s.clk := rfl
@[simp] theorem State.updRoute_mem (s : State) (ci rt : Nat) (f : Route → Route) : (s.updRoute ci rt f).mem = s.mem := rfl
@[simp] theorem State.updRoute_poison (s : State) (ci rt : Nat) (f : Route → Route) : (s.updRoute ci rt f).poison = s.poison := rfl
@[simp] theorem State.updRoute_watched (s : State) (ci rt : Nat) (f : Route → Route) : (s.updRoute ci rt f).watched = s.watched := rfl
@[simp] theorem State.updRoute_homes (s : State) (ci rt : Nat) (f : Route → Route) : (s.updRoute ci rt f).homes = s.homes := rfl
@[simp] theorem State.updRoute_reqs (s : State) (ci rt : Nat) (f : Route → Route) : (s.updRoute ci rt f).reqs = s.reqs := rfl
@[simp] theorem State.updRoute_lists (s : State) (ci rt : Nat) (f : Route → Route) : (s.updRoute ci rt f).lists = s.lists := rfl
@[simp] theorem State.updRoute_keys (s : State) (ci rt : Nat) (f : Route → Route) : (s.updRoute ci rt f).keys = s.keys := rfl
@[simp] theorem State.updRoute_outbox (s : State) (ci rt : Nat) (f : Route → Route) : (s.updRoute ci rt f).outbox = s.outbox := rfl
@[simp] theorem State.updRoute_dies (s : State) (ci rt : Nat) (f : Route → Route) : (s.updRoute ci rt f).dies = s.dies := rfl
@[simp] theorem State.updRoute_clusters (s : State) (ci rt : Nat) (f : Route → Route) : (s.updRoute ci rt f).clusters = s.clusters := rfl
@[simp] theorem State.updRoute_fw (s : State) (ci rt : Nat) (f : Route → Route) : (s.updRoute ci rt f).fw = s.fw := rfl
@[simp] theorem State.updRoute_mgmt (s : State) (ci rt : Nat) (f : Route → Route) : (s.updRoute ci rt f).mgmt = s.mgmt := rfl
@[simp] theorem State.updRoute_agenda (s : State) (ci rt : Nat) (f : Route → Route) : (s.updRoute ci rt f).agenda = s.agenda := rfl
@[simp] theorem State.updRoute_actor (s : State) (ci rt : Nat) (f : Route → Route) : (s.updRoute ci rt f).actor = s.actor := rfl
@[simp] theorem State.updRoute_freeIx (s : State) (ci rt : Nat) (f : Route → Route) : (s.updRoute ci rt f).freeIx = s.freeIx := rfl

@[simp] theorem State.updUnit_clk (s : State) (cl u : Nat) (f : TransUnit → TransUnit) : (s.updUnit cl u f).clk = s.clk := rfl
@[simp] theorem State.updUnit_mem (s : State) (cl u : Nat) (f : TransUnit → TransUnit) : (s.updUnit cl u f).mem = s.mem := rfl
@[simp] theorem State.updUnit_poison (s : State) (cl u : Nat) (f : TransUnit → TransUnit) : (s.updUnit cl u f).poison = s.poison := rfl
@[simp] theorem State.updUnit_watched (s : State) (cl u : Nat) (f : TransUnit → TransUnit) : (s.updUnit cl u f).watched = s.watched := rfl
@[simp] theorem State.updUnit_homes (s : State) (cl u : Nat) (f : TransUnit → TransUnit) : (s.updUnit cl u f).homes = s.homes := rfl
@[simp] theorem State.updUnit_reqs (s : State) (cl u : Nat) (f : TransUnit → TransUnit) : (s.updUnit cl u f).reqs = s.reqs := rfl
@[simp] theorem State.updUnit_lists (s : State) (cl u : Nat) (f : TransUnit → TransUnit) : (s.updUnit cl u f).lists = s.lists := rfl
@[simp] theorem State.updUnit_keys (s : State) (cl u : Nat) (f : TransUnit → TransUnit) : (s.updUnit cl u f).keys = s.keys := rfl
@[simp] theorem State.updUnit_outbox (s : State) (cl u : Nat) (f : TransUnit → TransUnit) : (s.updUnit cl u f).outbox = s.outbox := rfl
@[simp] theorem State.updUnit_dies (s : State) (cl u : Nat) (f : TransUnit → TransUnit) : (s.updUnit cl u f).dies = s.dies := rfl
@[simp] theorem State.updUnit_cores (s : State) (cl u : Nat) (f : TransUnit → TransUnit) : (s.updUnit cl u f).cores = s.cores := rfl
@[simp] theorem State.updUnit_fw (s : State) (cl u : Nat) (f : TransUnit → TransUnit) : (s.updUnit cl u f).fw = s.fw := rfl
@[simp] theorem State.updUnit_mgmt (s : State) (cl u : Nat) (f : TransUnit → TransUnit) : (s.updUnit cl u f).mgmt = s.mgmt := rfl
@[simp] theorem State.updUnit_agenda (s : State) (cl u : Nat) (f : TransUnit → TransUnit) : (s.updUnit cl u f).agenda = s.agenda := rfl
@[simp] theorem State.updUnit_actor (s : State) (cl u : Nat) (f : TransUnit → TransUnit) : (s.updUnit cl u f).actor = s.actor := rfl
@[simp] theorem State.updUnit_freeIx (s : State) (cl u : Nat) (f : TransUnit → TransUnit) : (s.updUnit cl u f).freeIx = s.freeIx := rfl

@[simp] theorem State.mark_clk (s : State) (a : Nat) : (s.mark a).clk = s.clk := by
  unfold State.mark; split <;> rfl
@[simp] theorem State.mark_mem (s : State) (a : Nat) : (s.mark a).mem = s.mem := by
  unfold State.mark; split <;> rfl
@[simp] theorem State.mark_watched (s : State) (a : Nat) : (s.mark a).watched = s.watched := by
  unfold State.mark; split <;> rfl
@[simp] theorem State.mark_homes (s : State) (a : Nat) : (s.mark a).homes = s.homes := by
  unfold State.mark; split <;> rfl
@[simp] theorem State.mark_reqs (s : State) (a : Nat) : (s.mark a).reqs = s.reqs := by
  unfold State.mark; split <;> rfl
@[simp] theorem State.mark_lists (s : State) (a : Nat) : (s.mark a).lists = s.lists := by
  unfold State.mark; split <;> rfl
@[simp] theorem State.mark_keys (s : State) (a : Nat) : (s.mark a).keys = s.keys := by
  unfold State.mark; split <;> rfl
@[simp] theorem State.mark_outbox (s : State) (a : Nat) : (s.mark a).outbox = s.outbox := by
  unfold State.mark; split <;> rfl
@[simp] theorem State.mark_dies (s : State) (a : Nat) : (s.mark a).dies = s.dies := by
  unfold State.mark; split <;> rfl
@[simp] theorem State.mark_clusters (s : State) (a : Nat) : (s.mark a).clusters = s.clusters := by
  unfold State.mark; split <;> rfl
@[simp] theorem State.mark_cores (s : State) (a : Nat) : (s.mark a).cores = s.cores := by
  unfold State.mark; split <;> rfl
@[simp] theorem State.mark_fw (s : State) (a : Nat) : (s.mark a).fw = s.fw := by
  unfold State.mark; split <;> rfl
@[simp] theorem State.mark_mgmt (s : State) (a : Nat) : (s.mark a).mgmt = s.mgmt := by
  unfold State.mark; split <;> rfl
@[simp] theorem State.mark_agenda (s : State) (a : Nat) : (s.mark a).agenda = s.agenda := by
  unfold State.mark; split <;> rfl
@[simp] theorem State.mark_actor (s : State) (a : Nat) : (s.mark a).actor = s.actor := by
  unfold State.mark; split <;> rfl
@[simp] theorem State.mark_freeIx (s : State) (a : Nat) : (s.mark a).freeIx = s.freeIx := by
  unfold State.mark; split <;> rfl

@[simp] theorem Core.setStrand_task (c : Core) (e : Eng) (x : Strand) : (c.setStrand e x).task = c.task := by
  cases e <;> rfl
@[simp] theorem Core.mapStrands_task (c : Core) (f : Strand → Strand) : (c.mapStrands f).task = c.task := rfl
@[simp] theorem Core.setStrand_vcore (c : Core) (e : Eng) (x : Strand) : (c.setStrand e x).vcore = c.vcore := by
  cases e <;> rfl
@[simp] theorem Core.mapStrands_vcore (c : Core) (f : Strand → Strand) : (c.mapStrands f).vcore = c.vcore := rfl
@[simp] theorem Core.setStrand_s (c : Core) (e : Eng) (x : Strand) : (c.setStrand e x).s = c.s := by
  cases e <;> rfl
@[simp] theorem Core.mapStrands_s (c : Core) (f : Strand → Strand) : (c.mapStrands f).s = c.s := rfl
@[simp] theorem Core.setStrand_v (c : Core) (e : Eng) (x : Strand) : (c.setStrand e x).v = c.v := by
  cases e <;> rfl
@[simp] theorem Core.mapStrands_v (c : Core) (f : Strand → Strand) : (c.mapStrands f).v = c.v := rfl
@[simp] theorem Core.setStrand_p (c : Core) (e : Eng) (x : Strand) : (c.setStrand e x).p = c.p := by
  cases e <;> rfl
@[simp] theorem Core.mapStrands_p (c : Core) (f : Strand → Strand) : (c.mapStrands f).p = c.p := rfl
@[simp] theorem Core.setStrand_w (c : Core) (e : Eng) (x : Strand) : (c.setStrand e x).w = c.w := by
  cases e <;> rfl
@[simp] theorem Core.mapStrands_w (c : Core) (f : Strand → Strand) : (c.mapStrands f).w = c.w := rfl
@[simp] theorem Core.setStrand_k (c : Core) (e : Eng) (x : Strand) : (c.setStrand e x).k = c.k := by
  cases e <;> rfl
@[simp] theorem Core.mapStrands_k (c : Core) (f : Strand → Strand) : (c.mapStrands f).k = c.k := rfl
@[simp] theorem Core.setStrand_ft (c : Core) (e : Eng) (x : Strand) : (c.setStrand e x).ft = c.ft := by
  cases e <;> rfl
@[simp] theorem Core.mapStrands_ft (c : Core) (f : Strand → Strand) : (c.mapStrands f).ft = c.ft := rfl
@[simp] theorem Core.setStrand_d (c : Core) (e : Eng) (x : Strand) : (c.setStrand e x).d = c.d := by
  cases e <;> rfl
@[simp] theorem Core.mapStrands_d (c : Core) (f : Strand → Strand) : (c.mapStrands f).d = c.d := rfl
@[simp] theorem Core.setStrand_acc (c : Core) (e : Eng) (x : Strand) : (c.setStrand e x).acc = c.acc := by
  cases e <;> rfl
@[simp] theorem Core.mapStrands_acc (c : Core) (f : Strand → Strand) : (c.mapStrands f).acc = c.acc := rfl
@[simp] theorem Core.setStrand_mmul (c : Core) (e : Eng) (x : Strand) : (c.setStrand e x).mmul = c.mmul := by
  cases e <;> rfl
@[simp] theorem Core.mapStrands_mmul (c : Core) (f : Strand → Strand) : (c.mapStrands f).mmul = c.mmul := rfl
@[simp] theorem Core.setStrand_work (c : Core) (e : Eng) (x : Strand) : (c.setStrand e x).work = c.work := by
  cases e <;> rfl
@[simp] theorem Core.mapStrands_work (c : Core) (f : Strand → Strand) : (c.mapStrands f).work = c.work := rfl
@[simp] theorem Core.setStrand_mbeats (c : Core) (e : Eng) (x : Strand) : (c.setStrand e x).mbeats = c.mbeats := by
  cases e <;> rfl
@[simp] theorem Core.mapStrands_mbeats (c : Core) (f : Strand → Strand) : (c.mapStrands f).mbeats = c.mbeats := rfl
@[simp] theorem Core.setStrand_mread (c : Core) (e : Eng) (x : Strand) : (c.setStrand e x).mread = c.mread := by
  cases e <;> rfl
@[simp] theorem Core.mapStrands_mread (c : Core) (f : Strand → Strand) : (c.mapStrands f).mread = c.mread := rfl
@[simp] theorem Core.setStrand_split (c : Core) (e : Eng) (x : Strand) : (c.setStrand e x).split = c.split := by
  cases e <;> rfl
@[simp] theorem Core.mapStrands_split (c : Core) (f : Strand → Strand) : (c.mapStrands f).split = c.split := rfl
@[simp] theorem Core.setStrand_taken (c : Core) (e : Eng) (x : Strand) : (c.setStrand e x).taken = c.taken := by
  cases e <;> rfl
@[simp] theorem Core.mapStrands_taken (c : Core) (f : Strand → Strand) : (c.mapStrands f).taken = c.taken := rfl
@[simp] theorem Core.setStrand_sown (c : Core) (e : Eng) (x : Strand) : (c.setStrand e x).sown = c.sown := by
  cases e <;> rfl
@[simp] theorem Core.mapStrands_sown (c : Core) (f : Strand → Strand) : (c.mapStrands f).sown = c.sown := rfl
@[simp] theorem Core.setStrand_slipw (c : Core) (e : Eng) (x : Strand) : (c.setStrand e x).slipw = c.slipw := by
  cases e <;> rfl
@[simp] theorem Core.mapStrands_slipw (c : Core) (f : Strand → Strand) : (c.mapStrands f).slipw = c.slipw := rfl
@[simp] theorem Core.setStrand_ftsel (c : Core) (e : Eng) (x : Strand) : (c.setStrand e x).ftsel = c.ftsel := by
  cases e <;> rfl
@[simp] theorem Core.mapStrands_ftsel (c : Core) (f : Strand → Strand) : (c.mapStrands f).ftsel = c.ftsel := rfl
@[simp] theorem Core.setStrand_rseed (c : Core) (e : Eng) (x : Strand) : (c.setStrand e x).rseed = c.rseed := by
  cases e <;> rfl
@[simp] theorem Core.mapStrands_rseed (c : Core) (f : Strand → Strand) : (c.mapStrands f).rseed = c.rseed := rfl
@[simp] theorem Core.setStrand_mprog (c : Core) (e : Eng) (x : Strand) : (c.setStrand e x).mprog = c.mprog := by
  cases e <;> rfl
@[simp] theorem Core.mapStrands_mprog (c : Core) (f : Strand → Strand) : (c.mapStrands f).mprog = c.mprog := rfl
@[simp] theorem Core.setStrand_its (c : Core) (e : Eng) (x : Strand) : (c.setStrand e x).its = c.its := by
  cases e <;> rfl
@[simp] theorem Core.mapStrands_its (c : Core) (f : Strand → Strand) : (c.mapStrands f).its = c.its := rfl
@[simp] theorem Core.setStrand_invA (c : Core) (e : Eng) (x : Strand) : (c.setStrand e x).invA = c.invA := by
  cases e <;> rfl
@[simp] theorem Core.mapStrands_invA (c : Core) (f : Strand → Strand) : (c.mapStrands f).invA = c.invA := rfl
@[simp] theorem Core.setStrand_wlt (c : Core) (e : Eng) (x : Strand) : (c.setStrand e x).wlt = c.wlt := by
  cases e <;> rfl
@[simp] theorem Core.mapStrands_wlt (c : Core) (f : Strand → Strand) : (c.mapStrands f).wlt = c.wlt := rfl
@[simp] theorem Core.setStrand_dm (c : Core) (e : Eng) (x : Strand) : (c.setStrand e x).dm = c.dm := by
  cases e <;> rfl
@[simp] theorem Core.mapStrands_dm (c : Core) (f : Strand → Strand) : (c.mapStrands f).dm = c.dm := rfl
@[simp] theorem Core.setStrand_dmNext (c : Core) (e : Eng) (x : Strand) : (c.setStrand e x).dmNext = c.dmNext := by
  cases e <;> rfl
@[simp] theorem Core.mapStrands_dmNext (c : Core) (f : Strand → Strand) : (c.mapStrands f).dmNext = c.dmNext := rfl
@[simp] theorem Core.setStrand_bars (c : Core) (e : Eng) (x : Strand) : (c.setStrand e x).bars = c.bars := by
  cases e <;> rfl
@[simp] theorem Core.mapStrands_bars (c : Core) (f : Strand → Strand) : (c.mapStrands f).bars = c.bars := rfl
@[simp] theorem Core.setStrand_scans (c : Core) (e : Eng) (x : Strand) : (c.setStrand e x).scans = c.scans := by
  cases e <;> rfl
@[simp] theorem Core.mapStrands_scans (c : Core) (f : Strand → Strand) : (c.mapStrands f).scans = c.scans := rfl
@[simp] theorem Core.setStrand_stages (c : Core) (e : Eng) (x : Strand) : (c.setStrand e x).stages = c.stages := by
  cases e <;> rfl
@[simp] theorem Core.mapStrands_stages (c : Core) (f : Strand → Strand) : (c.mapStrands f).stages = c.stages := rfl
@[simp] theorem Core.setStrand_tls (c : Core) (e : Eng) (x : Strand) : (c.setStrand e x).tls = c.tls := by
  cases e <;> rfl
@[simp] theorem Core.mapStrands_tls (c : Core) (f : Strand → Strand) : (c.mapStrands f).tls = c.tls := rfl
@[simp] theorem Core.setStrand_chans (c : Core) (e : Eng) (x : Strand) : (c.setStrand e x).chans = c.chans := by
  cases e <;> rfl
@[simp] theorem Core.mapStrands_chans (c : Core) (f : Strand → Strand) : (c.mapStrands f).chans = c.chans := rfl
@[simp] theorem Core.setStrand_routes (c : Core) (e : Eng) (x : Strand) : (c.setStrand e x).routes = c.routes := by
  cases e <;> rfl
@[simp] theorem Core.mapStrands_routes (c : Core) (f : Strand → Strand) : (c.mapStrands f).routes = c.routes := rfl
@[simp] theorem Core.setStrand_tokens (c : Core) (e : Eng) (x : Strand) : (c.setStrand e x).tokens = c.tokens := by
  cases e <;> rfl
@[simp] theorem Core.mapStrands_tokens (c : Core) (f : Strand → Strand) : (c.mapStrands f).tokens = c.tokens := rfl
@[simp] theorem Core.setStrand_jump (c : Core) (e : Eng) (x : Strand) : (c.setStrand e x).jump = c.jump := by
  cases e <;> rfl
@[simp] theorem Core.mapStrands_jump (c : Core) (f : Strand → Strand) : (c.mapStrands f).jump = c.jump := rfl
@[simp] theorem Core.setStrand_jumpTaken (c : Core) (e : Eng) (x : Strand) : (c.setStrand e x).jumpTaken = c.jumpTaken := by
  cases e <;> rfl
@[simp] theorem Core.mapStrands_jumpTaken (c : Core) (f : Strand → Strand) : (c.mapStrands f).jumpTaken = c.jumpTaken := rfl
@[simp] theorem Core.setStrand_overlay (c : Core) (e : Eng) (x : Strand) : (c.setStrand e x).overlay = c.overlay := by
  cases e <;> rfl
@[simp] theorem Core.mapStrands_overlay (c : Core) (f : Strand → Strand) : (c.mapStrands f).overlay = c.overlay := rfl
@[simp] theorem Core.setStrand_estim (c : Core) (e : Eng) (x : Strand) : (c.setStrand e x).estim = c.estim := by
  cases e <;> rfl
@[simp] theorem Core.mapStrands_estim (c : Core) (f : Strand → Strand) : (c.mapStrands f).estim = c.estim := rfl
@[simp] theorem Core.setStrand_quiet (c : Core) (e : Eng) (x : Strand) : (c.setStrand e x).quiet = c.quiet := by
  cases e <;> rfl
@[simp] theorem Core.mapStrands_quiet (c : Core) (f : Strand → Strand) : (c.mapStrands f).quiet = c.quiet := rfl
@[simp] theorem Core.setStrand_colls (c : Core) (e : Eng) (x : Strand) : (c.setStrand e x).colls = c.colls := by
  cases e <;> rfl
@[simp] theorem Core.mapStrands_colls (c : Core) (f : Strand → Strand) : (c.mapStrands f).colls = c.colls := rfl
@[simp] theorem Core.setStrand_flights (c : Core) (e : Eng) (x : Strand) : (c.setStrand e x).flights = c.flights := by
  cases e <;> rfl
@[simp] theorem Core.mapStrands_flights (c : Core) (f : Strand → Strand) : (c.mapStrands f).flights = c.flights := rfl
@[simp] theorem Core.setStrand_vnext (c : Core) (e : Eng) (x : Strand) : (c.setStrand e x).vnext = c.vnext := by
  cases e <;> rfl
@[simp] theorem Core.mapStrands_vnext (c : Core) (f : Strand → Strand) : (c.mapStrands f).vnext = c.vnext := rfl
@[simp] theorem Core.setStrand_tlb (c : Core) (e : Eng) (x : Strand) : (c.setStrand e x).tlb = c.tlb := by
  cases e <;> rfl
@[simp] theorem Core.mapStrands_tlb (c : Core) (f : Strand → Strand) : (c.mapStrands f).tlb = c.tlb := rfl
@[simp] theorem Core.setStrand_pins (c : Core) (e : Eng) (x : Strand) : (c.setStrand e x).pins = c.pins := by
  cases e <;> rfl
@[simp] theorem Core.mapStrands_pins (c : Core) (f : Strand → Strand) : (c.mapStrands f).pins = c.pins := rfl
@[simp] theorem Core.setStrand_trapped (c : Core) (e : Eng) (x : Strand) : (c.setStrand e x).trapped = c.trapped := by
  cases e <;> rfl
@[simp] theorem Core.mapStrands_trapped (c : Core) (f : Strand → Strand) : (c.mapStrands f).trapped = c.trapped := rfl
@[simp] theorem Core.setStrand_waitRec (c : Core) (e : Eng) (x : Strand) : (c.setStrand e x).waitRec = c.waitRec := by
  cases e <;> rfl
@[simp] theorem Core.mapStrands_waitRec (c : Core) (f : Strand → Strand) : (c.mapStrands f).waitRec = c.waitRec := rfl
@[simp] theorem Core.setStrand_record (c : Core) (e : Eng) (x : Strand) : (c.setStrand e x).record = c.record := by
  cases e <;> rfl
@[simp] theorem Core.mapStrands_record (c : Core) (f : Strand → Strand) : (c.mapStrands f).record = c.record := rfl
@[simp] theorem Core.setStrand_raised (c : Core) (e : Eng) (x : Strand) : (c.setStrand e x).raised = c.raised := by
  cases e <;> rfl
@[simp] theorem Core.mapStrands_raised (c : Core) (f : Strand → Strand) : (c.mapStrands f).raised = c.raised := rfl
@[simp] theorem Core.setStrand_freeze (c : Core) (e : Eng) (x : Strand) : (c.setStrand e x).freeze = c.freeze := by
  cases e <;> rfl
@[simp] theorem Core.mapStrands_freeze (c : Core) (f : Strand → Strand) : (c.mapStrands f).freeze = c.freeze := rfl
@[simp] theorem Core.setStrand_stopped (c : Core) (e : Eng) (x : Strand) : (c.setStrand e x).stopped = c.stopped := by
  cases e <;> rfl
@[simp] theorem Core.mapStrands_stopped (c : Core) (f : Strand → Strand) : (c.mapStrands f).stopped = c.stopped := rfl
@[simp] theorem Core.setStrand_exited (c : Core) (e : Eng) (x : Strand) : (c.setStrand e x).exited = c.exited := by
  cases e <;> rfl
@[simp] theorem Core.mapStrands_exited (c : Core) (f : Strand → Strand) : (c.mapStrands f).exited = c.exited := rfl
@[simp] theorem Core.setStrand_killed (c : Core) (e : Eng) (x : Strand) : (c.setStrand e x).killed = c.killed := by
  cases e <;> rfl
@[simp] theorem Core.mapStrands_killed (c : Core) (f : Strand → Strand) : (c.mapStrands f).killed = c.killed := rfl
@[simp] theorem Core.setStrand_shared (c : Core) (e : Eng) (x : Strand) : (c.setStrand e x).shared = c.shared := by
  cases e <;> rfl
@[simp] theorem Core.mapStrands_shared (c : Core) (f : Strand → Strand) : (c.mapStrands f).shared = c.shared := rfl
@[simp] theorem Core.setStrand_started (c : Core) (e : Eng) (x : Strand) : (c.setStrand e x).started = c.started := by
  cases e <;> rfl
@[simp] theorem Core.mapStrands_started (c : Core) (f : Strand → Strand) : (c.mapStrands f).started = c.started := rfl

@[simp] theorem Core.strand_setStrand (c : Core) (e : Eng) (x : Strand) : (c.setStrand e x).strand e = x := by
  cases e <;> rfl

theorem Core.strand_setStrand_ne (c : Core) {e e' : Eng} (x : Strand) (h : e' ≠ e) :
    (c.setStrand e x).strand e' = c.strand e' := by
  cases e <;> cases e' <;> first | rfl | exact absurd rfl h

@[simp] theorem Core.setStrand_strand (c : Core) (e : Eng) : c.setStrand e (c.strand e) = c := by
  cases e <;> rfl

@[simp] theorem Core.setStrand_setStrand (c : Core) (e : Eng) (x y : Strand) :
    (c.setStrand e x).setStrand e y = c.setStrand e y := by
  cases e <;> rfl

@[simp] theorem Core.strand_mapStrands (c : Core) (e : Eng) (f : Strand → Strand) :
    (c.mapStrands f).strand e = f (c.strand e) := by
  cases e <;> rfl

theorem getElem?_modifyAt_self {α : Type} (l : List α) (i : Nat) (f : α → α) :
    (modifyAt l i f)[i]? = (l[i]?).map f := by
  unfold modifyAt
  cases h : l[i]? with
  | none => simpa using h
  | some x =>
    obtain ⟨hi, -⟩ := List.getElem?_eq_some_iff.mp h
    simp [hi]

theorem getElem?_modifyAt_ne {α : Type} (l : List α) {i j : Nat} (f : α → α) (h : j ≠ i) :
    (modifyAt l i f)[j]? = l[j]? := by
  unfold modifyAt
  split
  · rfl
  · exact List.getElem?_set_ne (Ne.symm h)

theorem State.core?_updCore (s : State) (ci : Nat) (f : Core → Core) :
    (s.updCore ci f).core? ci = (s.core? ci).map f :=
  getElem?_modifyAt_self s.cores ci f

theorem State.core?_updCore_ne (s : State) {ci j : Nat} (f : Core → Core) (h : j ≠ ci) :
    (s.updCore ci f).core? j = s.core? j :=
  getElem?_modifyAt_ne s.cores f h

theorem State.core?_updStrand (s : State) (ci : Nat) (e : Eng) (f : Strand → Strand) :
    (s.updStrand ci e f).core? ci = (s.core? ci).map (fun c => c.setStrand e (f (c.strand e))) :=
  s.core?_updCore ci _

theorem State.core?_updStrand_ne (s : State) {ci j : Nat} (e : Eng) (f : Strand → Strand) (h : j ≠ ci) :
    (s.updStrand ci e f).core? j = s.core? j :=
  s.core?_updCore_ne _ h

/-- What at? answers. -/
theorem State.at?_some {s : State} {v : At} (h : s.at? = some v) :
    s.actor = .strand v.ci v.e v.budget ∧ s.core? v.ci = some v.c ∧ v.st = v.c.strand v.e := by
  unfold State.at? at h
  split at h
  · next ci e b ha =>
    cases hc : s.core? ci with
    | none => simp [hc] at h
    | some c =>
      rw [hc] at h
      obtain rfl := Option.some.inj h
      exact ⟨ha, hc, rfl⟩
  · cases h

end Sys2Proof.Machine
end

