-- ==== Sys2Proof/Laws/Ops.lean ====
section
/-! SUPPORT. The shared operations: what issue, retirement, control transfers and issueWord leave, once for every
instruction. -/
namespace Sys2Proof.Machine

theorem RegFile.read_eq {k : Nat} {α : Type} (r : RegFile k α) (i : BitVec k) : r.read i = r[i.toNat]'i.isLt := rfl

theorem RegFile.read_write {k : Nat} {α : Type} (r : RegFile k α) (i j : BitVec k) (x : α) :
    (r.write i x).read j = if j = i then x else r.read j := by
  rw [RegFile.read_eq, RegFile.read_eq, RegFile.write, Vector.getElem_set]
  by_cases h : j = i
  · subst h; simp
  · have : i.toNat ≠ j.toNat := fun e => h (BitVec.eq_of_toNat_eq e.symm)
    simp [h, this]

@[simp] theorem RegFile.read_write_self {k : Nat} {α : Type} (r : RegFile k α) (i : BitVec k) (x : α) :
    (r.write i x).read i = x := by
  simp [RegFile.read_write]

theorem RegFile.read_write_ne {k : Nat} {α : Type} (r : RegFile k α) {i j : BitVec k} (x : α) (h : j ≠ i) :
    (r.write i x).read j = r.read j := by
  simp [RegFile.read_write, h]

theorem RegFile.at'_tab {k : Nat} {α : Type} (f : Nat → α) {i : Nat} (h : i < 2 ^ k) : (RegFile.tab k f).at' i = f i := by
  simp [RegFile.at', RegFile.tab, RegFile.read_eq, Nat.mod_eq_of_lt h]

theorem RegFile.at'_put {k : Nat} {α : Type} (r : RegFile k α) (i j : Nat) (x : α) (hi : i < 2 ^ k) (hj : j < 2 ^ k) :
    (r.put i x).at' j = if j = i then x else r.at' j := by
  simp only [RegFile.at', RegFile.put, RegFile.read_write]
  by_cases h : j = i
  · simp [h]
  · have : BitVec.ofNat k j ≠ BitVec.ofNat k i := by
      intro e
      have := congrArg BitVec.toNat e
      simp [Nat.mod_eq_of_lt hi, Nat.mod_eq_of_lt hj] at this
      exact h this
    simp [h, this]

theorem OnlyCore.of_updCore {s : State} {ci : Nat} {c : Core} (f : Core → Core) (h : s.core? ci = some c) :
    OnlyCore s (s.updCore ci f) ci (f c) :=
  ⟨rfl, fun _ hj => s.core?_updCore_ne f hj, by rw [s.core?_updCore, h]; rfl⟩

theorem OnlyCore.trans {s t u : State} {ci : Nat} {c d : Core} (h1 : OnlyCore s t ci c) (h2 : OnlyCore t u ci d) :
    OnlyCore s u ci d :=
  ⟨by rw [h2.rest, h1.rest], fun j hj => (h2.others j hj).trans (h1.others j hj), h2.core⟩

theorem OnlyCore.sameMem {s t : State} {ci : Nat} {d : Core} (h : OnlyCore s t ci d) : SameMem s t := by
  intro a; rw [h.rest]

theorem OnlyCore.refl {s : State} {ci : Nat} {c : Core} (h : s.core? ci = some c) : OnlyCore s s ci c :=
  ⟨rfl, fun _ _ => rfl, h⟩

theorem OnlyCore.iclk {s t : State} {ci : Nat} {d : Core} (h : OnlyCore s t ci d) (c : Core) : t.iclk c = s.iclk c := by
  rw [h.rest]; rfl

/-- The counters after pops: one less for each counter named. -/
theorem Core.read_pop (c : Core) (h : Hdr) (e : Eng) (k : BitVec 3) :
    (c.pop (popsOf h e)).tokens.read k = c.tokens.read k - (if k ∈ popsOf h e then 1 else 0) := by
  have hne : popNext e ≠ popPrev e := by cases e <;> decide
  unfold Core.pop popsOf
  cases h.popN <;> cases h.popP <;>
    simp only [List.nil_append, List.append_nil, List.foldl, List.foldl_cons, List.cons_append, if_true, if_false, Bool.false_eq_true,
      List.mem_cons, List.not_mem_nil, or_false, RegFile.read_write]
  · simp
  · split <;> simp_all
  · split <;> simp_all
  · by_cases h1 : k = popNext e
    · subst h1; simp [hne]
    · by_cases h2 : k = popPrev e
      · subst h2; simp [h1]
      · simp [h1, h2]

/-- What a core becomes at the issue and the retirement of a word. -/
def At.retireCore (v : At) (h : Hdr) (len due now : Nat) (c : Core) : Core :=
  let c := v.landFrom due ((v.free h.dly.toNat now c).addPushes v.e (pushesOf h v.e) due)
  let st := c.strand v.e
  match st.rep v.e with
  | none => c.setStrand v.e (st.advance len)
  | some (t, n, outer) =>
    if t + 1 < n then c.setStrand v.e { st with repn := BitVec.ofNat 7 (n - 1 - t) }
    else (c.setStrand v.e { st.advance (1 + len) with repn := 0 }).addPushes v.e outer due

/-- The core after the pops and the number of an issue. -/
def At.issueCore (v : At) (h : Hdr) (c : Core) : Core :=
  let c := c.pop (popsOf h v.e)
  c.setStrand v.e { c.strand v.e with rsn := (c.strand v.e).rsn + 1 }

theorem Strand.rep_congr {a b : Strand} (e : Eng) (h1 : a.held = b.held) (h2 : a.repn = b.repn) : a.rep e = b.rep e := by
  unfold Strand.rep; rw [h1, h2]

@[simp] theorem Core.pop_strand (c : Core) (l : List (BitVec 3)) (e : Eng) : (c.pop l).strand e = c.strand e := by
  cases e <;> rfl

/-- A core with another strand, counters and issue clk of the V strand. -/
def Core.withIssue (c : Core) (e : Eng) (st : Strand) (tok : RegFile 3 (BitVec 4)) (vn : Nat) : Core :=
  { c.setStrand e st with tokens := tok, vnext := vn }

theorem Core.undo_withIssue (c : Core) (e : Eng) (st : Strand) (tok : RegFile 3 (BitVec 4)) (vn : Nat) :
    c.undo e (c.withIssue e st tok vn) = c := by
  cases e <;> rfl

@[simp] theorem Core.withIssue_strand (c : Core) (e : Eng) (st : Strand) (tok : RegFile 3 (BitVec 4)) (vn : Nat) :
    (c.withIssue e st tok vn).strand e = st := by
  cases e <;> rfl

/-- The strand at the issue of a word, before it advances. -/
def Strand.issued (st : Strand) (e : Eng) (h : Hdr) (due : Nat) : Strand :=
  { st with rsn := st.rsn + 1, wait := .none, busy := false, fillBad := false, synced := none,
            pushes := st.pushes ++ (pushesOf h e).map (fun k => { ctr := k, due := due }) }

/-- The strand after the retirement of a word. -/
def Strand.retired (st : Strand) (e : Eng) (h : Hdr) (len due : Nat) : Strand :=
  match st.rep e with
  | none => (st.issued e h due).advance len
  | some (t, n, outer) =>
    if t + 1 < n then { st.issued e h due with repn := BitVec.ofNat 7 (n - 1 - t) }
    else { (st.issued e h due).advance (1 + len) with
           repn := 0, pushes := (st.issued e h due).pushes ++ outer.map (fun k => { ctr := k, due := due }) }

/-- The results of one instruction that land at an issue clk within their bounds. -/
def landed (due : Nat) (l : List Flight) : List Flight := l.map (fun f => { f with seenAt := Nat.min due f.landAt })

/-- Landing concerns the results that the instruction has put in flight itself, and nothing else. -/
theorem At.landFrom_eq (v : At) (due : Nat) {c : Core} {l : List Flight} (h : c.flights = l ++ v.c.flights) :
    v.landFrom due c = { c with flights := landed due l ++ v.c.flights } := by
  unfold At.landFrom landed
  congr 1
  rw [h, List.zipIdx_append, List.map_append, List.length_append, Nat.add_sub_cancel]
  congr 1
  · apply List.ext_getElem
    · simp
    · intro i _ hi
      have : i < l.length := by simpa using hi
      simp
      omega
  · apply List.ext_getElem
    · simp
    · intro i _ _
      simp only [List.getElem_map, List.getElem_zipIdx]
      exact if_neg (by omega)

theorem free_issueCore (v : At) (h : Hdr) (due now : Nat) (c : Core) :
    (v.free h.dly.toNat now (v.issueCore h c)).addPushes v.e (pushesOf h v.e) due =
      c.withIssue v.e ((c.strand v.e).issued v.e h due) (c.pop (popsOf h v.e)).tokens
        (if v.e == .v then now + 1 + h.dly.toNat else c.vnext) := by
  obtain ⟨ci, e, vc, st, bud⟩ := v
  cases e <;>
    simp [At.free, At.issueCore, Core.addPushes, Core.setStrand, Core.strand, Core.pop, Core.withIssue,
      Strand.issued]

theorem Core.setStrand_withIssue (c : Core) (e : Eng) (st st' : Strand) (tok : RegFile 3 (BitVec 4)) (vn : Nat) :
    (c.withIssue e st tok vn).setStrand e st' = c.withIssue e st' tok vn := by
  cases e <;> simp [Core.withIssue, Core.setStrand]

/-- A core with other results in flight. -/
def Core.withFlights (c : Core) (l : List Flight) : Core := { c with flights := l }

theorem Core.strand_withFlights (c : Core) (l : List Flight) (e : Eng) : (c.withFlights l).strand e = c.strand e := by
  cases e <;> rfl

theorem Core.setStrand_withFlights (c : Core) (l : List Flight) (e : Eng) (st : Strand) :
    (c.withFlights l).setStrand e st = (c.setStrand e st).withFlights l := by
  cases e <;> rfl

theorem Core.undo_withFlights (c d : Core) (l : List Flight) (e : Eng) :
    c.undo e (d.withFlights l) = (c.undo e d).withFlights l := by
  cases e <;> rfl

theorem Core.flights_withIssue (c : Core) (e : Eng) (st : Strand) (tok : RegFile 3 (BitVec 4)) (vn : Nat) :
    (c.withIssue e st tok vn).flights = c.flights := by
  cases e <;> rfl

theorem retireCore_eq (v : At) (h : Hdr) (len due now : Nat) (c : Core) (l : List Flight)
    (hfl : c.flights = l ++ v.c.flights) :
    v.retireCore h len due now (v.issueCore h c) =
      (c.withIssue v.e ((c.strand v.e).retired v.e h len due) (c.pop (popsOf h v.e)).tokens
        (if v.e == .v then now + 1 + h.dly.toNat else c.vnext)).withFlights (landed due l ++ v.c.flights) := by
  have hrep : ((c.strand v.e).issued v.e h due).rep v.e = (c.strand v.e).rep v.e := rfl
  have hland : ∀ st tok vn, v.landFrom due (c.withIssue v.e st tok vn) =
      (c.withIssue v.e st tok vn).withFlights (landed due l ++ v.c.flights) :=
    fun st tok vn => v.landFrom_eq due ((c.flights_withIssue v.e st tok vn).trans hfl)
  unfold At.retireCore Strand.retired
  simp only [free_issueCore, hland, Core.strand_withFlights, Core.withIssue_strand, hrep]
  cases (c.strand v.e).rep v.e with
  | none => simp only [Core.setStrand_withFlights, Core.setStrand_withIssue]
  | some p =>
    obtain ⟨t, n, outer⟩ := p
    by_cases hl : t + 1 < n
    · simp only [hl, if_true, Core.setStrand_withFlights, Core.setStrand_withIssue]
    · simp only [hl, if_false, Core.setStrand_withFlights, Core.setStrand_withIssue, Core.addPushes,
        Core.strand_withFlights, Core.withIssue_strand, Strand.advance]

/-- The pushes of a word fall due together. -/
theorem Strand.retired_due (st : Strand) (e : Eng) (h : Hdr) (len due : Nat) {p : Push}
    (hp : p ∈ (st.retired e h len due).pushes.drop st.pushes.length) : p.due = due := by
  unfold Strand.retired at hp
  split at hp
  · simp [Strand.advance, Strand.issued] at hp; obtain ⟨k, -, rfl⟩ := hp; rfl
  · split at hp
    · simp [Strand.issued] at hp; obtain ⟨k, -, rfl⟩ := hp; rfl
    · simp [Strand.issued] at hp
      rcases hp with ⟨k, -, rfl⟩ | ⟨k, -, rfl⟩ <;> rfl

theorem retireCore_spec {s : State} {v : At} {c : Core} (h : Hdr) (len due : Nat) (l : List Flight)
    (hfl : c.flights = l ++ v.c.flights) (hst : c.strand v.e = v.st)
    (htok : c.tokens = v.c.tokens) (hvn : c.vnext = v.c.vnext) :
    let d := v.retireCore h len due (s.iclk v.c) (v.issueCore h c)
    Retires s h len v d ∧ c.undo v.e d = c.withFlights (landed due l ++ v.c.flights) ∧
    ∀ p, p ∈ (d.strand v.e).pushes.drop v.st.pushes.length → p.due = due := by
  intro d
  have hd : d = _ := retireCore_eq v h len due (s.iclk v.c) c l hfl
  rw [hst, hvn] at hd
  have hs : d.strand v.e = v.st.retired v.e h len due := by
    rw [hd, Core.strand_withFlights, Core.withIssue_strand]
  refine ⟨⟨⟨?_, ?_, ?_, ?_, ?_⟩, ?_, ?_, ?_⟩, ?_, ?_⟩
  · intro k
    rw [hd]
    show (c.pop (popsOf h v.e)).tokens.read k = _
    rw [c.read_pop, htok]
  · rw [hs]; unfold Strand.retired
    split
    · rfl
    · split <;> rfl
  · rw [hs]; unfold Strand.retired
    split
    · exact ⟨rfl, rfl⟩
    · split <;> exact ⟨rfl, rfl⟩
  · rw [hs]; unfold Strand.retired
    split
    · rfl
    · split <;> rfl
  · rw [hd]; cases he : v.e <;> simp [Core.withIssue, Core.withFlights]
  · rw [hs]; unfold Strand.retired
    intro hr
    simp [hr, Strand.advance, Strand.issued, List.map_map, Function.comp_def]
  · rw [hs]; unfold Strand.retired
    intro t n outer hr hl
    simp [hr, hl, Strand.issued, List.map_map, Function.comp_def]
  · rw [hs]; unfold Strand.retired
    intro t n outer hr hl
    simp [hr, hl, Strand.advance, Strand.issued, List.map_map, Function.comp_def]
  · rw [hd, Core.undo_withFlights, Core.undo_withIssue]
  · rw [hs]; intro p hp; exact v.st.retired_due v.e h len due hp

/-- The results of a V instruction land within its bound, at the issue clk at which its pushes fall due (R64, R66). -/
theorem At.dueAt_spec (v : At) (lat : Nat) (s : State) (he : v.e = .v) :
    (0 < lat → s.iclk v.c < v.dueAt lat s) ∧ v.dueAt lat s ≤ s.iclk v.c + lat := by
  unfold At.dueAt
  by_cases hl : lat = 0
  · simp [he, hl]
  · have := Nat.mod_lt (s.free (freeKey 32 0 0)) (Nat.pos_of_ne_zero hl)
    simp [he, hl]; omega

/-- Issue and retirement over an effect that changed nothing but the core of the strand, and of it neither the strand,
nor the counters, nor its issue clk: beside what retirement changes, the instruction's own results in flight have a clk at
which they land, and its pushes fall due then. -/
theorem OnlyCore.retire {s u : State} {v : At} {c : Core} (hu : OnlyCore s u v.ci c) (h : Hdr) (len lat : Nat)
    (l : List Flight) (hfl : c.flights = l ++ v.c.flights) (hst : c.strand v.e = v.st) (htok : c.tokens = v.c.tokens)
    (hvn : c.vnext = v.c.vnext) :
    ∃ d due, OnlyCore s (v.retire h len lat (v.issue h u)) v.ci d ∧ Retires s h len v d ∧
      c.undo v.e d = c.withFlights (landed due l ++ v.c.flights) ∧
      (∀ p, p ∈ (d.strand v.e).pushes.drop v.st.pushes.length → p.due = due) ∧
      (v.e = .v → (0 < lat → s.iclk v.c < due) ∧ due ≤ s.iclk v.c + lat) := by
  have h1 : OnlyCore u (v.issue h u) v.ci (v.issueCore h c) := OnlyCore.of_updCore _ hu.core
  have hk : (v.issue h u).iclk v.c = s.iclk v.c := by rw [h1.iclk, hu.iclk]
  have h2 : OnlyCore (v.issue h u) (v.retire h len lat (v.issue h u)) v.ci
      (v.retireCore h len (v.dueAt lat (v.issue h u)) (s.iclk v.c) (v.issueCore h c)) := by
    have := OnlyCore.of_updCore (v.retireCore h len (v.dueAt lat (v.issue h u)) (s.iclk v.c)) h1.core
    unfold At.retire
    rw [hk]; exact this
  obtain ⟨hr, hundo, hdue⟩ := retireCore_spec (s := s) h len (v.dueAt lat (v.issue h u)) l hfl hst htok hvn
  refine ⟨_, _, hu.trans (h1.trans h2), hr, hundo, hdue, fun he => ?_⟩
  rw [← hk]; exact v.dueAt_spec lat _ he

/-- A word whose body is done completes. -/
theorem issueWord_done {s : State} {h : Hdr} {len : Nat} {early : At → State → Option TrapInfo} {again : At → Bool}
    {body : At → State → Res} {v : At} {t : State} {lat : Nat} (hr : Ready s h v) (he : early v s = none)
    (ha : again v = false) (hb : body v s = .done t lat) :
    s.issueWord h len early again body = .next (v.retire h len lat (v.issue h t)) := by
  simp [State.issueWord, hr.actor, he, ha, hr.fresh, hr.tokens, hr.runs, hb]

/-- A word that fails a check made before its pops traps. -/
theorem issueWord_early {s : State} {h : Hdr} {len : Nat} {early : At → State → Option TrapInfo} {again : At → Bool}
    {body : At → State → Res} {v : At} {x : TrapInfo} (hr : s.at? = some v) (he : early v s = some x) :
    s.issueWord h len early again body = .next (s.takeTrap v.ci v.e.tag (some v.e) x) := by
  simp [State.issueWord, hr, he]

/-- A word whose body traps. -/
theorem issueWord_trap {s t : State} {h : Hdr} {len : Nat} {early : At → State → Option TrapInfo} {again : At → Bool}
    {body : At → State → Res} {v : At} {x : TrapInfo} (hr : Ready s h v) (he : early v s = none)
    (ha : again v = false) (hb : body v s = .trap x t) :
    s.issueWord h len early again body = .next (t.takeTrap v.ci v.e.tag (some v.e) x) := by
  simp [State.issueWord, hr.actor, he, ha, hr.fresh, hr.tokens, hr.runs, hb]

/-- A word whose body waits has not issued: only its wait is noted. -/
theorem issueWord_wait {s t : State} {h : Hdr} {len : Nat} {early : At → State → Option TrapInfo} {again : At → Bool}
    {body : At → State → Res} {v : At} {w : Wait} (hr : Ready s h v) (he : early v s = none) (ha : again v = false)
    (hb : body v s = .wait w t) :
    s.issueWord h len early again body = .next (t.waitOn v.ci v.e w) := by
  simp [State.issueWord, hr.actor, he, ha, hr.fresh, hr.tokens, hr.runs, hb]

/-- A result bound concerns the results in flight only. -/
theorem At.fly_undo (v : At) (s : State) (c : Core) (d : Dest) (l : BitVec 64) (lat : Nat) (o : Old) :
    v.fly s c d l lat o = { c with flights := (v.fly s c d l lat o).flights } := by
  unfold At.fly; split <;> rfl

/-- The results in flight after one more of an instruction. -/
def At.flying (v : At) (s : State) (d : Dest) (l : BitVec 64) (lat : Nat) (o : Old) : List Flight :=
  if v.e = .v then [{ dest := d, lanes := l, landAt := s.iclk v.c + lat, seenAt := s.iclk v.c + lat, old := o }] else []

theorem At.fly_flights (v : At) (s : State) (c : Core) (d : Dest) (l : BitVec 64) (lat : Nat) (o : Old) :
    (v.fly s c d l lat o).flights = v.flying s d l lat o ++ c.flights := by
  unfold At.fly At.flying; cases v.e <;> simp

/-- A result that has landed at the clk at which the pushes fall due. -/
theorem At.flies_of {s : State} {v : At} {d : Core} {x : Dest} {l : BitVec 64} {lat due : Nat} {o : Old}
    (hf : d.flights = landed due (v.flying s x l lat o) ++ v.c.flights)
    (hp : ∀ p, p ∈ (d.strand v.e).pushes.drop v.st.pushes.length → p.due = due)
    (hd : v.e = .v → (0 < lat → s.iclk v.c < due) ∧ due ≤ s.iclk v.c + lat) : Flies s v x l lat o d := by
  refine ⟨fun he => ?_, fun he => ⟨due, (hd he).1, (hd he).2, ?_, ?_⟩⟩
  · simpa [At.flying, he, landed] using hf
  · have := Nat.min_eq_left (hd he).2
    simpa [At.flying, he, landed, this] using hf
  · rw [he] at hp; exact hp

theorem At.fly_s (v : At) (s : State) (c : Core) (d : Dest) (l : BitVec 64) (lat : Nat) (o : Old) :
    (v.fly s c d l lat o).s = c.s := by
  rw [At.fly_undo]

/-- A scalar write as an effect on the core. -/
theorem putS_spec {s : State} {v : At} (hv : s.at? = some v) (sd : BitVec 5) (x : Word) (lat : Nat) :
    ∃ c, OnlyCore s (v.putS s sd x lat) v.ci c ∧
      (∀ r, r ≠ sd ∨ sd = 0 → c.s.read r = v.c.s.read r) ∧
      (sd ≠ 0 → v.c.flight? (s.iclk v.c) (.s sd) = none → c.s.read sd = x) ∧
      (sd ≠ 0 → c.s.read sd = x ∨ c.s.read sd = v.c.s.read sd) ∧
      c.flights = (if sd = 0 then [] else v.flying s (.s sd) 1 lat (.s (v.c.s.read sd))) ++ v.c.flights ∧
      { c with s := v.c.s, flights := v.c.flights } = v.c := by
  obtain ⟨-, hc, -⟩ := State.at?_some hv
  unfold At.putS
  by_cases h0 : sd = 0
  · subst h0
    exact ⟨v.c, by simpa using OnlyCore.refl hc, fun _ _ => rfl, by simp, by simp, by simp, rfl⟩
  · have h0' : (sd == 0) = false := by simpa using h0
    simp only [h0', Bool.false_eq_true, if_false]
    refine ⟨_, OnlyCore.of_updCore _ hc, ?_, ?_, ?_, ?_, ?_⟩
    · intro r hr
      have hr' : r ≠ sd := hr.resolve_right h0
      show (At.fly v s _ _ _ _ _).s.read r = _
      rw [At.fly_s]
      split <;> simp [RegFile.read_write_ne _ _ hr']
    · intro _ hf
      have : s.laterWins v (.s sd) 0 = true := by
        unfold State.laterWins
        have : v.c.flights.find? (fun f => f.dest == .s sd && decide (s.iclk v.c < f.landAt) && f.lanes.getLsbD 0) = none := by
          rw [List.find?_eq_none]
          intro f hm hq
          have := List.find?_eq_none.mp hf f hm
          simp_all
        rw [this]
      show (At.fly v s _ _ _ _ _).s.read sd = _
      rw [At.fly_s]
      simp [this]
    · intro _
      show (At.fly v s _ _ _ _ _).s.read sd = _ ∨ (At.fly v s _ _ _ _ _).s.read sd = _
      rw [At.fly_s]
      split <;> simp
    · show (At.fly v s _ _ _ _ _).flights = _
      rw [At.fly_flights]
      simp [show ¬sd = 0#5 from h0]
    · show { At.fly v s _ _ _ _ _ with s := v.c.s, flights := v.c.flights } = v.c
      rw [At.fly_undo]

/-- Every instruction that writes one scalar register completes where its strand may write it. -/
theorem scalarOp_completes {s : State} {h : Hdr} {v : At} {sd : BitVec 5} {lat : Nat} {f : At → State → Word} {i : Instr}
    (hr : Ready s h v) (hs : v.foreign sd = false) (hi : exec i s = s.scalarOp h sd lat f) :
    CompletesS i s h v sd lat (f v s) := by
  obtain ⟨-, hc, hst⟩ := State.at?_some hr.actor
  obtain ⟨c, hu, hkeeps, hval, hover, hfl, hk⟩ := putS_spec hr.actor sd (f v s) lat
  have e1 : c.strand v.e = v.st := by
    rw [hst, ← hk]; cases v.e <;> rfl
  have e2 : c.tokens = v.c.tokens := by rw [← hk]
  have e3 : c.vnext = v.c.vnext := by rw [← hk]
  obtain ⟨d, due, hd, hret, hundo, hp, hdue⟩ := hu.retire h 1 lat _ hfl e1 e2 e3
  have es : d.s = c.s := by
    exact (by cases v.e <;> rfl : d.s = (c.undo v.e d).s).trans ((congrArg Core.s hundo :) : _ = (c.withFlights _).s)
  have ef : d.flights = landed due (if sd = 0 then [] else v.flying s (.s sd) 1 lat (.s (v.c.s.read sd))) ++ v.c.flights := by
    exact (by cases v.e <;> rfl : d.flights = (c.undo v.e d).flights).trans (congrArg Core.flights hundo)
  refine ⟨_, d, ?_, hd, hd.sameMem, hret, ⟨?_, ?_, ?_, ?_, ?_⟩, ?_⟩
  · rw [hi]
    exact issueWord_done hr (by simp [At.ownCheck, hs]) rfl rfl
  · rw [es]; exact hkeeps
  · rw [es]; exact hval
  · rw [es]; exact hover
  · intro h0; simpa [h0, landed] using ef
  · intro h0; exact At.flies_of (by simpa only [h0, if_false] using ef) hp hdue
  · have : { v.c.undoV v.e d with s := v.c.s } = { c.undo v.e d with s := v.c.s, flights := v.c.flights } := by
      unfold Core.undoV Core.undo
      rw [e1, hst, e2, e3]
    rw [this, hundo]; exact hk

end Sys2Proof.Machine
end

