-- ==== Sys2Proof/Laws/Vector.lean ====
section
/-! SUPPORT. Vector, predicate and window writes, once for every instruction that makes one. -/
namespace Sys2Proof.Machine

/-- A word whose effect changed nothing but registers of its core, and put results in flight, completes. -/
theorem completes_of_done {s u : State} {h : Hdr} {len : Nat} {early : At → State → Option TrapInfo} {again : At → Bool}
    {body : At → State → Res} {v : At} {lat : Nat} {i : Instr} {c : Core} {rel : Core → Prop} (l : List Flight)
    (hr : Ready s h v) (hi : exec i s = s.issueWord h len early again body) (he : early v s = none) (ha : again v = false)
    (hb : body v s = .done u lat) (hu : OnlyCore s u v.ci c) (hfl : c.flights = l ++ v.c.flights) (hst : c.strand v.e = v.st)
    (htok : c.tokens = v.c.tokens) (hvn : c.vnext = v.c.vnext)
    (hrel : ∀ d due, c.undo v.e d = c.withFlights (landed due l ++ v.c.flights) →
      (∀ p, p ∈ (d.strand v.e).pushes.drop v.st.pushes.length → p.due = due) →
      (v.e = .v → (0 < lat → s.iclk v.c < due) ∧ due ≤ s.iclk v.c + lat) → rel d) :
    Completes i s h len v rel := by
  obtain ⟨d, due, hd, hret, hundo, hp, hdue⟩ := hu.retire h len lat l hfl hst htok hvn
  exact ⟨_, d, by rw [hi]; exact issueWord_done hr he ha hb, hd, hd.sameMem, hret, hrel d due hundo hp hdue⟩

/-- Nothing in flight to a register decides a lane. -/
theorem laterWins_of_none {s : State} {v : At} {d : Dest} {i : Nat} (h : v.c.flight? (s.iclk v.c) d = none) :
    s.laterWins v d i = true := by
  have : v.c.flights.find? (fun f => f.dest == d && decide (s.iclk v.c < f.landAt) && f.lanes.getLsbD i) = none := by
    rw [List.find?_eq_none]
    intro f hm hq
    have := List.find?_eq_none.mp h f hm
    simp_all
  unfold State.laterWins; rw [this]

/-- An element of a register given by its lanes depends on its own lane only. -/
theorem elemOf_lane {w j : Nat} {x y : RegFile 6 (BitVec 32)} (h : x.at' (j * w / 32) = y.at' (j * w / 32)) :
    elemOf w x j = elemOf w y j := by
  unfold elemOf; rw [h]

/-- A lane of a register given by its lanes. -/
theorem at'_tab6 {α : Type} {f : Nat → α} {i : Nat} (h : i < 64) : (RegFile.tab 6 f).at' i = f i :=
  RegFile.at'_tab f h

theorem At.fly_v (v : At) (s : State) (c : Core) (d : Dest) (l : BitVec 64) (lat : Nat) (o : Old) :
    (v.fly s c d l lat o).v = c.v := by
  rw [At.fly_undo]

theorem At.fly_p (v : At) (s : State) (c : Core) (d : Dest) (l : BitVec 64) (lat : Nat) (o : Old) :
    (v.fly s c d l lat o).p = c.p := by
  rw [At.fly_undo]

theorem At.fly_w (v : At) (s : State) (c : Core) (d : Dest) (l : BitVec 64) (lat : Nat) (o : Old) :
    (v.fly s c d l lat o).w = c.w := by
  rw [At.fly_undo]

/-- A vector write as an effect on the core; w and g describe the lanes as elements. -/
theorem putV_spec {s : State} {v : At} (hv : s.at? = some v) (vd : BitVec 5) (lanes : BitVec 64) (f : Nat → BitVec 32)
    (lat w : Nat) (g : Nat → Nat)
    (hw : ∀ j, j * w / 32 < 64 → bits (f (j * w / 32)).toNat (j * w % 32 + w - 1) (j * w % 32) = g j % 2 ^ w)
    (hn : ∀ j, j < 2048 / w → j * w / 32 < 64) :
    ∃ c, OnlyCore s (v.putV s vd lanes f lat) v.ci c ∧
      (∀ r, r ≠ vd → c.v.read r = v.c.v.read r) ∧
      (∀ i, i < 64 → lanes.getLsbD i = false → (c.v.read vd).at' i = (v.c.v.read vd).at' i) ∧
      (v.c.flight? (s.iclk v.c) (.v vd) = none →
        ∀ j, j < 2048 / w → lanes.getLsbD (j * w / 32) = true → elemOf w (c.v.read vd) j = g j % 2 ^ w) ∧
      (∀ i, i < 64 → (c.v.read vd).at' i = (v.c.v.read vd).at' i ∨
        ∀ j, j * w / 32 = i → elemOf w (c.v.read vd) j = g j % 2 ^ w) ∧
      c.flights = v.flying s (.v vd) lanes lat .none ++ v.c.flights ∧
      { c with v := v.c.v, flights := v.c.flights } = v.c := by
  obtain ⟨-, hc, -⟩ := State.at?_some hv
  unfold At.putV
  refine ⟨_, OnlyCore.of_updCore _ hc, ?_, ?_, ?_, ?_, ?_, ?_⟩
  · intro r hr
    show (At.fly v s _ _ _ _ _).v.read r = _
    rw [At.fly_v]
    exact RegFile.read_write_ne _ _ hr
  · intro i hi hl
    show ((At.fly v s _ _ _ _ _).v.read vd).at' i = _
    rw [At.fly_v]
    simp [at'_tab6 hi, hl]
  · intro hf j hj hl
    show elemOf w ((At.fly v s _ _ _ _ _).v.read vd) j = _
    rw [At.fly_v, ← hw j (hn j hj)]
    unfold elemOf
    simp [at'_tab6 (hn j hj), hl, laterWins_of_none hf]
  · intro i hi
    show ((At.fly v s _ _ _ _ _).v.read vd).at' i = _ ∨ ∀ j, j * w / 32 = i →
      elemOf w ((At.fly v s _ _ _ _ _).v.read vd) j = _
    rw [At.fly_v]
    by_cases hl : (lanes.getLsbD i && s.laterWins v (.v vd) i) = true
    · right
      intro j hj
      subst hj
      rw [← hw j hi]
      unfold elemOf
      rw [RegFile.read_write_self, at'_tab6 hi, if_pos hl]
    · left
      rw [RegFile.read_write_self, at'_tab6 hi, if_neg hl]
  · show (At.fly v s _ _ _ _ _).flights = _
    rw [At.fly_flights]
  · show { At.fly v s _ _ _ _ _ with v := v.c.v, flights := v.c.flights } = v.c
    rw [At.fly_undo]

/-- Every instruction that writes one vector register completes. -/
theorem vecOp_completes {s : State} {h : Hdr} {v : At} {f : FmtV} {lat w : Nat} {i : Instr}
    {F : At → State → Nat → Nat → BitVec 32} {g : Nat → Nat} (hr : Ready s h v) (hi : exec i s = vecOp i h f lat F s)
    (hw : ∀ j, j * w / 32 < 64 →
      bits (F v s (v.ty f.ty.toNat) (j * w / 32)).toNat (j * w % 32 + w - 1) (j * w % 32) = g j % 2 ^ w)
    (hn : ∀ j, j < 2048 / w → j * w / 32 < 64) :
    CompletesV i s h v f.vd (s.active v f) w lat g := by
  intro hty
  obtain ⟨-, hc, hst⟩ := State.at?_some hr.actor
  obtain ⟨c, hu, hkeeps, hmask, hval, hover, hfl, hk⟩ :=
    putV_spec hr.actor f.vd (s.active v f) (F v s (v.ty f.ty.toNat)) lat w g hw hn
  have e1 : c.strand v.e = v.st := by
    rw [hst, ← hk]; cases v.e <;> rfl
  have e2 : c.tokens = v.c.tokens := by rw [← hk]
  have e3 : c.vnext = v.c.vnext := by rw [← hk]
  refine completes_of_done _ hr hi hty rfl rfl hu hfl e1 e2 e3 (fun d due hd hp hdue => ?_)
  have ev : d.v = c.v := by
    exact (by cases v.e <;> rfl : d.v = (c.undo v.e d).v).trans ((congrArg Core.v hd :) : _ = (c.withFlights _).v)
  have ef : d.flights = landed due (v.flying s (.v f.vd) (s.active v f) lat .none) ++ v.c.flights := by
    exact (by cases v.e <;> rfl : d.flights = (c.undo v.e d).flights).trans (congrArg Core.flights hd)
  refine ⟨⟨?_, ?_, ?_, ?_, At.flies_of ef hp hdue⟩, ?_⟩
  · rw [ev]; exact hkeeps
  · rw [ev]; exact hmask
  · rw [ev]; exact hval
  · rw [ev]; exact hover
  · have : { v.c.undoV v.e d with v := v.c.v } = { c.undo v.e d with v := v.c.v, flights := v.c.flights } := by
      unfold Core.undoV Core.undo
      rw [e1, hst, e2, e3]
    rw [this, hd]; exact hk

end Sys2Proof.Machine
end

