-- ==== Sys2Proof/Laws/Matrix.lean ====
section
/-! SUPPORT. Accumulators: their elements after each way of writing one, and the elements of a product of tiles. -/
namespace Sys2Proof.Machine

/-- An element of an accumulator made from a function. -/
theorem Acc.el_of (tag : Bool) (f : Nat → Nat → Nat) {i j : Nat} (hi : i < 64) (hj : j < 64) :
    (Acc.of tag f).el i j = f i j % 2 ^ 32 := by
  have hn : 64 * i + j < 2 ^ 12 := by omega
  have hd : (64 * i + j) / 64 = i := by omega
  have hm : (64 * i + j) % 64 = j := by omega
  simp only [Acc.el, Acc.of, RegFile.at'_tab _ hn, hd, hm, BitVec.toNat_ofNat]

@[simp] theorem Acc.tag_of (tag : Bool) (f : Nat → Nat → Nat) : (Acc.of tag f).tag = tag := rfl

@[simp] theorem Acc.psn_of (tag : Bool) (f : Nat → Nat → Nat) : (Acc.of tag f).psn = false := rfl

/-- An element of an accumulator at core start. -/
theorem Acc.el_zero (i j : Nat) : Acc.zero.el i j = 0 := by
  simp [Acc.el, Acc.zero, RegFile.at', RegFile.read, RegFile.fill, Vector.get]

/-- An accumulator that was written reads back, and the others keep their values. -/
theorem Core.acc_setAcc (c : Core) (d a : BitVec 2) (x : Acc) :
    (c.setAcc d x).acc.read a = if a = d then x else c.acc.read a := by
  by_cases h : a = d
  · subst h; simp [Core.setAcc, RegFile.read_write_self]
  · simp [Core.setAcc, RegFile.read_write_ne _ _ h, h]

/-- An element of a list made from a function. -/
theorem getD_tabulate {α : Type} (n : Nat) (f : Nat → α) (d : α) {i : Nat} (h : i < n) : (tabulate n f).getD i d = f i := by
  simp [tabulate, List.getD, h]

/-- Two lists made from functions that agree on their indexes are equal. -/
theorem tabulate_congr {α : Type} {n : Nat} {f g : Nat → α} (h : ∀ i, i < n → f i = g i) : tabulate n f = tabulate n g := by
  simp only [tabulate, List.map_inj_left, List.mem_range]; exact h

/-- An element of a product of one pass (R172). -/
theorem mprod_el (alpha : Nat) (p q c : Tile) {i j : Nat} (hi : i < 64) (hj : j < 64) :
    (mprod false alpha p q c).el i j =
      prodElem alpha (c i j % 2 ^ 32) (partsOf false 0 true (p i)) (partsOf false 0 false (fun k => q k j)) % 2 ^ 32 := by
  show (Acc.of false (fun i j => prodElem alpha ((Acc.of false c).el i j)
    ((tabulate 64 (fun i => partsOf false 0 true (p i))).getD i [])
    ((tabulate 64 (fun j => partsOf false 0 false (fun k => q k j))).getD j []))).el i j = _
  rw [Acc.el_of _ _ hi hj, Acc.el_of _ _ hi hj, getD_tabulate _ _ _ hi, getD_tabulate _ _ _ hj]

/-- The parts of a row of zeros. -/
theorem partsOf_zero {x3 : Bool} {pass : Nat} {isA : Bool} {g : Nat → Nat} (h : ∀ k, k < 64 → g k = 0) :
    partsOf x3 pass isA g = partsOf x3 pass isA (fun _ => 0) :=
  tabulate_congr (fun k hk => by rw [h k hk])

end Sys2Proof.Machine
end

