-- ==== Sys2Proof/Laws/PerInstr.lean ====
section
/-! SUPPORT. Statements about the instruction as syntax, one lemma per constructor: the encoding of an instruction word
has one leading word and XW extension words (R37, R40); a row without an encoding has no words. -/
namespace Sys2Proof.Laws

/-- The encoding has as many words as the row's XW says; a row without an opcode has none. -/
def EncodedLength.Statement (i : Instr) : Prop :=
  (encode i).length = match opcOf i with
    | some p => 1 + p.2.toNat
    | none => 0

theorem EncodedLength.add (h : Hdr) (f : FmtSR) : EncodedLength.Statement (.add h f) := rfl
theorem EncodedLength.sub (h : Hdr) (f : FmtSR) : EncodedLength.Statement (.sub h f) := rfl
theorem EncodedLength.mul (h : Hdr) (f : FmtSR) : EncodedLength.Statement (.mul h f) := rfl
theorem EncodedLength.mulh (h : Hdr) (f : FmtSR) : EncodedLength.Statement (.mulh h f) := rfl
theorem EncodedLength.mulhu (h : Hdr) (f : FmtSR) : EncodedLength.Statement (.mulhu h f) := rfl
theorem EncodedLength.div (h : Hdr) (f : FmtSR) : EncodedLength.Statement (.div h f) := rfl
theorem EncodedLength.divu (h : Hdr) (f : FmtSR) : EncodedLength.Statement (.divu h f) := rfl
theorem EncodedLength.rem (h : Hdr) (f : FmtSR) : EncodedLength.Statement (.rem h f) := rfl
theorem EncodedLength.remu (h : Hdr) (f : FmtSR) : EncodedLength.Statement (.remu h f) := rfl
theorem EncodedLength.and (h : Hdr) (f : FmtSR) : EncodedLength.Statement (.and h f) := rfl
theorem EncodedLength.or (h : Hdr) (f : FmtSR) : EncodedLength.Statement (.or h f) := rfl
theorem EncodedLength.xor (h : Hdr) (f : FmtSR) : EncodedLength.Statement (.xor h f) := rfl
theorem EncodedLength.shl (h : Hdr) (f : FmtSR) : EncodedLength.Statement (.shl h f) := rfl
theorem EncodedLength.shr (h : Hdr) (f : FmtSR) : EncodedLength.Statement (.shr h f) := rfl
theorem EncodedLength.sar (h : Hdr) (f : FmtSR) : EncodedLength.Statement (.sar h f) := rfl
theorem EncodedLength.cmpeq (h : Hdr) (f : FmtSR) : EncodedLength.Statement (.cmpeq h f) := rfl
theorem EncodedLength.cmplt (h : Hdr) (f : FmtSR) : EncodedLength.Statement (.cmplt h f) := rfl
theorem EncodedLength.cmpltu (h : Hdr) (f : FmtSR) : EncodedLength.Statement (.cmpltu h f) := rfl
theorem EncodedLength.sel (h : Hdr) (f : FmtSR) : EncodedLength.Statement (.sel h f) := rfl
theorem EncodedLength.min (h : Hdr) (f : FmtSR) : EncodedLength.Statement (.min h f) := rfl
theorem EncodedLength.max (h : Hdr) (f : FmtSR) : EncodedLength.Statement (.max h f) := rfl
theorem EncodedLength.minu (h : Hdr) (f : FmtSR) : EncodedLength.Statement (.minu h f) := rfl
theorem EncodedLength.maxu (h : Hdr) (f : FmtSR) : EncodedLength.Statement (.maxu h f) := rfl
theorem EncodedLength.mov (h : Hdr) (f : FmtSR) : EncodedLength.Statement (.mov h f) := rfl
theorem EncodedLength.clz (h : Hdr) (f : FmtSR) : EncodedLength.Statement (.clz h f) := rfl
theorem EncodedLength.popc (h : Hdr) (f : FmtSR) : EncodedLength.Statement (.popc h f) := rfl
theorem EncodedLength.addi (h : Hdr) (f : FmtSI) : EncodedLength.Statement (.addi h f) := rfl
theorem EncodedLength.andi (h : Hdr) (f : FmtSI) : EncodedLength.Statement (.andi h f) := rfl
theorem EncodedLength.ori (h : Hdr) (f : FmtSI) : EncodedLength.Statement (.ori h f) := rfl
theorem EncodedLength.xori (h : Hdr) (f : FmtSI) : EncodedLength.Statement (.xori h f) := rfl
theorem EncodedLength.li (h : Hdr) (f : FmtSI) : EncodedLength.Statement (.li h f) := rfl
theorem EncodedLength.lih (h : Hdr) (f : FmtSI) : EncodedLength.Statement (.lih h f) := rfl
theorem EncodedLength.wset (h : Hdr) (f : FmtY) (e1 : BitVec 64) : EncodedLength.Statement (.wset h f e1) := rfl
theorem EncodedLength.fence (h : Hdr) (f : FmtY) : EncodedLength.Statement (.fence h f) := rfl
theorem EncodedLength.waitt (h : Hdr) (f : FmtY) : EncodedLength.Statement (.waitt h f) := rfl
theorem EncodedLength.waittTake (h : Hdr) (f : FmtY) : EncodedLength.Statement (.waittTake h f) := rfl
theorem EncodedLength.waittSig (h : Hdr) (f : FmtY) : EncodedLength.Statement (.waittSig h f) := rfl
theorem EncodedLength.stgacqW (h : Hdr) (f : FmtY) : EncodedLength.Statement (.stgacqW h f) := rfl
theorem EncodedLength.stgacqR (h : Hdr) (f : FmtY) : EncodedLength.Statement (.stgacqR h f) := rfl
theorem EncodedLength.stgrelW (h : Hdr) (f : FmtY) : EncodedLength.Statement (.stgrelW h f) := rfl
theorem EncodedLength.stgrelR (h : Hdr) (f : FmtY) : EncodedLength.Statement (.stgrelR h f) := rfl
theorem EncodedLength.rep (h : Hdr) (f : FmtK) : EncodedLength.Statement (.rep h f) := rfl
theorem EncodedLength.tlrd (h : Hdr) (f : FmtY) : EncodedLength.Statement (.tlrd h f) := rfl
theorem EncodedLength.itrd (h : Hdr) (f : FmtY) : EncodedLength.Statement (.itrd h f) := rfl
theorem EncodedLength.csrr (h : Hdr) (f : FmtY) : EncodedLength.Statement (.csrr h f) := rfl
theorem EncodedLength.csrw (h : Hdr) (f : FmtY) : EncodedLength.Statement (.csrw h f) := rfl
theorem EncodedLength.setcf (h : Hdr) (f : FmtY) : EncodedLength.Statement (.setcf h f) := rfl
theorem EncodedLength.patch (h : Hdr) (f : FmtK) : EncodedLength.Statement (.patch h f) := rfl
theorem EncodedLength.patchclr (h : Hdr) (f : FmtK) : EncodedLength.Statement (.patchclr h f) := rfl
theorem EncodedLength.patchclrAll (h : Hdr) (f : FmtK) : EncodedLength.Statement (.patchclrAll h f) := rfl
theorem EncodedLength.nop (h : Hdr) (f : FmtK) : EncodedLength.Statement (.nop h f) := rfl
theorem EncodedLength.lds (h : Hdr) (f : FmtC) : EncodedLength.Statement (.lds h f) := rfl
theorem EncodedLength.ldsW (h : Hdr) (f : FmtC) : EncodedLength.Statement (.ldsW h f) := rfl
theorem EncodedLength.sts (h : Hdr) (f : FmtC) : EncodedLength.Statement (.sts h f) := rfl
theorem EncodedLength.stsW (h : Hdr) (f : FmtC) : EncodedLength.Statement (.stsW h f) := rfl
theorem EncodedLength.ldtd (h : Hdr) (f : FmtC) : EncodedLength.Statement (.ldtd h f) := rfl
theorem EncodedLength.copy (h : Hdr) (f : FmtC) (e1 : BitVec 64) : EncodedLength.Statement (.copy h f e1) := rfl
theorem EncodedLength.tcopy (h : Hdr) (f : FmtC) (e1 : BitVec 64) (e2 : BitVec 64) (e3 : BitVec 64) : EncodedLength.Statement (.tcopy h f e1 e2 e3) := rfl
theorem EncodedLength.scopy (h : Hdr) (f : FmtC) (e1 : BitVec 64) : EncodedLength.Statement (.scopy h f e1) := rfl
theorem EncodedLength.ccopyDec (h : Hdr) (f : FmtC) (e1 : BitVec 64) : EncodedLength.Statement (.ccopyDec h f e1) := rfl
theorem EncodedLength.ccopyEnc (h : Hdr) (f : FmtC) (e1 : BitVec 64) : EncodedLength.Statement (.ccopyEnc h f e1) := rfl
theorem EncodedLength.pref (h : Hdr) (f : FmtC) : EncodedLength.Statement (.pref h f) := rfl
theorem EncodedLength.coll (h : Hdr) (f : FmtC) (e1 : BitVec 64) (e2 : BitVec 64) : EncodedLength.Statement (.coll h f e1 e2) := rfl
theorem EncodedLength.drain (h : Hdr) (f : FmtC) : EncodedLength.Statement (.drain h f) := rfl
theorem EncodedLength.atom (h : Hdr) (f : FmtC) : EncodedLength.Statement (.atom h f) := rfl
theorem EncodedLength.red (h : Hdr) (f : FmtC) : EncodedLength.Statement (.red h f) := rfl
theorem EncodedLength.cas (h : Hdr) (f : FmtC) : EncodedLength.Statement (.cas h f) := rfl
theorem EncodedLength.stgcfg (h : Hdr) (f : FmtY) (e1 : BitVec 64) : EncodedLength.Statement (.stgcfg h f e1) := rfl
theorem EncodedLength.estim (h : Hdr) (f : FmtY) : EncodedLength.Statement (.estim h f) := rfl
theorem EncodedLength.ipref (h : Hdr) (f : FmtY) : EncodedLength.Statement (.ipref h f) := rfl
theorem EncodedLength.ipin (h : Hdr) (f : FmtY) : EncodedLength.Statement (.ipin h f) := rfl
theorem EncodedLength.iunpin (h : Hdr) (f : FmtY) : EncodedLength.Statement (.iunpin h f) := rfl
theorem EncodedLength.wroute (h : Hdr) (f : FmtW) (e1 : BitVec 64) (e2 : BitVec 64) : EncodedLength.Statement (.wroute h f e1 e2) := rfl
theorem EncodedLength.wrouteFree (h : Hdr) (f : FmtW) (e1 : BitVec 64) (e2 : BitVec 64) : EncodedLength.Statement (.wrouteFree h f e1 e2) := rfl
theorem EncodedLength.wload (h : Hdr) (f : FmtW) : EncodedLength.Statement (.wload h f) := rfl
theorem EncodedLength.wstart (h : Hdr) (f : FmtW) : EncodedLength.Statement (.wstart h f) := rfl
theorem EncodedLength.wstop (h : Hdr) (f : FmtW) : EncodedLength.Statement (.wstop h f) := rfl
theorem EncodedLength.wstat (h : Hdr) (f : FmtW) : EncodedLength.Statement (.wstat h f) := rfl
theorem EncodedLength.mzero (h : Hdr) (f : FmtM) : EncodedLength.Statement (.mzero h f) := rfl
theorem EncodedLength.mident (h : Hdr) (f : FmtM) : EncodedLength.Statement (.mident h f) := rfl
theorem EncodedLength.mldacc (h : Hdr) (f : FmtM) : EncodedLength.Statement (.mldacc h f) := rfl
theorem EncodedLength.mstacc (h : Hdr) (f : FmtM) : EncodedLength.Statement (.mstacc h f) := rfl
theorem EncodedLength.mmul (h : Hdr) (f : FmtM) : EncodedLength.Statement (.mmul h f) := rfl
theorem EncodedLength.madda (h : Hdr) (f : FmtM) : EncodedLength.Statement (.madda h f) := rfl
theorem EncodedLength.mscale (h : Hdr) (f : FmtM) : EncodedLength.Statement (.mscale h f) := rfl
theorem EncodedLength.mtrans (h : Hdr) (f : FmtM) : EncodedLength.Statement (.mtrans h f) := rfl
theorem EncodedLength.mnormFro (h : Hdr) (f : FmtM) : EncodedLength.Statement (.mnormFro h f) := rfl
theorem EncodedLength.mnormMax (h : Hdr) (f : FmtM) : EncodedLength.Statement (.mnormMax h f) := rfl
theorem EncodedLength.mnormUnit (h : Hdr) (f : FmtM) : EncodedLength.Statement (.mnormUnit h f) := rfl
theorem EncodedLength.kmovS (h : Hdr) (f : FmtM) : EncodedLength.Statement (.kmovS h f) := rfl
theorem EncodedLength.kmovK (h : Hdr) (f : FmtM) : EncodedLength.Statement (.kmovK h f) := rfl
theorem EncodedLength.kmovImm (h : Hdr) (f : FmtM) : EncodedLength.Statement (.kmovImm h f) := rfl
theorem EncodedLength.kld (h : Hdr) (f : FmtM) : EncodedLength.Statement (.kld h f) := rfl
theorem EncodedLength.mpoly (h : Hdr) (f : FmtM) : EncodedLength.Statement (.mpoly h f) := rfl
theorem EncodedLength.miter (h : Hdr) (f : FmtM) : EncodedLength.Statement (.miter h f) := rfl
theorem EncodedLength.vld (h : Hdr) (f : FmtV) : EncodedLength.Statement (.vld h f) := rfl
theorem EncodedLength.vst (h : Hdr) (f : FmtV) : EncodedLength.Statement (.vst h f) := rfl
theorem EncodedLength.vgath (h : Hdr) (f : FmtV) : EncodedLength.Statement (.vgath h f) := rfl
theorem EncodedLength.vscat (h : Hdr) (f : FmtV) : EncodedLength.Statement (.vscat h f) := rfl
theorem EncodedLength.vmov (h : Hdr) (f : FmtV) : EncodedLength.Statement (.vmov h f) := rfl
theorem EncodedLength.vsplat (h : Hdr) (f : FmtV) : EncodedLength.Statement (.vsplat h f) := rfl
theorem EncodedLength.vextr (h : Hdr) (f : FmtV) : EncodedLength.Statement (.vextr h f) := rfl
theorem EncodedLength.vadd (h : Hdr) (f : FmtV) : EncodedLength.Statement (.vadd h f) := rfl
theorem EncodedLength.vsub (h : Hdr) (f : FmtV) : EncodedLength.Statement (.vsub h f) := rfl
theorem EncodedLength.vmul (h : Hdr) (f : FmtV) : EncodedLength.Statement (.vmul h f) := rfl
theorem EncodedLength.vfma (h : Hdr) (f : FmtV) : EncodedLength.Statement (.vfma h f) := rfl
theorem EncodedLength.vfms (h : Hdr) (f : FmtV) : EncodedLength.Statement (.vfms h f) := rfl
theorem EncodedLength.vmin (h : Hdr) (f : FmtV) : EncodedLength.Statement (.vmin h f) := rfl
theorem EncodedLength.vmax (h : Hdr) (f : FmtV) : EncodedLength.Statement (.vmax h f) := rfl
theorem EncodedLength.vabs (h : Hdr) (f : FmtV) : EncodedLength.Statement (.vabs h f) := rfl
theorem EncodedLength.vneg (h : Hdr) (f : FmtV) : EncodedLength.Statement (.vneg h f) := rfl
theorem EncodedLength.vrcp (h : Hdr) (f : FmtV) : EncodedLength.Statement (.vrcp h f) := rfl
theorem EncodedLength.vrsq (h : Hdr) (f : FmtV) : EncodedLength.Statement (.vrsq h f) := rfl
theorem EncodedLength.vsqrt (h : Hdr) (f : FmtV) : EncodedLength.Statement (.vsqrt h f) := rfl
theorem EncodedLength.vexp2 (h : Hdr) (f : FmtV) : EncodedLength.Statement (.vexp2 h f) := rfl
theorem EncodedLength.vlog2 (h : Hdr) (f : FmtV) : EncodedLength.Statement (.vlog2 h f) := rfl
theorem EncodedLength.vtanh (h : Hdr) (f : FmtV) : EncodedLength.Statement (.vtanh h f) := rfl
theorem EncodedLength.vsigm (h : Hdr) (f : FmtV) : EncodedLength.Statement (.vsigm h f) := rfl
theorem EncodedLength.vcvt (h : Hdr) (f : FmtV) : EncodedLength.Statement (.vcvt h f) := rfl
theorem EncodedLength.vbscale (h : Hdr) (f : FmtV) : EncodedLength.Statement (.vbscale h f) := rfl
theorem EncodedLength.viadd (h : Hdr) (f : FmtV) : EncodedLength.Statement (.viadd h f) := rfl
theorem EncodedLength.visub (h : Hdr) (f : FmtV) : EncodedLength.Statement (.visub h f) := rfl
theorem EncodedLength.vimul (h : Hdr) (f : FmtV) : EncodedLength.Statement (.vimul h f) := rfl
theorem EncodedLength.vand (h : Hdr) (f : FmtV) : EncodedLength.Statement (.vand h f) := rfl
theorem EncodedLength.vor (h : Hdr) (f : FmtV) : EncodedLength.Statement (.vor h f) := rfl
theorem EncodedLength.vxor (h : Hdr) (f : FmtV) : EncodedLength.Statement (.vxor h f) := rfl
theorem EncodedLength.vshl (h : Hdr) (f : FmtV) : EncodedLength.Statement (.vshl h f) := rfl
theorem EncodedLength.vshr (h : Hdr) (f : FmtV) : EncodedLength.Statement (.vshr h f) := rfl
theorem EncodedLength.vsar (h : Hdr) (f : FmtV) : EncodedLength.Statement (.vsar h f) := rfl
theorem EncodedLength.vcmp (h : Hdr) (f : FmtV) : EncodedLength.Statement (.vcmp h f) := rfl
theorem EncodedLength.vsel (h : Hdr) (f : FmtV) : EncodedLength.Statement (.vsel h f) := rfl
theorem EncodedLength.vperm (h : Hdr) (f : FmtV) : EncodedLength.Statement (.vperm h f) := rfl
theorem EncodedLength.vbcast (h : Hdr) (f : FmtV) : EncodedLength.Statement (.vbcast h f) := rfl
theorem EncodedLength.vslide (h : Hdr) (f : FmtV) : EncodedLength.Statement (.vslide h f) := rfl
theorem EncodedLength.vred (h : Hdr) (f : FmtV) : EncodedLength.Statement (.vred h f) := rfl
theorem EncodedLength.vtopk (h : Hdr) (f : FmtV) : EncodedLength.Statement (.vtopk h f) := rfl
theorem EncodedLength.vrand (h : Hdr) (f : FmtV) : EncodedLength.Statement (.vrand h f) := rfl
theorem EncodedLength.pand (h : Hdr) (f : FmtP) : EncodedLength.Statement (.pand h f) := rfl
theorem EncodedLength.por (h : Hdr) (f : FmtP) : EncodedLength.Statement (.por h f) := rfl
theorem EncodedLength.pxor (h : Hdr) (f : FmtP) : EncodedLength.Statement (.pxor h f) := rfl
theorem EncodedLength.pnot (h : Hdr) (f : FmtP) : EncodedLength.Statement (.pnot h f) := rfl
theorem EncodedLength.pcnt (h : Hdr) (f : FmtP) : EncodedLength.Statement (.pcnt h f) := rfl
theorem EncodedLength.pset (h : Hdr) (f : FmtP) (e1 : BitVec 64) : EncodedLength.Statement (.pset h f e1) := rfl
theorem EncodedLength.scancfg (h : Hdr) (f : FmtY) : EncodedLength.Statement (.scancfg h f) := rfl
theorem EncodedLength.scanjoin (h : Hdr) (f : FmtY) : EncodedLength.Statement (.scanjoin h f) := rfl
theorem EncodedLength.scanleave (h : Hdr) (f : FmtY) : EncodedLength.Statement (.scanleave h f) := rfl
theorem EncodedLength.scan (h : Hdr) (f : FmtV) : EncodedLength.Statement (.scan h f) := rfl
theorem EncodedLength.scantot (h : Hdr) (f : FmtV) : EncodedLength.Statement (.scantot h f) := rfl
theorem EncodedLength.append (h : Hdr) (f : FmtY) : EncodedLength.Statement (.append h f) := rfl
theorem EncodedLength.wlpop (h : Hdr) (f : FmtY) : EncodedLength.Statement (.wlpop h f) := rfl
theorem EncodedLength.nest (h : Hdr) (f : FmtK) : EncodedLength.Statement (.nest h f) := rfl
theorem EncodedLength.endn (h : Hdr) (f : FmtK) : EncodedLength.Statement (.endn h f) := rfl
theorem EncodedLength.br (h : Hdr) (f : FmtK) : EncodedLength.Statement (.br h f) := rfl
theorem EncodedLength.jmp (h : Hdr) (f : FmtK) : EncodedLength.Statement (.jmp h f) := rfl
theorem EncodedLength.jmpReg (h : Hdr) (f : FmtK) : EncodedLength.Statement (.jmpReg h f) := rfl
theorem EncodedLength.call (h : Hdr) (f : FmtK) : EncodedLength.Statement (.call h f) := rfl
theorem EncodedLength.callReg (h : Hdr) (f : FmtK) : EncodedLength.Statement (.callReg h f) := rfl
theorem EncodedLength.ret (h : Hdr) (f : FmtK) : EncodedLength.Statement (.ret h f) := rfl
theorem EncodedLength.exit (h : Hdr) (f : FmtK) : EncodedLength.Statement (.exit h f) := rfl
theorem EncodedLength.arrive (h : Hdr) (f : FmtY) : EncodedLength.Statement (.arrive h f) := rfl
theorem EncodedLength.waitb (h : Hdr) (f : FmtY) : EncodedLength.Statement (.waitb h f) := rfl
theorem EncodedLength.sync (h : Hdr) (f : FmtY) : EncodedLength.Statement (.sync h f) := rfl
theorem EncodedLength.dmset (h : Hdr) (f : FmtY) : EncodedLength.Statement (.dmset h f) := rfl
theorem EncodedLength.quiesce (h : Hdr) (f : FmtY) : EncodedLength.Statement (.quiesce h f) := rfl
theorem EncodedLength.yield (h : Hdr) (f : FmtK) : EncodedLength.Statement (.yield h f) := rfl
theorem EncodedLength.brk (h : Hdr) (f : FmtK) : EncodedLength.Statement (.brk h f) := rfl
theorem EncodedLength.trap (h : Hdr) (f : FmtK) : EncodedLength.Statement (.trap h f) := rfl
theorem EncodedLength.illegalWord (chk : BitVec 8) : EncodedLength.Statement (.illegalWord chk) := rfl
theorem EncodedLength.xPass (x : FmtX) : EncodedLength.Statement (.xPass x) := rfl
theorem EncodedLength.xIdle (x : FmtX) : EncodedLength.Statement (.xIdle x) := rfl
theorem EncodedLength.xAdd (x : FmtX) : EncodedLength.Statement (.xAdd x) := rfl
theorem EncodedLength.xMul (x : FmtX) : EncodedLength.Statement (.xMul x) := rfl
theorem EncodedLength.xFma (x : FmtX) : EncodedLength.Statement (.xFma x) := rfl
theorem EncodedLength.xMax (x : FmtX) : EncodedLength.Statement (.xMax x) := rfl
theorem EncodedLength.xMin (x : FmtX) : EncodedLength.Statement (.xMin x) := rfl
theorem EncodedLength.xAcc (x : FmtX) : EncodedLength.Statement (.xAcc x) := rfl
theorem EncodedLength.xCmp (x : FmtX) : EncodedLength.Statement (.xCmp x) := rfl
theorem EncodedLength.xSel (x : FmtX) : EncodedLength.Statement (.xSel x) := rfl
theorem EncodedLength.xCvt (x : FmtX) : EncodedLength.Statement (.xCvt x) := rfl
theorem EncodedLength.xScale (x : FmtX) : EncodedLength.Statement (.xScale x) := rfl
theorem EncodedLength.xLut (x : FmtX) : EncodedLength.Statement (.xLut x) := rfl
theorem EncodedLength.stripEndMark (cl ws : Nat) : EncodedLength.Statement (.stripEndMark cl ws) := rfl
theorem EncodedLength.moBeat (ci rt : Nat) : EncodedLength.Statement (.moBeat ci rt) := rfl
theorem EncodedLength.voSlot (ci rt : Nat) : EncodedLength.Statement (.voSlot ci rt) := rfl
theorem EncodedLength.viSlot (ci rt dst : Nat) : EncodedLength.Statement (.viSlot ci rt dst) := rfl
theorem EncodedLength.transposeBlock (cl u : Nat) : EncodedLength.Statement (.transposeBlock cl u) := rfl
theorem EncodedLength.routeDone (ci rt : Nat) : EncodedLength.Statement (.routeDone ci rt) := rfl
theorem EncodedLength.watchdogExpiry (ctx cl : Nat) : EncodedLength.Statement (.watchdogExpiry ctx cl) := rfl
theorem EncodedLength.waitStandstill (ctx : Nat) : EncodedLength.Statement (.waitStandstill ctx) := rfl
theorem EncodedLength.copyRun (ci ch : Nat) (w : CopyWork) : EncodedLength.Statement (.copyRun ci ch w) := rfl
theorem EncodedLength.phaseCopySlot (ci ch : Nat) : EncodedLength.Statement (.phaseCopySlot ci ch) := rfl
theorem EncodedLength.timelineComplete (ci tl : Nat) : EncodedLength.Statement (.timelineComplete ci tl) := rfl
theorem EncodedLength.tcopyStageRelease (ci ch : Nat) : EncodedLength.Statement (.tcopyStageRelease ci ch) := rfl
theorem EncodedLength.pageFill (ctx va : Nat) : EncodedLength.Statement (.pageFill ctx va) := rfl
theorem EncodedLength.fillDone (ctx va frame : Nat) (ok : Bool) : EncodedLength.Statement (.fillDone ctx va frame ok) := rfl
theorem EncodedLength.cowResolve (ci frame : Nat) : EncodedLength.Statement (.cowResolve ci frame) := rfl
theorem EncodedLength.homeAtomic (i : Nat) : EncodedLength.Statement (.homeAtomic i) := rfl
theorem EncodedLength.mergeBufferForward (i : Nat) : EncodedLength.Statement (.mergeBufferForward i) := rfl
theorem EncodedLength.homeMigrationWindow : EncodedLength.Statement .homeMigrationWindow := rfl
theorem EncodedLength.homeListOp (i : Nat) : EncodedLength.Statement (.homeListOp i) := rfl
theorem EncodedLength.barrierRelease (ci lvl : Nat) (remote : BarrierNews) : EncodedLength.Statement (.barrierRelease ci lvl remote) := rfl
theorem EncodedLength.quiesceDecision (ci : Nat) (q : QuiesceNews) : EncodedLength.Statement (.quiesceDecision ci q) := rfl
theorem EncodedLength.scanJoinDecision (ci : Nat) (j : JoinNews) : EncodedLength.Statement (.scanJoinDecision ci j) := rfl
theorem EncodedLength.scanCarryArrival (ci : Nat) (y : CarryNews) : EncodedLength.Statement (.scanCarryArrival ci y) := rfl
theorem EncodedLength.scanTotalArrival (ci g : Nat) : EncodedLength.Statement (.scanTotalArrival ci g) := rfl
theorem EncodedLength.coreFreezeRecord (ci recPA : Nat) : EncodedLength.Statement (.coreFreezeRecord ci recPA) := rfl
theorem EncodedLength.eventWrite : EncodedLength.Statement .eventWrite := rfl
theorem EncodedLength.kick (qid seq : Nat) : EncodedLength.Statement (.kick qid seq) := rfl
theorem EncodedLength.evcons (v : Nat) : EncodedLength.Statement (.evcons v) := rfl
theorem EncodedLength.registerWriteIgnored (off : Nat) (data : List (BitVec 8)) : EncodedLength.Statement (.registerWriteIgnored off data) := rfl
theorem EncodedLength.hostPostedWrite (bar : Bool) (addr : Nat) (data : List (BitVec 8)) (poisoned : Bool) : EncodedLength.Statement (.hostPostedWrite bar addr data poisoned) := rfl
theorem EncodedLength.unsupportedRequest (kind : Nat) : EncodedLength.Statement (.unsupportedRequest kind) := rfl
theorem EncodedLength.qsWake : EncodedLength.Statement .qsWake := rfl
theorem EncodedLength.qsPeriodicWake : EncodedLength.Statement .qsPeriodicWake := rfl
theorem EncodedLength.selection : EncodedLength.Statement .selection := rfl
theorem EncodedLength.bind (place : List Nat) : EncodedLength.Statement (.bind place) := rfl
theorem EncodedLength.peerJobStart (job : Nat) : EncodedLength.Statement (.peerJobStart job) := rfl
theorem EncodedLength.shareReport (ci : Nat) : EncodedLength.Statement (.shareReport ci) := rfl
theorem EncodedLength.launchComplete (t : Nat) : EncodedLength.Statement (.launchComplete t) := rfl
theorem EncodedLength.queueAudit (qid : Nat) : EncodedLength.Statement (.queueAudit qid) := rfl
theorem EncodedLength.drainStopPoint (t : Nat) : EncodedLength.Statement (.drainStopPoint t) := rfl
theorem EncodedLength.drainLimitExpiry (t : Nat) : EncodedLength.Statement (.drainLimitExpiry t) := rfl
theorem EncodedLength.checkpoint (t : Nat) : EncodedLength.Statement (.checkpoint t) := rfl
theorem EncodedLength.kill (t : Nat) : EncodedLength.Statement (.kill t) := rfl
theorem EncodedLength.contextSave (t : Nat) : EncodedLength.Statement (.contextSave t) := rfl
theorem EncodedLength.resumeBind (t : Nat) (place : List Nat) : EncodedLength.Statement (.resumeBind t place) := rfl
theorem EncodedLength.restore (t : Nat) : EncodedLength.Statement (.restore t) := rfl
theorem EncodedLength.invalRange (cmd : List (BitVec 8)) : EncodedLength.Statement (.invalRange cmd) := rfl
theorem EncodedLength.invalAsid (cmd : List (BitVec 8)) : EncodedLength.Statement (.invalAsid cmd) := rfl
theorem EncodedLength.invalAll (cmd : List (BitVec 8)) : EncodedLength.Statement (.invalAll cmd) := rfl
theorem EncodedLength.invalAck : EncodedLength.Statement .invalAck := rfl
theorem EncodedLength.registerObject (base : Nat) : EncodedLength.Statement (.registerObject base) := rfl
theorem EncodedLength.deregisterObject : EncodedLength.Statement .deregisterObject := rfl
theorem EncodedLength.registerQueue : EncodedLength.Statement .registerQueue := rfl
theorem EncodedLength.setPbias : EncodedLength.Statement .setPbias := rfl
theorem EncodedLength.setContextDescriptor : EncodedLength.Statement .setContextDescriptor := rfl
theorem EncodedLength.setTimeShareTable : EncodedLength.Statement .setTimeShareTable := rfl
theorem EncodedLength.continue : EncodedLength.Statement .continue := rfl
theorem EncodedLength.killcore : EncodedLength.Statement .killcore := rfl
theorem EncodedLength.endtask : EncodedLength.Statement .endtask := rfl
theorem EncodedLength.saveack : EncodedLength.Statement .saveack := rfl
theorem EncodedLength.resync : EncodedLength.Statement .resync := rfl
theorem EncodedLength.qreset : EncodedLength.Statement .qreset := rfl
theorem EncodedLength.fnset : EncodedLength.Statement .fnset := rfl
theorem EncodedLength.fnmodeApply (b : Nat) : EncodedLength.Statement (.fnmodeApply b) := rfl
theorem EncodedLength.attest : EncodedLength.Statement .attest := rfl
theorem EncodedLength.evring : EncodedLength.Statement .evring := rfl
theorem EncodedLength.mapq : EncodedLength.Statement .mapq := rfl
theorem EncodedLength.retire (frame base : Nat) : EncodedLength.Statement (.retire frame base) := rfl
theorem EncodedLength.setduty : EncodedLength.Statement .setduty := rfl
theorem EncodedLength.corestate : EncodedLength.Statement .corestate := rfl
theorem EncodedLength.unknownCommand : EncodedLength.Statement .unknownCommand := rfl
theorem EncodedLength.frameRetire (old frame base : Nat) : EncodedLength.Statement (.frameRetire old frame base) := rfl
theorem EncodedLength.uncorrectableCoreState (ci k : Nat) : EncodedLength.Statement (.uncorrectableCoreState ci k) := rfl
theorem EncodedLength.patrolScrub (found : Finding) : EncodedLength.Statement (.patrolScrub found) := rfl
theorem EncodedLength.shareWindow : EncodedLength.Statement .shareWindow := rfl
theorem EncodedLength.powerCapAdjust (watts : Nat) (duties : List Nat) : EncodedLength.Statement (.powerCapAdjust watts duties) := rfl
theorem EncodedLength.thermalAction (die tenths : Nat) : EncodedLength.Statement (.thermalAction die tenths) := rfl
theorem EncodedLength.thermalPowerOff : EncodedLength.Statement .thermalPowerOff := rfl
theorem EncodedLength.telemetryPeriod (watts tenths : Nat) : EncodedLength.Statement (.telemetryPeriod watts tenths) := rfl
theorem EncodedLength.coldReset (fuses : List Nat) (pkg : Nat) (others : List Nat) (images : List Image) : EncodedLength.Statement (.coldReset fuses pkg others images) := rfl
theorem EncodedLength.functionLevelReset : EncodedLength.Statement .functionLevelReset := rfl
theorem EncodedLength.walkedWord (w : BitVec 64) : EncodedLength.Statement (.walkedWord w) := rfl
theorem EncodedLength.coreSlotRetirement (die cl slot : Nat) : EncodedLength.Statement (.coreSlotRetirement die cl slot) := rfl
theorem EncodedLength.clusterHardFailure (die cl : Nat) : EncodedLength.Statement (.clusterHardFailure die cl) := rfl
theorem EncodedLength.remoteCopyArrival (kind job cl addr : Nat) (data : List (BitVec 8)) : EncodedLength.Statement (.remoteCopyArrival kind job cl addr data) := rfl
theorem EncodedLength.dieToDieLinkFailure (edge : Nat) : EncodedLength.Statement (.dieToDieLinkFailure edge) := rfl
theorem EncodedLength.scaleOutPortFailure (port : Nat) : EncodedLength.Statement (.scaleOutPortFailure port) := rfl
theorem EncodedLength.powerDeliveryTrip : EncodedLength.Statement .powerDeliveryTrip := rfl

end Sys2Proof.Laws
end

