-- ==== Sys2Proof/Tests/Slice0.lean ====
section
/-! SUPPORT. Tests: words of the encodings (spec/02, spec/13), the checks of well-formedness, and single steps on small
states. Expected values come from the spec's tables and worked examples, or from them by hand. -/
namespace Sys2Proof.Tests
open Sys2Proof.Machine

/-- A header with a tag and nothing else set. -/
def hdr (e : BitVec 3) : Hdr := { eng := e, pushN := false, pushP := false, popN := false, popP := false, dly := 0 }

def fSR : FmtSR := { sd := 5, sa := 6, sb := 7, sc := 8, rsv := 0 }
def fSI : FmtSI := { sd := 5, sa := 6, imm := 0x12345678 }
def fV : FmtV := { rm := 1, pred := 2, pneg := 1, vd := 3, va := 4, vb := 5, vc := 6, ty := 1, ops := 0x0A5 }
def fP : FmtP := { pd := 1, pa := 2, pb := 3, sd := 4, rsv := 0 }
def fM (flg : BitVec 4) : FmtM := { acd := 2, acs := 1, wa := 4, wb := 5, ty := 3, rm := 1, flg := flg, ops := 0x1F }
def fC (ops : BitVec 16) : FmtC := { ch := 1, scp := 2, ord := 3, sd := 12, sa := 10, sb := 13, dr := 7, ops := ops }
def fY (ops : BitVec 20) : FmtY := { sd := 5, sa := 6, sb := 7, scp := 1, idx := 3, ops := ops }
def fK (ops : BitVec 11) : FmtK := { sa := 5, cf := 6, cn := 1, lv := 2, ops := ops, imm := 0x54321 }
def fW (ops : BitVec 19) : FmtW := { sd := 5, sa := 6, sb := 7, rt := 8, ws := 9, ops := ops }

/-- Whether words read as an instruction. -/
def readsAs (ws : List Word) (i : Instr) : Bool :=
  match decode ws with
  | .ok j => j == i
  | .error _ => false

/-- Whether each list of words reads as its instruction. -/
def readsAll (l : List (List Word × Instr)) : Bool := l.all (fun p => readsAs p.1 p.2)

/-- Words of R45-R60: the opcode of each row, with distinct operands. -/
theorem test_decode_scalar_registers : readsAll [
    ([0x000100A63A000000], .add (hdr 0) fSR),
    ([0x000200A63A000000], .sub (hdr 0) fSR),
    ([0x000300A63A000000], .mul (hdr 0) fSR),
    ([0x000400A63A000000], .mulh (hdr 0) fSR),
    ([0x000500A63A000000], .mulhu (hdr 0) fSR),
    ([0x000600A63A000000], .div (hdr 0) fSR),
    ([0x000700A63A000000], .divu (hdr 0) fSR),
    ([0x000800A63A000000], .rem (hdr 0) fSR),
    ([0x000900A63A000000], .remu (hdr 0) fSR),
    ([0x000A00A63A000000], .and (hdr 0) fSR),
    ([0x000B00A63A000000], .or (hdr 0) fSR),
    ([0x000C00A63A000000], .xor (hdr 0) fSR),
    ([0x000D00A63A000000], .shl (hdr 0) fSR),
    ([0x000E00A63A000000], .shr (hdr 0) fSR),
    ([0x000F00A63A000000], .sar (hdr 0) fSR),
    ([0x001000A63A000000], .cmpeq (hdr 0) fSR),
    ([0x001100A63A000000], .cmplt (hdr 0) fSR),
    ([0x001200A63A000000], .cmpltu (hdr 0) fSR),
    ([0x001300A63A000000], .sel (hdr 0) fSR),
    ([0x001400A63A000000], .min (hdr 0) fSR),
    ([0x001500A63A000000], .max (hdr 0) fSR),
    ([0x001600A63A000000], .minu (hdr 0) fSR),
    ([0x001700A63A000000], .maxu (hdr 0) fSR),
    ([0x001800A63A000000], .mov (hdr 0) fSR),
    ([0x001900A63A000000], .clz (hdr 0) fSR),
    ([0x001A00A63A000000], .popc (hdr 0) fSR)] = true := by decide

/-- Words of R45-R60: the opcode of each row, with distinct operands. -/
theorem test_decode_scalar_immediates : readsAll [
    ([0x402000A612345678], .addi (hdr 2) fSI),
    ([0x402100A612345678], .andi (hdr 2) fSI),
    ([0x402200A612345678], .ori (hdr 2) fSI),
    ([0x402300A612345678], .xori (hdr 2) fSI),
    ([0x402400A612345678], .li (hdr 2) fSI),
    ([0x402500A612345678], .lih (hdr 2) fSI),
    ([0x003040A639300021, 0x1], .wset (hdr 0) (fY 0x21) 1)] = true := by decide

/-- Words of R45-R60: the opcode of each row, with distinct operands. -/
theorem test_decode_shared : readsAll [
    ([0x21C000A639300021], .fence (hdr 1) (fY 0x21)),
    ([0x01C100A639380001], .waitt (hdr 0) (fY 0x80001)),
    ([0x01C100A639320001], .waittTake (hdr 0) (fY 0x20001)),
    ([0x41C100A639340001], .waittSig (hdr 2) (fY 0x40001)),
    ([0x01C200A639300000], .stgacqW (hdr 0) (fY 0x0)),
    ([0x21C200A639300001], .stgacqR (hdr 1) (fY 0x1)),
    ([0x01C300A639300000], .stgrelW (hdr 0) (fY 0x0)),
    ([0x21C300A639300001], .stgrelR (hdr 1) (fY 0x1)),
    ([0x21C400BB02054321], .rep (hdr 1) (fK 0x20)),
    ([0x01C800A639300021], .tlrd (hdr 0) (fY 0x21)),
    ([0x41C900A639300021], .itrd (hdr 2) (fY 0x21)),
    ([0x01CA00A639300021], .csrr (hdr 0) (fY 0x21)),
    ([0x41CB00A639300021], .csrw (hdr 2) (fY 0x21)),
    ([0x01CC00A639300021], .setcf (hdr 0) (fY 0x21)),
    ([0x01CD00BB00A54321], .patch (hdr 0) (fK 0xA)),
    ([0x01CE00BB00A54321], .patchclr (hdr 0) (fK 0xA)),
    ([0x41CE00BB00054321], .patchclrAll (hdr 2) (fK 0x0)),
    ([0x61F000BB02054321], .nop (hdr 3) (fK 0x20))] = true := by decide

/-- Words of R45-R60: the opcode of each row, with distinct operands. -/
theorem test_decode_a_strand : readsAll [
    ([0x0080015B14D70021], .lds (hdr 0) (fC 0x21)),
    ([0x0080015B14D78021], .ldsW (hdr 0) (fC 0x8021)),
    ([0x0081015B14D70021], .sts (hdr 0) (fC 0x21)),
    ([0x0081015B14D78021], .stsW (hdr 0) (fC 0x8021)),
    ([0x0082015B14D70021], .ldtd (hdr 0) (fC 0x21)),
    ([0x0083415B14D70021, 0x1], .copy (hdr 0) (fC 0x21) 1),
    ([0x0084C15B14D70021, 0x1, 0x2, 0x3], .tcopy (hdr 0) (fC 0x21) 1 2 3),
    ([0x0085415B14D70021, 0x1], .scopy (hdr 0) (fC 0x21) 1),
    ([0x0086415B14D70021, 0x1], .ccopyDec (hdr 0) (fC 0x21) 1),
    ([0x0086415B14D70821, 0x1], .ccopyEnc (hdr 0) (fC 0x821) 1),
    ([0x0087015B14D70021], .pref (hdr 0) (fC 0x21)),
    ([0x0088815B14D70021, 0x1, 0x2], .coll (hdr 0) (fC 0x21) 1 2),
    ([0x0089015B14D70021], .drain (hdr 0) (fC 0x21)),
    ([0x00A0015B14D70021], .atom (hdr 0) (fC 0x21)),
    ([0x00A1015B14D70021], .red (hdr 0) (fC 0x21)),
    ([0x00A2015B14D70021], .cas (hdr 0) (fC 0x21)),
    ([0x00C040A639300021, 0x1], .stgcfg (hdr 0) (fY 0x21) 1),
    ([0x00C100A639300021], .estim (hdr 0) (fY 0x21)),
    ([0x00C200A639300021], .ipref (hdr 0) (fY 0x21)),
    ([0x00C300A639300021], .ipin (hdr 0) (fY 0x21)),
    ([0x00C400A639300021], .iunpin (hdr 0) (fY 0x21)),
    ([0x00E080A63C480021, 0x1, 0x2], .wroute (hdr 0) (fW 0x21) 1 2),
    ([0x00E080A63C4C0000, 0x1, 0x2], .wrouteFree (hdr 0) (fW 0x40000) 1 2),
    ([0x00E100A63C480021], .wload (hdr 0) (fW 0x21)),
    ([0x00E200A63C480021], .wstart (hdr 0) (fW 0x21)),
    ([0x00E300A63C480021], .wstop (hdr 0) (fW 0x21)),
    ([0x00E400A63C480021], .wstat (hdr 0) (fW 0x21))] = true := by decide

/-- Words of R45-R60: the opcode of each row, with distinct operands. -/
theorem test_decode_m_strand : readsAll [
    ([0x210002514D00001F], .mzero (hdr 1) (fM 0)),
    ([0x210102514D00001F], .mident (hdr 1) (fM 0)),
    ([0x210202514D00001F], .mldacc (hdr 1) (fM 0)),
    ([0x210302514D00001F], .mstacc (hdr 1) (fM 0)),
    ([0x210402514D00001F], .mmul (hdr 1) (fM 0)),
    ([0x210502514D00001F], .madda (hdr 1) (fM 0)),
    ([0x210602514D00001F], .mscale (hdr 1) (fM 0)),
    ([0x210702514D00001F], .mtrans (hdr 1) (fM 0)),
    ([0x210802514D00001F], .mnormFro (hdr 1) (fM 0)),
    ([0x210802514D10001F], .mnormMax (hdr 1) (fM 1)),
    ([0x210802514D20001F], .mnormUnit (hdr 1) (fM 2)),
    ([0x214002514D00001F], .kmovS (hdr 1) (fM 0)),
    ([0x214002514D10001F], .kmovK (hdr 1) (fM 1)),
    ([0x214002514D20001F], .kmovImm (hdr 1) (fM 2)),
    ([0x214102514D00001F], .kld (hdr 1) (fM 0)),
    ([0x214202514D00001F], .mpoly (hdr 1) (fM 0)),
    ([0x214302514D00001F], .miter (hdr 1) (fM 0))] = true := by decide

/-- Words of R45-R60: the opcode of each row, with distinct operands. -/
theorem test_decode_v_strand_1 : readsAll [
    ([0x4080015190A610A5], .vld (hdr 2) fV),
    ([0x4081015190A610A5], .vst (hdr 2) fV),
    ([0x4082015190A610A5], .vgath (hdr 2) fV),
    ([0x4083015190A610A5], .vscat (hdr 2) fV),
    ([0x4084015190A610A5], .vmov (hdr 2) fV),
    ([0x4085015190A610A5], .vsplat (hdr 2) fV),
    ([0x4086015190A610A5], .vextr (hdr 2) fV),
    ([0x4087015190A610A5], .vadd (hdr 2) fV),
    ([0x4088015190A610A5], .vsub (hdr 2) fV),
    ([0x4089015190A610A5], .vmul (hdr 2) fV),
    ([0x408A015190A610A5], .vfma (hdr 2) fV),
    ([0x408B015190A610A5], .vfms (hdr 2) fV),
    ([0x408C015190A610A5], .vmin (hdr 2) fV),
    ([0x408D015190A610A5], .vmax (hdr 2) fV),
    ([0x408E015190A610A5], .vabs (hdr 2) fV),
    ([0x408F015190A610A5], .vneg (hdr 2) fV),
    ([0x4090015190A610A5], .vrcp (hdr 2) fV),
    ([0x4091015190A610A5], .vrsq (hdr 2) fV),
    ([0x4092015190A610A5], .vsqrt (hdr 2) fV),
    ([0x4093015190A610A5], .vexp2 (hdr 2) fV),
    ([0x4094015190A610A5], .vlog2 (hdr 2) fV)] = true := by decide

/-- Words of R45-R60: the opcode of each row, with distinct operands. -/
theorem test_decode_v_strand_2 : readsAll [
    ([0x4095015190A610A5], .vtanh (hdr 2) fV),
    ([0x4096015190A610A5], .vsigm (hdr 2) fV),
    ([0x4097015190A610A5], .vcvt (hdr 2) fV),
    ([0x4098015190A610A5], .vbscale (hdr 2) fV),
    ([0x4099015190A610A5], .viadd (hdr 2) fV),
    ([0x409A015190A610A5], .visub (hdr 2) fV),
    ([0x409B015190A610A5], .vimul (hdr 2) fV),
    ([0x409C015190A610A5], .vand (hdr 2) fV),
    ([0x409D015190A610A5], .vor (hdr 2) fV),
    ([0x409E015190A610A5], .vxor (hdr 2) fV),
    ([0x409F015190A610A5], .vshl (hdr 2) fV),
    ([0x40A0015190A610A5], .vshr (hdr 2) fV),
    ([0x40A1015190A610A5], .vsar (hdr 2) fV),
    ([0x40A2015190A610A5], .vcmp (hdr 2) fV),
    ([0x40A3015190A610A5], .vsel (hdr 2) fV),
    ([0x40A4015190A610A5], .vperm (hdr 2) fV),
    ([0x40A5015190A610A5], .vbcast (hdr 2) fV),
    ([0x40A6015190A610A5], .vslide (hdr 2) fV),
    ([0x40A7015190A610A5], .vred (hdr 2) fV),
    ([0x40A8015190A610A5], .vtopk (hdr 2) fV),
    ([0x40A9015190A610A5], .vrand (hdr 2) fV)] = true := by decide

/-- Words of R45-R60: the opcode of each row, with distinct operands. -/
theorem test_decode_v_strand_3 : readsAll [
    ([0x40C000A640000000], .pand (hdr 2) fP),
    ([0x40C100A640000000], .por (hdr 2) fP),
    ([0x40C200A640000000], .pxor (hdr 2) fP),
    ([0x40C300A640000000], .pnot (hdr 2) fP),
    ([0x40C400A640000000], .pcnt (hdr 2) fP),
    ([0x40C540A640000000, 0x1], .pset (hdr 2) fP 1),
    ([0x40E000A639300021], .scancfg (hdr 2) (fY 0x21)),
    ([0x40E100A639300021], .scanjoin (hdr 2) (fY 0x21)),
    ([0x40E200A639300021], .scanleave (hdr 2) (fY 0x21)),
    ([0x40E3015190A610A5], .scan (hdr 2) fV),
    ([0x40E4015190A610A5], .scantot (hdr 2) fV),
    ([0x40F000A639300021], .append (hdr 2) (fY 0x21)),
    ([0x40F100A639300021], .wlpop (hdr 2) (fY 0x21))] = true := by decide

/-- Words of R45-R60: the opcode of each row, with distinct operands. -/
theorem test_decode_all_strands : readsAll [
    ([0x600100BB02054321], .nest (hdr 3) (fK 0x20)),
    ([0x600200BB02054321], .endn (hdr 3) (fK 0x20)),
    ([0x600300BB02054321], .br (hdr 3) (fK 0x20)),
    ([0x600400BB00054321], .jmp (hdr 3) (fK 0x0)),
    ([0x600400BB00154321], .jmpReg (hdr 3) (fK 0x1)),
    ([0x600500BB00054321], .call (hdr 3) (fK 0x0)),
    ([0x600500BB00154321], .callReg (hdr 3) (fK 0x1)),
    ([0x600600BB02054321], .ret (hdr 3) (fK 0x20)),
    ([0x600700BB02054321], .exit (hdr 3) (fK 0x20)),
    ([0x600800A639300021], .arrive (hdr 3) (fY 0x21)),
    ([0x600900A639300021], .waitb (hdr 3) (fY 0x21)),
    ([0x600A00A639300021], .sync (hdr 3) (fY 0x21)),
    ([0x600B00A639300021], .dmset (hdr 3) (fY 0x21)),
    ([0x600C00A639300021], .quiesce (hdr 3) (fY 0x21)),
    ([0x600D00BB02054321], .yield (hdr 3) (fK 0x20)),
    ([0x600E00BB02054321], .brk (hdr 3) (fK 0x20)),
    ([0x600F00BB02054321], .trap (hdr 3) (fK 0x20))] = true := by decide


/-- A strip word with distinct operands (R326). -/
def fX : FmtX := { a := 1, b := 2, c := 3, int := 1, sub := 5, rm := 2, flg := 1, pk := 2, rsv := 0, nm1 := 0x123 }

/-- Strip words of R326: the operation in bits 31:28, with distinct operands. -/
theorem test_decode_strips_1 :
    decodeStrip 0x6F6C123 = some (.xPass fX) ∧
    decodeStrip 0x16F6C123 = some (.xIdle fX) ∧
    decodeStrip 0x26F6C123 = some (.xAdd fX) ∧
    decodeStrip 0x36F6C123 = some (.xMul fX) ∧
    decodeStrip 0x46F6C123 = some (.xFma fX) := by decide

/-- Strip words of R326: the operation in bits 31:28, with distinct operands. -/
theorem test_decode_strips_2 :
    decodeStrip 0x56F6C123 = some (.xMax fX) ∧
    decodeStrip 0x66F6C123 = some (.xMin fX) ∧
    decodeStrip 0x76F6C123 = some (.xAcc fX) ∧
    decodeStrip 0x86F6C123 = some (.xCmp fX) ∧
    decodeStrip 0x96F6C123 = some (.xSel fX) := by decide

/-- Strip words of R326: the operation in bits 31:28, with distinct operands. -/
theorem test_decode_strips_3 :
    decodeStrip 0xA6F6C123 = some (.xCvt fX) ∧
    decodeStrip 0xB6F6C123 = some (.xScale fX) ∧
    decodeStrip 0xC6F6C123 = some (.xLut fX) ∧
    decodeStrip 0xD6F6C123 = none := by decide

/-- The worked examples of R63, R143, R162, R171-R193 and R271: words that the spec writes out. -/
theorem test_decode_examples : readsAll [
    ([0x520108A638000000], .add { hdr 2 with pushN := true, popP := true, dly := 2 } { sd := 5, sa := 6, sb := 7, sc := 0, rsv := 0 }),
    ([0x408A104204431000], .vfma { hdr 2 with dly := 4 }
      { rm := 0, pred := 2, pneg := 0, vd := 4, va := 1, vb := 2, vc := 3, ty := 1, ops := 0 }),
    ([0x2142004000000002], .mpoly (hdr 1) { acd := 0, acs := 1, wa := 0, wb := 0, ty := 0, rm := 0, flg := 0, ops := 2 }),
    ([0x2143004000800014], .miter (hdr 1) { acd := 0, acs := 1, wa := 0, wb := 0, ty := 0, rm := 0, flg := 8, ops := 20 }),
    ([0x40E0000000100000], .scancfg (hdr 2) { sd := 0, sa := 0, sb := 0, scp := 0, idx := 1, ops := 0 }),
    ([0x40E1012000100001], .scanjoin (hdr 2) { sd := 9, sa := 0, sb := 0, scp := 0, idx := 1, ops := 1 }),
    ([0x00A1000014200000], .red (hdr 0) { ch := 0, scp := 0, ord := 0, sd := 0, sa := 10, sb := 2, dr := 0, ops := 0 }),
    ([0x0083414314D00400, 0xFFFFFFC000000000], .copy (hdr 0)
      { ch := 1, scp := 2, ord := 0, sd := 12, sa := 10, sb := 13, dr := 0, ops := 0x400 } 0xFFFFFFC000000000),
    ([0x19CD00A000100003], .patch { hdr 0 with pushN := true, pushP := true } { sa := 5, cf := 0, cn := 0, lv := 0, ops := 1, imm := 3 }),
    ([0x6001000000000000], .nest (hdr 3) { sa := 0, cf := 0, cn := 0, lv := 0, ops := 0, imm := 0 })] = true := by decide

/-- The checks 1 to 4 of R54, in their order, and words cut short. -/
theorem test_decode_refuses :
    (match decode [0xE001000000000000] with | .error (.check 1) => true | _ => false) = true ∧
    (match decode [0x7007000000000000] with | .error (.check 2) => true | _ => false) = true ∧
    (match decode [0] with | .error (.check 3) => true | _ => false) = true ∧
    (match decode [0x2001000000000000] with | .error (.check 3) => true | _ => false) = true ∧
    (match decode [0x0030000000000000] with | .error (.check 4) => true | _ => false) = true ∧
    (match decode [0x0030400000000000] with | .error .short => true | _ => false) = true := by decide

/-- The tag of a well-formed instruction is one whose map holds it (R54 checks 1 to 3): ADD is not an M instruction. -/
theorem test_wf_refuses_tag : (Instr.add (hdr 1) { fSR with sc := 0 }).wf = false ∧ (Instr.add (hdr 0) { fSR with sc := 0 }).wf = true := by
  decide

/-- A word of tag 3 has no token bit (R54 check 2). -/
theorem test_wf_refuses_tokens :
    (Instr.exit { hdr 3 with pushN := true } { sa := 0, cf := 0, cn := 0, lv := 0, ops := 0, imm := 0 }).wf = false ∧
    (Instr.exit (hdr 3) { sa := 0, cf := 0, cn := 0, lv := 0, ops := 0, imm := 0 }).wf = true := by decide

/-- A form is that of its sub-operation bits (R275): WAITT with the bits of WAITT.take is not WAITT. -/
theorem test_wf_refuses_form :
    (Instr.waitt (hdr 0) { sd := 0, sa := 0, sb := 0, scp := 0, idx := 1, ops := 0xA0001 }).wf = false ∧
    (Instr.waitt (hdr 0) { sd := 0, sa := 0, sb := 0, scp := 0, idx := 1, ops := 0x80001 }).wf = true := by decide

/-- A reserved field is 0 (R54 check 6), here sc of ADD and the reserved bits of format SR. -/
theorem test_wf_refuses_reserved : (Instr.add (hdr 0) fSR).wf = false ∧
    (Instr.add (hdr 0) { fSR with sc := 0, rsv := 1 }).wf = false := by decide

/-- A type code is one that the entry accepts (R54 check 7): VIADD takes integers, and 13 is reserved (R43). -/
theorem test_wf_refuses_type :
    (Instr.viadd (hdr 2) { fV with rm := 0, pneg := 0, vc := 0, ops := 0, ty := 0 }).wf = false ∧
    (Instr.viadd (hdr 2) { fV with rm := 0, pneg := 0, vc := 0, ops := 0, ty := 11 }).wf = true ∧
    (Instr.vadd (hdr 2) { fV with pneg := 0, vc := 0, ops := 0, ty := 13 }).wf = false := by decide

/-- decodeTableWord numbers the bits of later words on from the first (the host's numbering). -/
theorem test_decode_table_word : decodeTableWord 128 (0x1001F02F00000060 * 2 ^ 64 + 0x0830400700310000) =
    some (.wset { hdr 0 with pushP := true } { sd := 0, sa := 7, sb := 0, scp := 0, idx := 3, ops := 0x10000 } 0x1001F02F00000060) ∧
    decodeTableWord 32 0xA004201F = some (.xCvt { a := 0, b := 0, c := 0, int := 0, sub := 1, rm := 0, flg := 0, pk := 1, rsv := 0, nm1 := 31 }) := by
  decide

/-- One core of a bound task, with some scalar registers set. -/
def coreWith (regs : List (Nat × Word)) : Core :=
  let c := Core.start 0 0 0x10000 1 0 0 0 0 0
  { c with s := regs.foldl (fun r p => r.put p.1 p.2) c.s }

/-- A state in which a strand of the one core moves. -/
def stateOf (c : Core) (e : Eng) : State :=
  { State.reset with
    cores := [c], actor := .strand 0 e 0
    fw := { Firmware.zero with tasks := [placedTask 0] }, mgmt := { Mgmt.zero with ready := true } }

/-- A value of the core after an instruction that answers a next state. -/
def after {α : Type} (o : Host.Outcome State Fault Refusal) (f : Core → α) : Option α :=
  match o with
  | .next t => (t.core? 0).map f
  | _ => none

/-- The cause of the trap that an instruction takes. -/
def trapOf' (o : Host.Outcome State Fault Refusal) : Option (BitVec 8) :=
  match o with
  | .next t => (t.core? 0).bind (fun c => c.trapped.map (fun h => h.info.cause))
  | _ => none

/-- Registers 6 and 7 as operands, the result in register 5. -/
def regs2 (a b : Word) : State := stateOf (coreWith [(6, a), (7, b)]) .a

def sr2 : FmtSR := { sd := 5, sa := 6, sb := 7, sc := 0, rsv := 0 }

/-- ADD wraps modulo 2^64 (R116) and the PC advances by one word (R40). -/
theorem test_add_wraps : after (exec (.add (hdr 0) sr2) (regs2 0xFFFFFFFFFFFFFFFF 2)) (fun c => (c.s.read 5, c.strandA.pc, c.strandA.rsn)) =
    some (1, 0x10008, 1) := by decide

/-- SAR copies the sign (R116). -/
theorem test_sar_sign : after (exec (.sar (hdr 0) sr2) (regs2 0x8000000000000000 4)) (fun c => c.s.read 5) = some 0xF800000000000000 := by decide

/-- DIV of -7 by 2 and of 12 by 0 (the table of R117). -/
theorem test_div_table : after (exec (.div (hdr 0) sr2) (regs2 (-7) 2)) (fun c => c.s.read 5) = some (-3) ∧
    after (exec (.div (hdr 0) sr2) (regs2 12 0)) (fun c => c.s.read 5) = some 0xFFFFFFFFFFFFFFFF := by decide

/-- REM of -7 by 2 and REMU of 12 by 0 (the table of R117). -/
theorem test_rem_table : after (exec (.rem (hdr 0) sr2) (regs2 (-7) 2)) (fun c => c.s.read 5) = some (-1) ∧
    after (exec (.remu (hdr 0) sr2) (regs2 12 0)) (fun c => c.s.read 5) = some 12 := by decide

/-- LIH replaces the upper half (the worked constant of spec/05). -/
theorem test_lih : after (exec (.lih (hdr 0) { sd := 9, sa := 9, imm := 0x9ABCDEF0 }) (stateOf (coreWith [(9, 0x12345678)]) .a))
    (fun c => c.s.read 9) = some 0x9ABCDEF012345678 := by decide

/-- A write to s0 is discarded (R113). -/
theorem test_s0_discards : after (exec (.li (hdr 0) { sd := 0, sa := 0, imm := 5 }) (regs2 1 2)) (fun c => (c.s.read 0, c.strandA.pc)) =
    some (0, 0x10008) := by decide

/-- A V result is in flight until its bound (R64). -/
theorem test_v_result_in_flight : after (exec (.mov (hdr 2) { sr2 with sb := 0 }) (stateOf { coreWith [(6, 9)] with sown := 32 } .v))
    (fun c => (c.flights.length, c.s.read 5)) = some (1, 9) := by decide

/-- BRK traps with the cause 0x12 and the strand keeps its PC (R315, R389). -/
theorem test_brk_traps : trapOf' (exec (.brk (hdr 3) { sa := 0, cf := 0, cn := 0, lv := 0, ops := 0, imm := 77 }) (regs2 0 0)) = some 0x12 ∧
    after (exec (.brk (hdr 3) { sa := 0, cf := 0, cn := 0, lv := 0, ops := 0, imm := 77 }) (regs2 0 0))
      (fun c => (c.halted, c.strandA.pc)) = some (true, 0x10000) := by decide

/-- A word that pops an empty counter waits and has not issued (R298). -/
theorem test_pop_waits : after (exec (.nop { hdr 0 with popN := true } { sa := 0, cf := 0, cn := 0, lv := 0, ops := 0, imm := 0 }) (regs2 0 0))
    (fun c => (c.strandA.pc, c.strandA.rsn)) = some (0x10000, 0) := by decide

/-- NEST and a taken ENDN (R303, R304). -/
theorem test_nest : after (exec (.nest (hdr 3) { sa := 0, cf := 0, cn := 0, lv := 1, ops := 0, imm := 3 }) (regs2 0 0))
    (fun c => (c.strandA.lb.at' 1, c.strandA.lact)) = some (3, 2) := by decide

/-- CSRW of slipw below 16 traps ILLEGAL_OP (R297, R318). -/
theorem test_csrw_slipw : trapOf' (exec (.csrw (hdr 0) { sd := 0, sa := 6, sb := 0, scp := 0, idx := 0, ops := 1 }) (regs2 15 0)) = some 1 ∧
    after (exec (.csrw (hdr 0) { sd := 0, sa := 6, sb := 0, scp := 0, idx := 0, ops := 1 }) (regs2 16 0)) (fun c => c.slipw) = some 16 := by
  decide

/-- PNOT writes all 64 bits (R143). -/
theorem test_pnot : after (exec (.pnot (hdr 2) { pd := 1, pa := 2, pb := 0, sd := 0, rsv := 0 }) (stateOf (coreWith []) .v))
    (fun c => c.p.read 1) = some (BitVec.allOnes 64) := by decide

/-- WSET of a base that is no multiple of 16 traps ALIGN_FAULT (R120). -/
theorem test_wset_align : trapOf' (exec (.wset (hdr 0) { sd := 0, sa := 6, sb := 0, scp := 0, idx := 3, ops := 0 } 0) (regs2 8 0)) = some 3 := by
  decide

/-- A step fetches the word at the PC and executes it: ADD as the first instruction after it is placed (log entry 40). -/
theorem test_step_runs : after (step (State.reset.withFetchWord 64 0x000100A208000000)) (fun c => (c.s.read 5, c.strandA.pc)) =
    some (1, 0x10008) := by decide

/-- EVCONS keeps what the host writes (R393). -/
theorem test_evcons : (match exec (.evcons 7) State.reset with | .next t => t.mgmt.evcons | _ => 0) = 7 := by decide

/-- A module without supply does not step (R427). -/
theorem test_powered_off : (match step { State.reset with mgmt := { Mgmt.zero with powered := false }, agenda := [{ dt := 0, who := .event .selection }] } with
    | .fault .poweredOff => true
    | _ => false) = true := by decide

end Sys2Proof.Tests
end

