-- ==== Sys2Proof/Tests/Witness.lean ====
section
/-! SUPPORT. Witnesses: for every obligation with hypotheses, concrete states and operands that meet them, each clause at a
boundary of its range. -/
/- One theorem at a time: many kernel evaluations side by side take much memory. -/
set_option Elab.async false

namespace Sys2Proof.Tests
open Sys2Proof.Machine

/-- The strand e of the one core, about to execute. -/
def atOf (c : Core) (e : Eng) : At := { ci := 0, e := e, c := c, st := c.strand e, budget := 0 }

/-- A strand of the one core is ready for a word that pops nothing. -/
theorem ready_of (c : Core) (e : Eng) (h : Hdr) (hb : (c.strand e).busy = false) (hp : popsOf h e = [])
    (ht : c.trapped = none := by rfl) : Ready (stateOf c e) h (atOf c e) where
  actor := rfl
  fresh := hb
  runs := ht
  tokens := by
    show c.lacking (popsOf h e) = none
    rw [hp]; rfl

/-- A core whose A and M strands own every scalar register; its strand A may write all of them. -/
theorem foreign_of (c : Core) (e : Eng) (r : BitVec 5) (hs : c.sown = 0) (he : (e == .v) = false) :
    (atOf c e).foreign r = false := by
  simp [At.foreign, atOf, hs, he]

/-- A ready A strand with any two scalar operands. -/
def opsA (a b : Word) : Core := coreWith [(6, a), (7, b)]

/-- ScalarArithmeticResults, DivisionResults, and the first part of ScalarImmediateAndWindowResults: every pair of operands
is met, with a destination that the strand may write. -/
theorem witness_scalar_operands (a b : Word) : ∃ (s : State) (v : At) (h : Hdr) (f : FmtSR), Ready s h v ∧
    v.foreign f.sd = false ∧ s.readS v f.sa = a ∧ s.readS v f.sb = b :=
  ⟨stateOf (opsA a b) .a, atOf (opsA a b) .a, hdr 0, sr2, ready_of _ _ _ rfl rfl, foreign_of _ _ _ rfl rfl, by rfl, by rfl⟩

/-- A state and a strand of it that meet a statement's hypotheses: ready, and what P says. -/
def Meets (c : Core) (e : Eng) (h : Hdr) (P : State → At → Prop) : Prop :=
  Ready (stateOf c e) h (atOf c e) ∧ P (stateOf c e) (atOf c e)

/-- How such a state is shown. -/
theorem meets {c : Core} {e : Eng} {h : Hdr} {P : State → At → Prop} (hb : (c.strand e).busy = false)
    (hp : popsOf h e = []) (hP : P (stateOf c e) (atOf c e)) (ht : c.trapped = none := by rfl) : Meets c e h P :=
  ⟨ready_of c e h hb hp ht, hP⟩

/-- ScalarImmediateAndWindowResults, second part: the three outcomes of WSET, at base 2^26, at the last multiple of 16 below it,
and at a base that is no multiple of 16. -/
theorem witness_wset :
    let f : FmtY := { sd := 0, sa := 6, sb := 0, scp := 0, idx := 3, ops := 0 }
    let base := fun (s : State) (v : At) => (s.readS v f.sa + BitVec.ofInt 64 f.ops.toInt).toNat
    Meets (opsA 0x4000000 0) .a (hdr 0) (fun s v => 2 ^ 26 ≤ base s v) ∧
    Meets (opsA 0x3FFFFF0 0) .a (hdr 0) (fun s v => base s v < 2 ^ 26 ∧ base s v % 16 = 0) ∧
    Meets (opsA 8 0) .a (hdr 0) (fun s v => base s v < 2 ^ 26 ∧ base s v % 16 ≠ 0) :=
  ⟨meets rfl rfl (by decide), meets rfl rfl (by decide), meets rfl rfl (by decide)⟩

/-- ScalarImmediateAndWindowResults, third part: a destination that the V strand owns. -/
theorem witness_foreign : Meets { coreWith [] with sown := 32 } .a (hdr 0) (fun _ v =>
    v.foreign fSI.sd = true ∧ v.foreign sr2.sd = true) := meets rfl rfl (by decide)

/-- A core whose V strand owns every scalar register: p1 holds lanes 0 and 63, window 1 has 4 rows of 64 columns of a
type at window address 0, s6 and s7 hold two operands, the format table names a type. -/
def coreV (ty : BitVec 4) (a b : Word) (ft : BitVec 16) : Core :=
  { coreWith [(6, a), (7, b)] with
    sown := 0xFFFFFFFE
    p := (RegFile.fill 3 0).put 1 0x8000000000000001
    ft := RegFile.fill 4 ft
    w := (RegFile.fill 4 Window.zero).put 1 { base := 0, stride := 256, rowsm1 := 3, colsm1 := 63, ty := ty } }

/-- Operands of a vector instruction: destination v3 under p1, sources v6, v7 and v5 (or s6 and s7), window 1. -/
def fVop (ty : BitVec 4) (ops : BitVec 12) : FmtV :=
  { rm := 0, pred := 1, pneg := 0, vd := 3, va := 6, vb := 7, vc := 5, ty := ty, ops := ops }

/-- PredicateResults: PCNT's destination may be written. -/
theorem witness_predicates : Meets (coreV 0 0 0 0) .v (hdr 2) (fun s v =>
    v.foreign 4 = false ∧ s.readP v 1 = 0x8000000000000001) := meets rfl rfl (by decide)

/-- VectorFloatResults and VectorFunctionResults: each of their types, through the format table. -/
theorem witness_vector_float :
    Meets (coreV 0 0 0 0) .v (hdr 2) (fun _ v => v.ty 15 = 0 ∧ v.tyCheck (.vadd (hdr 2) (fVop 15 0)) = none ∧
      v.tyCheck (.vrcp (hdr 2) (fVop 15 0)) = none) ∧
    Meets (coreV 0 0 0 1) .v (hdr 2) (fun _ v => v.ty 15 = 1 ∧ v.tyCheck (.vfma (hdr 2) (fVop 15 0)) = none ∧
      v.tyCheck (.vtanh (hdr 2) (fVop 15 0)) = none) ∧
    Meets (coreV 0 0 0 2) .v (hdr 2) (fun _ v => v.ty 15 = 2 ∧ v.tyCheck (.vmax (hdr 2) (fVop 15 0)) = none) :=
  ⟨meets rfl rfl (by decide), meets rfl rfl (by decide), meets rfl rfl (by decide)⟩

/-- VectorIntegerResults, VectorMoveResults, VectorConversionResults: their types, in the word and from the table. -/
theorem witness_vector_types :
    Meets (coreV 0 0 0 0) .v (hdr 2) (fun _ v => ∀ ty : BitVec 4, ty.toNat ∈ [0, 1, 2, 3, 4, 6, 8, 9, 10, 11] →
      v.ty ty.toNat = ty.toNat ∧ v.tyCheck (.vmov (hdr 2) (fVop ty 0)) = none ∧
      v.tyCheck (.vcvt (hdr 2) (fVop ty 0)) = none ∧ v.tyCheck (.vextr (hdr 2) (fVop ty 0)) = none ∧
      v.tyCheck (.viadd (hdr 2) (fVop ty 0)) = none) ∧
    Meets (coreV 0 0 0 9) .v (hdr 2) (fun _ v => v.ty 15 = 9 ∧ v.foreign 3 = false ∧
      v.tyCheck (.viadd (hdr 2) (fVop 15 0)) = none ∧ v.tyCheck (.vextr (hdr 2) (fVop 15 0)) = none) :=
  ⟨meets rfl rfl (by decide), meets rfl rfl (by decide)⟩

/-- VectorCompareAndReduceResults: FP32 and INT32, and a reduction of every operation. -/
theorem witness_vector_compare :
    Meets (coreV 0 0 0 0) .v (hdr 2) (fun s v => v.foreign 3 = false ∧ ∀ ty : BitVec 4, ty = 0 ∨ ty = 11 →
      v.ty ty.toNat = ty.toNat ∧ v.tyCheck (.vcmp (hdr 2) (fVop ty 6)) = none ∧
      v.tyCheck (.vred (hdr 2) (fVop ty 2)) = none ∧ v.tyCheck (.vtopk (hdr 2) (fVop ty 15)) = none ∧
      v.c.flight? (s.iclk v.c) (.v 3) = none ∧ v.c.flight? (s.iclk v.c) (.v 5) = none) := meets rfl rfl (by decide)

/-- VectorLoadResults and VectorStoreResults: rows of FP32 that are inside the window, whose checks pass at its last row and
fail one row further, a window of a type outside set D, and indexed elements (index 0 in every lane). -/
theorem witness_vector_memory :
    let f := fVop 0 0x100
    let js := activeElems 0x8000000000000001 0
    Meets (coreV 0 3 0 0) .v (hdr 2) (fun s v => s.Inv ∧ v.ty f.ty.toNat = 0 ∧ s.readW v 1 = v.c.w.at' 1 ∧
      v.tyCheck (.vld (hdr 2) f) = none ∧ v.tyCheck (.vst (hdr 2) f) = none ∧
      v.tyCheck (.vgath (hdr 2) f) = none ∧ v.tyCheck (.vscat (hdr 2) f) = none ∧ (s.readS v f.va).toNat = 3 ∧
      rowChecks s v (s.readW v 1) 0 3 0 js false = none ∧ rowChecks s v (s.readW v 1) 0 3 0 js true = none ∧
      rowChecks s v (s.readW v 1) 0 4 0 js false = some (windowFault 1024) ∧
      rowChecks s v (s.readW v 1) 0 4 0 js true = some (windowFault 1024)) ∧
    Meets (coreV 0 0 0 0) .v (hdr 2) (fun s v =>
      gatherChecks s v (s.readW v 1) 0 (gatherElems 0x8000000000000001 (s.readV v 7) 64) false = none ∧
      gatherChecks s v (s.readW v 1) 0 (gatherElems 0x8000000000000001 (s.readV v 7) 64) true = none) ∧
    Meets (coreV 0 0 0 0) .v (hdr 2) (fun s v => v.winTy (s.readW v 1) false = .ok 0) ∧
    Meets (coreV 5 0 0 0) .v (hdr 2) (fun s v => v.winTy (s.readW v 1) false = .ok 5) :=
  ⟨meets rfl rfl (by decide), meets rfl rfl (by decide), meets rfl rfl (by rfl), meets rfl rfl (by rfl)⟩

/-- A core with window 4 of one element of type FP32 and window 5 of one of type BF16, at 0 and 16, and an accumulator 1
with a tag and a mark. -/
def coreM (tag psn : Bool) : Core :=
  { coreWith [(6, 3)] with
    w := ((RegFile.fill 4 Window.zero).put 4 Window.zero).put 5 { Window.zero with base := 16, ty := 1 }
    acc := (RegFile.fill 2 Acc.zero).put 1 { Acc.zero with tag := tag, psn := psn } }

/-- Operands of a matrix instruction: destination accumulator 2, source 1, windows 4 and 5. -/
def fMop (ty : BitVec 4) (flg : BitVec 4) (ops : BitVec 20) : FmtM :=
  { acd := 2, acs := 1, wa := 4, wb := 5, ty := ty, rm := 0, flg := flg, ops := ops }

/-- AccumulatorResults: nothing suspended and clean operands; a source of the other tag; a marked source. -/
theorem witness_accumulators :
    Meets (coreM false false) .m (hdr 1) (fun _ v => v.settledM ∧ v.tyCheck (.mscale (hdr 1) (fMop 0 0 1)) = none ∧
      v.tyCheck (.mzero (hdr 1) (fMop 0 0 0)) = none ∧ v.tyCheck (.madda (hdr 1) (fMop 0 0 0)) = none ∧
      v.tyCheck (.mtrans (hdr 1) (fMop 0 0 0)) = none ∧ v.tyCheck (.mident (hdr 1) (fMop 0 0 0)) = none ∧
      (v.c.acc.read 1).psn = false ∧ (v.c.acc.read 2).psn = false ∧ (v.c.acc.read 1).tag = (v.c.acc.read 2).tag) ∧
    Meets (coreM true false) .m (hdr 1) (fun _ v => v.settledM ∧ (v.c.acc.read 1).tag = true ∧
      (v.c.acc.read 1).tag ≠ (v.c.acc.read 2).tag ∧ v.tyCheck (.mnormFro (hdr 1) (fMop 0 0 0)) = none ∧
      v.tyCheck (.mnormMax (hdr 1) (fMop 0 1 0)) = none ∧ v.tyCheck (.mnormUnit (hdr 1) (fMop 0 2 0)) = none) ∧
    Meets (coreM false true) .m (hdr 1) (fun _ v => (v.c.acc.read 1).psn = true ∧ (v.c.acc.read 1).tag = false ∧
      (v.c.acc.read 1).tag = (v.c.acc.read 2).tag ∧ v.tyCheck (.mtrans (hdr 1) (fMop 0 0 0)) = none) :=
  ⟨meets rfl rfl ⟨⟨by decide, by decide⟩, by decide⟩, meets rfl rfl ⟨⟨by decide, by decide⟩, by decide⟩,
    meets rfl rfl (by decide)⟩

/-- Two INT32 accumulators, as the integer form of MADDA wants. -/
theorem witness_madda_int : Meets { coreM true false with acc := RegFile.fill 2 { Acc.zero with tag := true } } .m (hdr 1)
    (fun _ v => v.settledM ∧ (v.c.acc.read 1).tag = true ∧ (v.c.acc.read 2).tag = true ∧
      v.tyCheck (.madda (hdr 1) (fMop 11 0 0)) = none) :=
  meets rfl rfl ⟨⟨by decide, by decide⟩, by decide⟩

/-- AccumulatorMoveResults: a window of one element of the instruction's type, readable and writable. -/
theorem witness_accumulator_moves : Meets (coreM false false) .m (hdr 1) (fun s v => s.Inv ∧ v.settledM ∧
    v.ty (fMop 0 0 0).ty.toNat = 0 ∧ v.winTy (s.readW v 4) false = .ok 0 ∧ v.winTy (s.readW v 4) true = .ok 0 ∧
    (∀ i j, i < (s.readW v 4).rows → j < (s.readW v 4).cols → s.checkRead v.c (s.readW v 4) (fmtOf 0) i j = none) ∧
    (∀ i j, i < (s.readW v 4).rows → j < (s.readW v 4).cols → s.checkWrite v.c (s.readW v 4) (fmtOf 0) i j = none) ∧
    (∀ p q, p ∈ pairs (s.readW v 4).rows (s.readW v 4).cols → q ∈ pairs (s.readW v 4).rows (s.readW v 4).cols → p ≠ q →
      ∀ x, x ∈ v.elemBytes s (s.readW v 4) (fmtOf 0) p.1 p.2 → x ∉ v.elemBytes s (s.readW v 4) (fmtOf 0) q.1 q.2) ∧
    v.tyCheck (.mldacc (hdr 1) (fMop 0 0 0)) = none ∧ v.tyCheck (.mstacc (hdr 1) (fMop 0 0 0)) = none) := by
  have one : ∀ i, i < ((stateOf (coreM false false) .m).readW (atOf (coreM false false) .m) 4).rows → i = 0 := by decide
  have col : ∀ i, i < ((stateOf (coreM false false) .m).readW (atOf (coreM false false) .m) 4).cols → i = 0 := by decide
  have all : ∀ p, p ∈ pairs ((stateOf (coreM false false) .m).readW (atOf (coreM false false) .m) 4).rows
      ((stateOf (coreM false false) .m).readW (atOf (coreM false false) .m) 4).cols → p = (0, 0) := by decide
  refine meets rfl rfl ⟨by decide, ⟨by decide, by decide⟩, by decide, by rfl, by rfl, ?_, ?_, ?_, by decide, by decide⟩
  · intro i j hi hj; rw [one i hi, col j hj]; decide
  · intro i j hi hj; rw [one i hi, col j hj]; decide
  · intro p q hp hq hne; exact absurd ((all p hp).trans (all q hq).symm) hne

/-- MmulResults: windows as sources, and an accumulator. -/
theorem witness_mmul :
    Meets { coreM false false with w := RegFile.fill 4 { Window.zero with ty := 1 } } .m (hdr 1) (fun s v =>
      v.settledM ∧ v.budget = 0 ∧ v.tyCheck (.mmul (hdr 1) (fMop 1 8 0)) = none ∧
      (mmulOf (fMop 1 8 0) v s).issueBad (fMop 1 8 0) v s = none ∧ (mmulOf (fMop 1 8 0) v s).bsrc ≠ 3) ∧
    Meets { coreM false false with w := RegFile.fill 4 { Window.zero with ty := 1 } } .m (hdr 1) (fun s v =>
      (mmulOf (fMop 1 8 0x10000) v s).issueBad (fMop 1 8 0x10000) v s = none ∧ (mmulOf (fMop 1 8 0x10000) v s).bsrc = 1) :=
  ⟨meets rfl rfl ⟨⟨by decide, by decide⟩, by decide⟩, meets rfl rfl (by decide)⟩

/-- ResumedMatrixWork: a suspended MMUL that its own word continues and completes, and one that MZERO abandons; and a
suspended MITER. -/
theorem witness_resumed :
    (Meets { coreM false false with mprog := 0x8000000080000000, w := RegFile.fill 4 { Window.zero with ty := 1 } } .m (hdr 1)
      (fun s v => v.st.busy = false ∧ mmulAgain (fMop 1 8 0) v = true ∧
        after (exec (.mmul (hdr 1) (fMop 1 8 0)) s) (fun c => c.trapped.isNone) = some true)) ∧
    (∀ mi : Bool, Meets { coreM false false with
        mprog := if mi then 0 else 0x8000000080000000, its := if mi then 0x8000000000000000 else 0
        tls := (RegFile.fill 3 Timeline.zero).put 3 { iss := 1, comp := 0, dones := [] } } .m (hdr 1)
      (fun _ v => v.tyCheck (.mzero (hdr 1) (fMop 0 0 0)) = none ∧ (v.c.tls.at' 3).dones = [] ∧
        (v.c.tls.at' 3).comp.toNat + 1 = (v.c.tls.at' 3).iss.toNat ∧ (v.c.mmulOpen != v.c.miterOpen) = true)) := by
  refine ⟨meets rfl rfl ⟨by decide, by decide, by decide⟩, fun mi => ?_⟩
  cases mi
  · exact meets rfl rfl (by decide)
  · exact meets rfl rfl (by decide)

/-- CoefficientResults: KLD of one element of each of its types, and ITRD of every selector. -/
theorem witness_coefficients :
    Meets (coreM false false) .m (hdr 1) (fun s v => v.settledM ∧ v.winTy (s.readW v 4) false = .ok 0 ∧
      (s.readW v 4).rows = 1 ∧ s.checkRead v.c (s.readW v 4) (fmtOf 0) 0 0 = none ∧
      v.tyCheck (.kld (hdr 1) (fMop 0 0 0)) = none) ∧
    Meets { coreM false false with sown := 0 } .a (hdr 0) (fun _ v => v.foreign 5 = false) :=
  ⟨meets rfl rfl ⟨⟨by decide, by decide⟩, by rfl, by decide⟩, meets rfl rfl (by decide)⟩

/-- MpolyResults: a clean FP32 source and another destination. -/
theorem witness_mpoly : Meets (coreM false false) .m (hdr 1) (fun _ v => (fMop 0 0 2).acd ≠ (fMop 0 0 2).acs ∧
    (v.c.acc.read 1).tag = false ∧ (v.c.acc.read 1).psn = false ∧ v.settledM ∧
    v.tyCheck (.mpoly (hdr 1) (fMop 0 0 2)) = none) :=
  meets rfl rfl ⟨by decide, by decide, by decide, ⟨by decide, by decide⟩, by decide⟩

/-- A product of zeros is zero. -/
theorem mprod_zero {p q c : Tile} (hp : ∀ i j, i < 64 → j < 64 → p i j = 0) (hq : ∀ i j, i < 64 → j < 64 → q i j = 0)
    (hc : ∀ i j, i < 64 → j < 64 → c i j = 0) {i j : Nat} (hi : i < 64) (hj : j < 64) : (mprod false oneF p q c).el i j = 0 := by
  rw [mprod_el _ _ _ _ hi hj, hc i j hi hj, partsOf_zero (fun k hk => hp i k hi hk), partsOf_zero (fun k hk => hq k j hk hj)]
  decide +kernel

/-- A fold that stays where it begins. -/
theorem foldl_stays {α β : Type} (g : β → α → β) (b : β) (l : List α) (h : ∀ x, x ∈ l → g b x = b) : l.foldl g b = b := by
  induction l with
  | nil => rfl
  | cons x l ih =>
    rw [List.foldl_cons, h x (List.mem_cons_self ..)]
    exact ih (fun y hy => h y (List.mem_cons_of_mem _ hy))

/-- MiterResults: a new MITER of form 0 with a cap of 1 on a tile of zeros, whose iterate and residual are finite. -/
theorem witness_miter : Meets (coreM false false) .m (hdr 1) (fun _ v =>
    let f := fMop 0 0 1
    let X := (v.c.acc.read f.acd).el
    let k := fun n => (v.c.k.at' n).toNat
    let zero := fun (_ _ : Nat) => 0
    let R := fun (c : Nat) (t : Nat → Nat → Nat) i j => cvt .fp32 .rne false ((f32 c).mul (f32 (t i j)))
    let W0 := mprod false 0x3F800000 X (fun i j => X j i) zero
    let W1 := Acc.of false (R (k 1) W0.el)
    let W := mprod false 0x3F800000 W1.el X (R (k 0) X)
    let r := cvt .fp32 .rne false ((pairs 64 64).foldl (fun t p =>
      let e := FNum.add .rne (f32 (W.el p.1 p.2)) (f32 (X p.1 p.2)).negate
      FNum.add .rne t (e.mul e)) (.zero false)).sqrt
    v.settledM ∧ v.budget = 0 ∧ v.tyCheck (.miter (hdr 1) f) = none ∧ f.acd ≠ f.acs ∧ f.ops.toNat / 1024 % 4 = 0 ∧
    f.ops.toNat % 256 = 1 ∧ (v.c.acc.read f.acd).tag = false ∧ (v.c.acc.read f.acs).tag = false ∧
    (v.c.acc.read f.acd).psn = false ∧ v.c.flagFree 0 = true ∧
    (∀ i j, i < 64 → j < 64 → (f32 (W.el i j)).notFinite = false) ∧ (f32 r).notFinite = false) := by
  have hX : ((atOf (coreM false false) .m).c.acc.read 2).el = fun _ _ => 0 :=
    funext fun i => funext fun j => Acc.el_zero i j
  refine meets rfl rfl ⟨⟨by decide, by decide⟩, by decide, by decide, by decide, by decide, by decide, by decide, by decide,
    by decide, by decide, ?_⟩
  show (∀ i j, i < 64 → j < 64 → _) ∧ _
  simp only [show (fMop 0 0 1).acd = 2 from rfl, hX]
  have h1 : ∀ i j, i < 64 → j < 64 → (Acc.of false (fun i j => cvt .fp32 .rne false
      ((f32 ((atOf (coreM false false) .m).c.k.at' 1).toNat).mul
        (f32 ((mprod false 0x3F800000 (fun _ _ => 0) (fun _ _ => 0) (fun _ _ => 0)).el i j))))).el i j = 0 := by
    intro i j hi hj
    rw [Acc.el_of _ _ hi hj, mprod_zero (fun _ _ _ _ => rfl) (fun _ _ _ _ => rfl) (fun _ _ _ _ => rfl) hi hj]
    decide +kernel
  have hW : ∀ i j, i < 64 → j < 64 → (mprod false 0x3F800000 (Acc.of false (fun i j => cvt .fp32 .rne false
      ((f32 ((atOf (coreM false false) .m).c.k.at' 1).toNat).mul
        (f32 ((mprod false 0x3F800000 (fun _ _ => 0) (fun _ _ => 0) (fun _ _ => 0)).el i j))))).el (fun _ _ => 0)
      (fun _ _ => cvt .fp32 .rne false ((f32 ((atOf (coreM false false) .m).c.k.at' 0).toNat).mul (f32 0)))).el i j = 0 :=
    fun i j hi hj => mprod_zero h1 (fun _ _ _ _ => rfl) (fun _ _ _ _ => by decide +kernel) hi hj
  refine ⟨fun i j hi hj => by rw [hW i j hi hj]; decide +kernel, ?_⟩
  rw [foldl_stays]
  · decide +kernel
  · intro p hp
    have : p.1 < 64 ∧ p.2 < 64 := by
      simp only [pairs, List.mem_flatMap, List.mem_map, List.mem_range] at hp
      obtain ⟨a, ha, b, hb, rfl⟩ := hp
      exact ⟨ha, hb⟩
    rw [hW _ _ this.1 this.2]
    decide +kernel

/-- A core whose strand A is as given. -/
def coreSt (st : Strand) : Core := { coreWith [(6, 0x20008)] with strandA := st }

/-- A strand at its kernel's entry. -/
def st0 : Strand := Strand.start 0x10000

def fKz : FmtK := { sa := 6, cf := 2, cn := 1, lv := 1, ops := 0, imm := 4 }

/-- ControlTransferResults: a level not active, one iteration from its bound, at its bound; a flag invalid, set, clear; a
return stack empty, with one address, full. -/
theorem witness_transfers :
    Meets (coreSt st0) .a (hdr 3) (fun _ v => v.st.lact.getLsbD 1 = false ∧ v.st.cfok.getLsbD 2 = false ∧ v.st.ret = []) ∧
    Meets (coreSt { st0 with lact := 2, lb := st0.lb.put 1 3, lc := st0.lc.put 1 1, cfok := 4, cfv := 4, ret := [0x10100] }) .a (hdr 3)
      (fun _ v => v.st.lact.getLsbD 1 = true ∧ (v.st.lc.at' 1 + 1).toNat < (v.st.lb.at' 1).toNat ∧
        v.st.cfok.getLsbD 2 = true ∧ v.st.cfv.getLsbD 2 = fKz.cn.getLsbD 0 ∧ v.st.ret.length < 16) ∧
    Meets (coreSt { st0 with lact := 2, lb := st0.lb.put 1 3, lc := st0.lc.put 1 2, cfok := 4, ret := List.replicate 16 0x10100 }) .a
      (hdr 3) (fun _ v => v.st.lact.getLsbD 1 = true ∧ ¬ (v.st.lc.at' 1 + 1).toNat < (v.st.lb.at' 1).toNat ∧
        v.st.cfok.getLsbD 2 = true ∧ v.st.cfv.getLsbD 2 ≠ fKz.cn.getLsbD 0 ∧ 16 ≤ v.st.ret.length) :=
  ⟨meets rfl rfl (by decide), meets rfl rfl (by decide), meets rfl rfl (by decide)⟩

/-- ControlTransferResults, second part: the reader at an empty and at a full slot, a target that is no multiple of 8, and
another strand before and after the reader, as the third to take. -/
theorem witness_jump_slot :
    let reader := fun (c : Core) => if fKz.sa ≠ 0 ∧ c.sown.getLsbD fKz.sa.toNat = true then Eng.v else Eng.a
    Meets (coreSt st0) .a (hdr 3) (fun s v => v.e = reader v.c ∧ v.c.jump = none ∧ (s.readS v fKz.sa).toNat % 8 = 0) ∧
    Meets { coreSt st0 with jump := some 8, jumpTaken := 1 } .a (hdr 3) (fun _ v => v.e = reader v.c ∧ v.c.jump ≠ none) ∧
    Meets { coreWith [(6, 4)] with jump := none } .a (hdr 3) (fun s v => v.e = reader v.c ∧ (s.readS v fKz.sa).toNat % 8 ≠ 0) ∧
    Meets (coreSt st0) .m (hdr 3) (fun _ v => v.e ≠ reader v.c ∧ v.c.jump = none) ∧
    Meets { coreSt st0 with jump := some 8, jumpTaken := 5 } .m (hdr 3) (fun _ v => v.e ≠ reader v.c ∧ v.c.jump = some 8 ∧
      v.c.jumpTaken &&& (1#3 <<< v.e.tag) = 0 ∧ v.c.jumpTaken ||| (1#3 <<< v.e.tag) = 7) ∧
    Meets { coreSt st0 with sown := 64 } .v (hdr 3) (fun _ v => v.e = reader v.c ∧ v.c.jump = none) :=
  ⟨meets rfl rfl (by decide), meets rfl rfl (by decide), meets rfl rfl (by decide), meets rfl rfl (by decide),
    meets rfl rfl (by decide), meets rfl rfl (by decide)⟩

/-- A state whose task stands at a stage. -/
def staged (c : Core) (e : Eng) (g : TaskStage) : State :=
  let s := stateOf c e
  { s with fw := { s.fw with tasks := [{ placedTask 0 with stage := g }] } }

/-- HintAndExitResults: no checkpoint decided, one decided; a strand that is not the last to exit, and one that is; a walked
word, in a loop of no iterations and outside one. -/
theorem witness_hints :
    (Ready (staged (coreSt st0) .a .running) (hdr 3) (atOf (coreSt st0) .a) ∧
      (staged (coreSt st0) .a .running).task? 0 = some { placedTask 0 with stage := .running }) ∧
    (Ready (staged (coreSt st0) .a (.decided none)) (hdr 3) (atOf (coreSt st0) .a) ∧
      (staged (coreSt st0) .a (.decided none)).task? 0 = some { placedTask 0 with stage := .decided none }) ∧
    Meets (coreSt st0) .a (hdr 3) (fun _ v => ¬ ∀ e, e ≠ v.e → (v.c.strand e).exited = true) ∧
    Meets { coreSt st0 with strandM := { st0 with exited := true }, strandV := { st0 with exited := true } } .a (hdr 3)
      (fun _ v => ∀ e, e ≠ v.e → (v.c.strand e).exited = true) ∧
    Meets (coreSt { st0 with lact := 4 }) .a (hdr 3) (fun s v => s.at? = some v ∧ v.st.skipping = true ∧
      closes 0x6002000100000000 = some 2 ∧ v.st.lb.at' 2 = 0) ∧
    Meets (coreSt st0) .a (hdr 3) (fun s v => s.at? = some v ∧ v.st.skipping = false ∧ closes 0x2102000000000000 = none) := by
  refine ⟨⟨⟨rfl, rfl, rfl, rfl⟩, rfl⟩, ⟨⟨rfl, rfl, rfl, rfl⟩, rfl⟩, meets rfl rfl ?_, meets rfl rfl ?_,
    meets rfl rfl ⟨rfl, by decide⟩, meets rfl rfl ⟨rfl, by decide⟩⟩
  · exact fun h => absurd (h .m (by decide)) (by decide)
  · intro e he
    cases e
    · exact absurd rfl he
    · rfl
    · rfl

/-- FlagWriteResults: a flag with a valid copy, and one whose copies are all invalid. -/
theorem witness_flags :
    Meets { coreSt st0 with strandV := { st0 with cfok := 8 } } .a (hdr 0) (fun _ v => v.c.flagFree 3 = false) ∧
    Meets { coreSt st0 with strandV := { st0 with cfok := 0xF7 } } .a (hdr 0) (fun _ v => v.c.flagFree 3 = true) :=
  ⟨meets rfl rfl (by decide), meets rfl rfl (by decide)⟩

/-- SoftwareTrapResults and TrapEntryState: a strand that moves, in a core that is not frozen, in one that is, and in one
with an MMUL that works in a copy. -/
theorem witness_traps :
    Meets (coreSt st0) .a (hdr 3) (fun s v => s.at? = some v ∧ v.c.trapped = none ∧ v.c.work = none ∧ v.c.halted = false ∧
      v.c.killed = false ∧ v.c.started = true) ∧
    (let c := { coreSt st0 with trapped := some { info := illegalOp 0, src := 1, clk := 0, fillErr := false, noResume := false } }
     let s := stateOf c .a
     s.at? = some (atOf c .a) ∧ c.trapped ≠ none ∧ c.halted = true ∧ c.strandA.midway = false ∧ (1 > Eng.a.tag) ∧
       ({ s with clk := 1 }).clk ≠ 0) ∧
    Meets { coreSt st0 with work := some Acc.zero } .a (hdr 3) (fun s v => s.at? = some v ∧ v.c.work.isSome = true) :=
  ⟨meets rfl rfl ⟨rfl, by decide⟩, ⟨rfl, by decide⟩, meets rfl rfl ⟨rfl, by decide⟩⟩

/-- The state of one core with page tables: 1 GiB from VA 0 mapped onto itself with every permission, the next GiB not
present, the third not present with a backing descriptor. -/
def mapped (c : Core) (e : Eng) : State :=
  let s := stateOf c e
  let t := ((s.storeNat 0x1000 8 (2 ^ 63 + 0x2000)).storeNat 0x2000 8
    (2 ^ 63 + 2 ^ 62 + 2 ^ 61 + 2 ^ 60 + 2 ^ 59)).storeNat 0x2010 8 (2 ^ 49 + 0x3000)
  { t with fw := { s.fw with
      contexts := s.fw.contexts.put 0 { Context.zero with valid := true, root := 0x1000, fpool := 0x10000 }
      objects := [{ id := 0, ctx := 0, bytes := placedObject, frames := [] }] } }

/-- A ready strand of that state. -/
def MeetsMap (c : Core) (e : Eng) (h : Hdr) (P : State → At → Prop) : Prop :=
  Ready (mapped c e) h (atOf c e) ∧ P (mapped c e) (atOf c e)

theorem meetsMap {c : Core} {e : Eng} {h : Hdr} {P : State → At → Prop} (hb : (c.strand e).busy = false)
    (hp : popsOf h e = []) (hP : P (mapped c e) (atOf c e)) (ht : c.trapped = none := by rfl) : MeetsMap c e h P :=
  ⟨⟨rfl, hb, by show c.lacking (popsOf h e) = none; rw [hp]; rfl, ht⟩, hP⟩

/-- FlagWriteResults: a pin of two lines, for the core and for the cluster, and one that fails. -/
theorem witness_pins :
    let f := fun (o : BitVec 20) => ({ sd := 0, sa := 6, sb := 7, scp := 0, idx := 3, ops := o } : FmtY)
    let c := fun (n : Word) => { opsA 0x10040 n with strandV := { st0 with cfok := 0xF7 } }
    MeetsMap (c 100) .a (hdr 0) (fun s v => v.c.flagFree 3 = true ∧
      s.pinsOf v (f 0) = some [{ line := 512, core := 0 }, { line := 513, core := 0 }] ∧
      s.pinsOf v (f 1) = some [{ line := 512, core := 0 }, { line := 513, core := 0 }]) ∧
    MeetsMap (c 0x100000) .a (hdr 0) (fun s v => s.pinsOf v (f 0) = none) :=
  ⟨meetsMap rfl rfl (by decide +kernel), meetsMap rfl rfl (by decide +kernel)⟩

/-- The addresses of an access that translates. -/
def okAddrs : Access → Option (List Nat)
  | .ok as _ _ _ => some as
  | _ => none

/-- The cause of an access that traps. -/
def trapCause : Access → Option (BitVec 8)
  | .trap t => some t.cause
  | _ => none

/-- The page of an access that is held. -/
def heldPage : Access → Option Nat
  | .hold f => some f.va
  | _ => none

/-- ScalarAccessResults, AtomicIssueResults, WorkListResults: an access that translates, one that faults, one held for a
fill, by each kind; the store up to the last byte of a 64 KiB page. -/
theorem witness_accesses : MeetsMap (opsA 0x20000 0) .a (hdr 0) (fun s v => s.Inv ∧ s.redsPending v.c = false ∧
    okAddrs (s.access v .load 0x20000 2) = some [0x20000, 0x20001] ∧
    okAddrs (s.access v .store 0x2FFFE 2) = some [0x2FFFE, 0x2FFFF] ∧
    okAddrs (s.access v .atomic 0x20000 4) = some [0x20000, 0x20001, 0x20002, 0x20003] ∧
    (s.readS v 6).toNat % 2 ^ 52 = 0x20000 ∧ v.foreign 5 = false ∧ s.poisoned 0x20000 = false) ∧
    MeetsMap (opsA 0x20000 0) .a (hdr 0) (fun s v =>
      trapCause (s.access v .load 0x40000000 8) = some 4 ∧ trapCause (s.access v .store 0xFFFF 8) = some 4 ∧
      trapCause (s.access v .atomic 0x40000000 8) = some 4 ∧ heldPage (s.access v .load 0x80000008 8) = some 0x80000000 ∧
      heldPage (s.access v .store 0x80000008 8) = some 0x80000000) :=
  ⟨meetsMap rfl rfl (by decide +kernel), meetsMap rfl rfl (by decide +kernel)⟩

/-- The words of a fetch that gets them. -/
def gotWords : Fetch → Option (List Word)
  | .got ws _ => some ws
  | _ => none

/-- A state of page tables with words at VA 0x10000. -/
def text (c : Core) (ws : List Word) : State :=
  (ws.zipIdx).foldl (fun s w => s.storeNat (0x10000 + 8 * w.2) 8 w.1.toNat) (mapped c .a)

/-- A PATCH of a field at a distance. -/
def fKp (ops : BitVec 11) (d : BitVec 20) : FmtK := { sa := 6, cf := 0, cn := 0, lv := 0, ops := ops, imm := d }

/-- PatchAndRepResults: a target whose words can be read and that carries one field and not another, a value at the end of its
range and one past it, an overlay with room, with the entry, and full; a target that has been fetched too far ahead. -/
theorem witness_patch :
    let s := text (coreSt st0) [0x00CD00A000100001, 0x6001000080000004]
    Ready s (hdr 0) (atOf (coreSt st0) .a) ∧ gotWords (s.fetchWords 0 false 1 0x10008) = some [0x6001000080000004] ∧
    (∃ i, decode [0x6001000080000004] = .ok i ∧ (patchPlace 1 i).isSome = true ∧ (patchPlace 2 i).isSome = false) ∧
    patchRange 1 1048575 = true ∧ patchRange 1 1048576 = false ∧ (coreSt st0).overlay.length < 16 :=
  ⟨⟨rfl, rfl, rfl, rfl⟩, by decide +kernel,
    ⟨.nest (hdr 3) { sa := 0, cf := 0, cn := 0, lv := 1, ops := 0, imm := 4 }, by rfl, by decide, by decide⟩,
    by decide, by decide, by decide⟩

theorem witness_overlay :
    let p : PatchEntry := { x := 0x10008, field := 1, value := 9 }
    Meets { coreSt st0 with overlay := List.replicate 16 { p with field := 2 } } .a (hdr 0) (fun _ v =>
      (∀ q, q ∈ v.c.overlay → ¬ (q.x = v.st.pc + 8 ∧ q.field.toNat = 1)) ∧ 16 ≤ v.c.overlay.length) ∧
    Meets { coreSt st0 with overlay := [p], strandV := { st0 with history := [(1, 0x10008)] } } .a (hdr 0) (fun _ v =>
      (∃ q, q ∈ v.c.overlay ∧ q.x = v.st.pc + 8 ∧ q.field.toNat = 1) ∧
      ∃ e q, q ∈ (v.c.strand e).history ∧ q.2 = v.st.pc + 8 ∧ v.st.dwc.toNat < q.1) :=
  ⟨meets rfl rfl (by decide), meets rfl rfl ⟨by decide, .v, (1, 0x10008), by decide⟩⟩

/-- PatchAndRepResults, second part: a REP of three ADDs that may be made, and of an ADD whose result register another strand
owns. -/
theorem witness_rep :
    let st := { st0 with held := some [0x01C4000000200000] }
    let ok := text (coreSt st) [0x01C4000000200000, 0x000100A638000000]
    let bad := text { coreSt st with sown := 32 } [0x01C4000000200000, 0x000100A638000000]
    ok.at? = some (atOf (coreSt st) .a) ∧ gotWords (ok.fetchWords 0 false 1 0x10008) = some [0x000100A638000000] ∧
    leadCheck 0x000100A638000000 = none ∧ xwBits 0x000100A638000000 = 0 ∧
    repBad ok (atOf (coreSt st) .a) 0x01C4000000200000 3 [0x000100A638000000] = none ∧
    repBad bad (atOf { coreSt st with sown := 32 } .a) 0x01C4000000200000 3 [0x000100A638000000] = some (illegalOp 6) ∧
    (coreSt st).lacking [] = none :=
  ⟨rfl, by decide +kernel, by decide, by decide, by decide +kernel, by decide +kernel, rfl⟩

/-- StateRegisterResults: any value for a register that may be written now; an MMUL suspended; the M strand at work; the task
of the core. -/
theorem witness_state_registers (x : Word) :
    Meets (opsA x 0) .a (hdr 0) (fun s v => s.readS v 6 = x ∧ v.foreign 5 = false ∧ v.c.strandM.busy = false ∧
      v.c.miterOpen = false ∧ v.c.mmulOpen = false ∧ s.task? v.c.task = some (placedTask 0)) ∧
    Meets { opsA x 0 with mprog := 0x8000000000000000 } .a (hdr 0) (fun s v => s.readS v 6 = x ∧ v.c.mmulOpen = true) ∧
    Meets { opsA x 0 with strandM := { st0 with busy := true } } .a (hdr 0) (fun s v => s.readS v 6 = x ∧
      v.c.strandM.busy = true) :=
  ⟨meets rfl rfl ⟨rfl, foreign_of _ _ _ rfl rfl, rfl,
      by show (0#64).getLsbD 63 = false; decide, by show (0#64).getLsbD 63 = false; decide, rfl⟩,
    meets rfl rfl ⟨rfl, by show (0x8000000000000000#64).getLsbD 63 = true; decide⟩, meets rfl rfl ⟨rfl, rfl⟩⟩

/-- A RED of core 0 that waits in a merge buffer. -/
def redOf (sent : Bool) : HomeReq :=
  { kind := .red, cores := [(0, 0)], via := [(0, 0x20000)], die := 0, port := 0, rel := false, so := false, home := 0, lock := false, big := false, va := 0x20000, addr := 0x20000,
    aop := 0, ty := 11, val := 5, cmp := 0, sent := sent, since := 0 }

/-- FenceAndTimelineResults: a RED of the core on its way and none; a timeline with 5 issued and 3 done, waited for at 3, 4,
and 6; a number that only the strand could issue, and one that the strand does not issue. -/
theorem witness_timelines :
    let c := { opsA 4 0 with tls := RegFile.fill 3 { iss := 5, comp := 3, dones := [] } }
    Meets c .a (hdr 0) (fun s v => s.reqs = [] ∧ (s.readS v 6).toNat = 4 ∧ (v.c.tls.at' 5).comp.toNat < 4 ∧
      4 ≤ (v.c.tls.at' 5).iss.toNat ∧ 3 ≤ (v.c.tls.at' 5).comp.toNat ∧ v.foreign 5 = false ∧
      (v.c.tls.at' 2).iss.toNat < 6 ∧ v.e = .a) ∧
    (Ready { stateOf c .a with reqs := [redOf false] } (hdr 0) (atOf c .a) ∧
      (∃ r, r ∈ [redOf false] ∧ r.kind = .red ∧ (c.task, c.vcore) ∈ r.cores)) :=
  ⟨meets rfl rfl (by decide), ⟨⟨rfl, rfl, rfl, rfl⟩, redOf false, by decide⟩⟩

/-- A configured stage of two slots of 256 bytes at base 0, one producer and two consumers. -/
def stageWord : BitVec 64 := 0x0000000010010102

/-- The core with that stage at index 3 and a slot 1. -/
def coreStage (q : Word) (x : StageSlot) : Core :=
  { opsA q 0 with stages := RegFile.tab 3 (fun _ =>
      { word := some stageWord, slots := RegFile.tab 4 (fun m => if m = 1 then x else { seq := BitVec.ofNat 64 m, pct := 0, cct := 0 }) }) }

/-- StageResults: a slot that is free for the number asked for, published, held back, past it and ahead of it; one consumer
from the end, at the end, and all consumed. -/
theorem witness_stages :
    let n := fun (w : BitVec 64) => w.toNat / 2 ^ 16 % 16 + 1
    (n stageWord = 2 ∧ stageWord.toNat / 2 ^ 8 % 256 = 1 ∧ stageWord.toNat % 256 = 2) ∧
    Meets (coreStage 3 { seq := 3, pct := 0, cct := 0 }) .a (hdr 0) (fun s v => (v.c.stages.at' 3).word = some stageWord ∧
      (s.readS v 6).toNat = 3 ∧ s.reqs = [] ∧ v.foreign 5 = false ∧
      ((v.c.stages.at' 3).slots.at' (3 % 2)).seq.toNat = 3 ∧ ((v.c.stages.at' 3).slots.at' (3 % 2)).pct ≠ 1) ∧
    Meets (coreStage 3 { seq := 3, pct := 1, cct := 0 }) .m (hdr 1) (fun _ v =>
      ((v.c.stages.at' 3).slots.at' 1).seq = 3 ∧ ((v.c.stages.at' 3).slots.at' 1).pct = 1 ∧
      ((v.c.stages.at' 3).slots.at' 1).cct + 1 ≠ 2) ∧
    Meets (coreStage 3 { seq := 3, pct := 1, cct := 1 }) .a (hdr 0) (fun _ v =>
      ((v.c.stages.at' 3).slots.at' 1).cct + 1 = 2) ∧
    Meets (coreStage 3 { seq := 3, pct := 1, cct := 2 }) .a (hdr 0) (fun _ v =>
      ((v.c.stages.at' 3).slots.at' 1).cct = 2) ∧
    Meets (coreStage 3 { seq := 1, pct := 1, cct := 1 }) .a (hdr 0) (fun _ v =>
      ((v.c.stages.at' 3).slots.at' 1).seq.toNat < 3) ∧
    Meets (coreStage 3 { seq := 5, pct := 0, cct := 0 }) .a (hdr 0) (fun s v =>
      3 < ((v.c.stages.at' 3).slots.at' 1).seq.toNat ∧ (∀ e, (v.c.strand e).holdsStage 3 = false) ∧ (s.cores.all (fun c => c.releasing.isEmpty)) = true ∧
      (regionOf 0).isSome = true ∧ regionOf 0 = regionOf (2 * 256 - 1)) := by
  refine ⟨by decide, meets rfl rfl (by decide), meets rfl rfl (by decide), meets rfl rfl (by decide),
    meets rfl rfl (by decide), meets rfl rfl (by decide), meets rfl rfl ⟨by decide, ?_, by decide⟩⟩
  intro e
  cases e <;> decide

/-- BarrierResults: a broken level; arrivals one ahead, level with the core's, and the core a step ahead of the episode; a
strand in a SYNC, its episode done and not; DMSET with and without an arrival outstanding, on strands A and V; QUIESCE
before its decision and after it, with its flag free and held. -/
theorem witness_barriers :
    let at' := fun (b : Barrier) => { opsA 0x10005 0 with bars := RegFile.fill 3 b }
    let b := Barrier.zero
    Meets (at' { b with broken := true }) .a (hdr 3) (fun _ v => (v.c.bars.at' 2).broken = true) ∧
    Meets (at' { b with byA := 1 }) .a (hdr 3) (fun _ v => (v.c.bars.at' 2).made < (v.c.bars.at' 2).by v.e ∧
      ∃ l, l ≤ 2 ∧ (v.c.bars.at' l).done < (v.c.bars.at' l).byA) ∧
    Meets (at' { b with byA := 1, byM := 1, byV := 1, made := 1 }) .a (hdr 3) (fun _ v =>
      (v.c.bars.at' 2).by v.e ≤ (v.c.bars.at' 2).made ∧ (v.c.bars.at' 2).done < (v.c.bars.at' 2).made ∧
      (v.c.bars.at' 2).by v.e ≠ 0 ∧ (v.c.bars.at' 2).done < (v.c.bars.at' 2).by v.e) ∧
    Meets (at' b) .a (hdr 3) (fun _ v => (v.c.bars.at' 2).broken = false ∧ (v.c.bars.at' 2).by v.e = (v.c.bars.at' 2).made ∧
      (v.c.bars.at' 2).made ≤ (v.c.bars.at' 2).done ∧ v.st.synced ≠ some 2 ∧ (v.c.bars.at' 2).by v.e = 0 ∧ v.c.quiet = none ∧
      (∀ l, l ≤ 2 → (v.c.bars.at' l).made ≤ (v.c.bars.at' l).done ∧ (v.c.bars.at' l).byA ≤ (v.c.bars.at' l).done)) ∧
    Meets { at' { b with byA := 1, made := 1, done := 1 } with strandA := { st0 with synced := some 2 }, quiet := some 1 } .a (hdr 3)
      (fun _ v => v.st.synced = some 2 ∧ (v.c.bars.at' 2).by v.e ≤ (v.c.bars.at' 2).done ∧ (v.c.bars.at' 2).by v.e ≠ 0 ∧
        v.c.quiet = some 1 ∧ v.c.flagFree 3 = true) ∧
    Meets { at' { b with byA := 1, made := 1 } with
        strandA := { st0 with synced := some 2 }, strandM := { st0 with cfok := 8 }, quiet := some 0 } .a (hdr 3)
      (fun _ v => v.st.synced = some 2 ∧ (v.c.bars.at' 2).done < (v.c.bars.at' 2).by v.e ∧ v.c.flagFree 3 = false) := by
  refine ⟨meets rfl rfl (by decide), meets rfl rfl ⟨by decide, 0, by decide, by decide⟩, meets rfl rfl (by decide),
    meets rfl rfl (by decide), meets rfl rfl (by decide), meets rfl rfl (by decide)⟩

/-- An ATOM word (ADD of INT32) as its strand holds it while its request is at the home. -/
def atomWord : Word := 0x00A0000094C00B00

/-- HomeAtomicResults: a RED at its home; an ATOM there whose strand waits; a location with and without a mark. -/
theorem witness_home_atomic :
    let st := { st0 with held := some [atomWord], busy := true, wait := .home, rsn := 1 }
    let s := { stateOf (coreSt st) .a with reqs := [redOf true, { redOf true with kind := .atom }] }
    s.Inv ∧ s.reqs[0]? = some (redOf true) ∧ (redOf true).val < 2 ^ 32 ∧ s.poisoned 0x20000 = false ∧
    State.poisoned { s with poison := [0x800] } 0x20000 = true ∧ s.place (0, 0) = some 0 ∧ s.core? 0 = some (coreSt st) ∧
    (∃ f : FmtC, decode [atomWord] = .ok (.atom (Hdr.ofWord atomWord) f) ∧ f.sd = 2) :=
  ⟨by decide, rfl, by decide, by decide, by decide, by decide, rfl,
    ⟨{ ch := 0, scp := 0, ord := 0, sd := 2, sa := 10, sb := 12, dr := 0, ops := 0xB00 }, by rfl, rfl⟩⟩

/-- AtomicIssueResults, second and third part: requests not yet sent, of one address and operation; a region whose atomics come
from another die in 75% of 256, and one short of it. -/
theorem witness_merge_and_homes :
    let s := { stateOf (opsA 0 0) .a with
      reqs := [redOf false, redOf false]
      homes := [{ region := 0, die := 0, lock := false, big := false, counts := [(0, 64), (1, 192)] },
                { region := 1, die := 0, lock := false, big := false, counts := [(0, 65), (1, 191)] }] }
    s.reqs[0]? = some (redOf false) ∧ s.clk % 2 ^ 20 = 0 ∧
    (∀ (j : Nat) (x : Home), s.homes[j]? = some x → (x.counts.map (fun p => p.2)).sum = 256 ∧
      ((∃ p, p ∈ x.counts ∧ p.1 ≠ x.die ∧ 3 * 256 ≤ 4 * p.2) ↔ j = 0)) := by
  refine ⟨rfl, by decide, ?_⟩
  intro j x h
  match j with
  | 0 => simp only [List.getElem?_cons_zero, Option.some.injEq] at h; subst h; decide
  | 1 => simp only [List.getElem?_cons_succ, List.getElem?_cons_zero, Option.some.injEq] at h; subst h; decide
  | n + 2 => simp at h

/-- A core with the operands of a copy: source s10, destination s12, size s13. -/
def coreC (src dst n : Word) : Core := coreWith [(10, src), (12, dst), (13, n)]

/-- A COPY in channel 1 of a number of bytes, from VA to VA (ops 0) or of a pattern (ops 0x800). -/
def fCop (ops : BitVec 16) : FmtC := { ch := 1, scp := 0, ord := 0, sd := 12, sa := 10, sb := 13, dr := 0, ops := ops }

/-- The size that a copy captured at its issue. -/
def copyTotal : Except TrapInfo Copy → Option Nat
  | .ok x => some x.total
  | .error _ => none

/-- CopyIssueResults: operands that pass and that do not, by the size in s13 at the bound 2^36 and past it; a channel with room,
full, with a copy, and empty. -/
theorem witness_copy_issue :
    Meets (coreC 0x20000 0x30000 0x1000000000) .a (hdr 0) (fun s v =>
      copyTotal (copyBuild (hdr 0) (fCop 0x400) 0xFFFFFFC000000000 v s) = some (2 ^ 36) ∧
      (v.c.chans.at' 1).queue.length < 16 ∧ (v.c.chans.at' 1).queue = [] ∧ (v.c.chans.at' 1).ending = []) ∧
    Meets (coreC 0x20000 0x30000 0x1000000001) .a (hdr 0) (fun s v =>
      copyTotal (copyBuild (hdr 0) (fCop 0x400) 0xFFFFFFC000000000 v s) = none ∧ 2 ^ 36 < (s.readS v 13).toNat ∧
      2 ^ 32 ≤ (s.readS v 13).toNat) ∧
    (let x := newCopy .copy 0 [0] (atOf (coreC 0 0 0) .a) (stateOf (coreC 0 0 0) .a)
     Meets { coreC 0 0 0 with chans := RegFile.fill 2 { queue := List.replicate 16 x, ending := [], fill := none, count := 0 } } .a (hdr 0)
       (fun _ v => 16 ≤ (v.c.chans.at' 1).queue.length ∧ (v.c.chans.at' 1).queue ≠ [])) :=
  ⟨meets rfl rfl (by decide), meets rfl rfl (by decide),
    meets rfl rfl ⟨by decide, by intro h; exact absurd (congrArg List.length h) (by decide)⟩⟩

/-- A started COPY of 2 bytes, of which one is done. -/
def aCopy (ops : BitVec 16) (src dst : Word) : Copy :=
  { newCopy .copy (leadWord (hdr 0) 0x083 1 (fCop ops).toBits) [0xFFFFFFC000000002] (atOf (coreC src dst 0) .a)
      (stateOf (coreC src dst 0) .a) with total := 2, prog := 1, started := true, n0 := 1, n1 := 1 }

/-- The core whose channel 1 holds a copy. -/
def coreCh (x : Copy) : Core :=
  { coreC 0 0 0 with chans := (RegFile.fill 2 { queue := [], ending := [], fill := none, count := 0 }).put 1 { queue := [x], ending := [], fill := none, count := 0 } }

/-- What reaching an element gave: its addresses, a fault's cause, the page held. -/
def reached : Reach → Option (List Nat) × Option (BitVec 8) × Option Nat
  | .ok ps _ _ => (some (ps.map (fun p => p.addr)), none, none)
  | .fault t _ _ => (none, some t.cause, none)
  | .hold f _ => (none, none, some f.va)

/-- CopyEngineResults: a fill pattern and a copied byte whose ends translate; a destination that faults, a source that is held. -/
theorem witness_copy_engine :
    (let x := aCopy 0x800 0x55 0x30000
     let s := mapped (coreCh x) .a
     s.Inv ∧ s.core? 0 = some (coreCh x) ∧ ((coreCh x).chans.at' 1).queue = [x] ∧ x.kind = .copy ∧ x.started = true ∧ x.fault = none ∧
       (coreCh x).halted = false ∧ s.redsPending (coreCh x) = false ∧ x.openAt = none ∧ x.prog < x.total ∧ x.here s = true ∧
       x.gap s (coreCh x) false = none ∧ x.gap s (coreCh x) true = none ∧ bitAt x.o 11 = true ∧ reached (x.reachDst 0 (coreCh x) s x.prog 1) = (some [0x30001], none, none)) ∧
    (let x := aCopy 0x800 0x55 0x40000000
     reached (x.reachDst 0 (coreCh x) (mapped (coreCh x) .a) x.prog 1) = (none, some 4, none)) ∧
    (let x := aCopy 0 0x20000 0x30000
     x.gap (mapped (coreCh x) .a) (coreCh x) false = none ∧ x.gap (mapped (coreCh x) .a) (coreCh x) true = none ∧
     reached (x.reachSrc 0 (coreCh x) (mapped (coreCh x) .a) x.prog 1) = (some [0x20001], none, none)) ∧
    (let x := aCopy 0 0x80000000 0x30000
     reached (x.reachSrc 0 (coreCh x) (mapped (coreCh x) .a) x.prog 1) = (none, none, some 0x80000000)) :=
  ⟨⟨by decide +kernel, rfl, rfl, rfl, rfl, rfl, rfl, by decide +kernel, rfl, by decide, by decide +kernel, by decide +kernel,
    by decide +kernel, by decide +kernel, by decide +kernel⟩, by decide +kernel,
    ⟨by decide +kernel, by decide +kernel, by decide +kernel⟩, by decide +kernel⟩

/-- CopyEngineResults: a phase copy before, at and after its slot; a finished copy whose numbers are owed; a TCOPY that owes the
release of a stage of its core. -/
theorem witness_copy_ends :
    (let x := { aCopy 0x800 0 0x30000 with started := false, openAt := some 0, ext := [0xFFFFFFC000000002 + 5 * 2 ^ 17] }
     x.slotClk = 5 ∧ x.openAt = some 0 ∧ x.started = false ∧ (coreCh x).halted = false) ∧
    (let x := { aCopy 0x800 0 0x30000 with did0 := false, did1 := false }
     x.owes 0 = true ∧ x.owes 1 = true ∧ x.n0 = (Timeline.zero).comp.toNat + 1 ∧ x.owed = false) ∧
    (let x := { aCopy 0 0 0 with kind := .tcopy, ext := [0, 0xB0000, 0], dst := 1, owed := true }
     let c := { coreStage 0 { seq := 1, pct := 0, cct := 0 } with
       chans := (RegFile.fill 2 { queue := [], ending := [], fill := none, count := 0 }).put 1 { queue := [], ending := [x], fill := none, count := 0 } }
     x.stage? = some 3 ∧ c.halted = false ∧ ((stateOf c .a).coreAt ((stateOf c .a).phys c) (x.stageOwner (stateOf c .a) c)).isSome = true ∧
       ((c.stages.at' 3).relW x.dst.toNat).isSome = true ∧
       ((c.stages.at' 3).relW 3).isSome = false) :=
  ⟨by decide +kernel, by decide +kernel, by decide +kernel⟩

/-- The state with a fill under way of the backed GiB of mapped, and a descriptor of its backing data at 0x3000: a codec,
device memory, and a length. -/
def filling (codec len : Nat) : State :=
  let s := mapped (coreSt { st0 with wait := .fill 0x80000008 false }) .a
  let t := ((s.storeNat 0x3000 8 0xC0000000).storeNat 0x3008 8 (codec + 256)).storeNat 0x3010 8 len
  { t with fw := { t.fw with fills :=
      [{ ctx := 0, va := 0x80000000, level := 1, entryPA := 0x2010, entry := 2 ^ 49 + 0x3000, started := true }] } }

/-- PagingResults: a fill under way of raw data of the page's size into a frame apart from it; a frame that cannot be used; a
codec that is unknown; PK1 data that holds no stream; and an entry that is present already. -/
theorem witness_paging :
    (let s := filling 0 0x40000000
     s.Inv ∧ readNat s.mem 0x2010 8 = 2 ^ 49 + 0x3000 ∧ s.poisoned 0x3000 = false ∧ readNat s.mem 0x3000 8 = 0xC0000000 ∧
       readNat s.mem 0x3008 1 = 0 ∧ readNat s.mem 0x3009 1 = 1 ∧ readNat s.mem 0x300A 6 = 0 ∧ readNat s.mem 0x3010 8 = levelBytes 1 ∧
       readNat s.mem 0x3018 8 = 0 ∧ 0xC0000000 + 0x40000000 ≤ 2 ^ 39 ∧ 0x40000000 % levelBytes 1 = 0 ∧
       0x40000000 + levelBytes 1 ≤ 2 ^ 39 ∧ s.mgmt.badFrames = [] ∧ s.frameOk 0 0x40010000 (levelBytes 1) = false ∧ s.frameOk 0 0x40000000 (levelBytes 1) = true ∧
       (∀ q, q ∈ s.fw.queues → q.ringWait = none ∧ q.stWait = none)) ∧
    readNat (filling 2 0x40000000).mem 0x3008 1 = 2 ∧
    (readNat (filling 1 0).mem 0x3008 1 = 1 ∧ streamBytes [] (levelBytes 1) = none) ∧
    bitAt (readNat (State.storeNat (filling 0 0) 0x2010 8 (2 ^ 63 + 2 ^ 62)).mem 0x2010 8) 63 = true :=
  ⟨by decide +kernel, by decide +kernel, by decide +kernel, by decide +kernel⟩

/-- A core frozen by a COW fault at a VA, its record made and not raised. -/
def coreCow (va : Nat) : Core :=
  { coreSt { st0 with trap := some { info0 with addr := va } } with
    trapped := some { info := { info0 with addr := va }, src := 0, clk := 0, fillErr := false, noResume := false }
    record := some 0x5000 }
where
  /-- PERM_FAULT of copy-on-write. -/
  info0 : TrapInfo := permFault 4 0

/-- PagingResults, third part: the page of the fault is copy-on-write, and is so no longer; a frame that can be used and one
that cannot; an access through the translation on its way. -/
theorem witness_cow :
    (let s := mapped (coreCow 0x20000) .a
     s.Inv ∧ (coreCow 0x20000).trapped ≠ none ∧ (coreCow 0x20000).record ≠ none ∧ (coreCow 0x20000).raised = false ∧
       s.mgmt.fnmode.getLsbD 0 = false ∧ (coreCow 0x20000).cowFaults = some [0x20000] ∧
       (s.walk (s.ctx (coreCow 0x20000)) [] 0x20000).1 = .leaf { raw := 2 ^ 63 + 2 ^ 62 + 2 ^ 61 + 2 ^ 60 + 2 ^ 59 } 1) ∧
    (let s := (mapped (coreCow 0x20000) .a).storeNat 0x2000 8 (2 ^ 63 + 2 ^ 62 + 2 ^ 61 + 2 ^ 58)
     (s.walk (s.ctx (coreCow 0x20000)) [] 0x20000).1 = .leaf { raw := 2 ^ 63 + 2 ^ 62 + 2 ^ 61 + 2 ^ 58 } 1 ∧
       ({ raw := 2 ^ 63 + 2 ^ 62 + 2 ^ 61 + 2 ^ 58 } : Pte).cow = true ∧ s.frameOk 0 0x40000000 (levelBytes 1) = true ∧
       s.frameOk 0 0x40000001 (levelBytes 1) = false ∧ s.inFlight 0 0 0x40000000 = false ∧
       State.inFlight { s with reqs := [redOf true] } 0 0 0x40000000 = true ∧ (leafPlace s.mem 0x20000 4 0 0x1000) = some 0x2000) :=
  ⟨by decide +kernel, by decide +kernel⟩

/-- An invalidation command: KIND, ASID, VA, NPG, ACKSEQ and the address of its answer. -/
def invalCmd (kind asid va npg ack out : Nat) : List (BitVec 8) :=
  leBytes 1 kind ++ leBytes 1 0 ++ leBytes 2 asid ++ leBytes 4 0 ++ leBytes 8 va ++ leBytes 4 npg ++ leBytes 4 ack ++ leBytes 8 out

/-- InvalidationResults: commands of each kind that are queued, dropped, refused; removal done and not; an access through a
removed translation on its way and none; a frame that nothing maps, in both modes, listed, unlisted, with a full list. -/
theorem witness_invalidation :
    (∀ k : Fin 3, (invalCmd k 1 0 (if k.val = 0 then 1 else 0) 7 0x6000).length = 32 ∧
      fieldAt (invalCmd k 1 0 0 7 0x6000) 0 1 = k.val ∧ fieldAt (invalCmd k 1 0 0 7 0x6000) 24 8 = 0x6000) ∧
    fieldAt (invalCmd 0 1 0 1 7 0x6001) 24 8 % 4 ≠ 0 ∧ 2 ^ 39 ≤ fieldAt (invalCmd 0 1 0 1 7 (2 ^ 39)) 24 8 ∧
    invalRefused (invalCmd 3 0 0 0 7 0) = true ∧ invalRefused (invalCmd 0 1 0x10000 1 7 0) = false ∧
    (let s := mapped (coreWith []) .a
     let b := invalCmd 0 1 0x10000 1 7 0x6000
     let t := { s with fw := { s.fw with invals := [b], removed := true } }
     s.Inv ∧ t.fw.invals = [b] ∧ t.fw.removed = true ∧ t.invalBusy b = false ∧ s.fw.invals = [] ∧ s.fw.removed = false ∧
       s.mappings 0x40000000 = [] ∧ s.mgmt.badFrames.length < 4096 ∧ 0x40000000 % 65536 = 0 ∧
       State.invalBusy { t with
         reqs := [{ redOf true with via := [(1, 0x20000)] }]
         fw := { t.fw with contexts := t.fw.contexts.put 0 { Context.zero with asid := 1 } } } (invalCmd 0 1 0x20000 1 7 0) = true) := by
  refine ⟨by decide, by decide, by decide, by decide, by decide, ?_⟩
  decide +kernel

/-- Two cores of one task, vcores 0 and 1. -/
def two (c d : Core) (e : Eng) : State :=
  let s := stateOf c e
  { s with
    cores := [c, { d with vcore := 1 }]
    fw := { s.fw with tasks := [{ placedTask 0 with ppc := 2, slots := [[0, 1]] }] } }

/-- A core with scan group index 1 as given. -/
def coreScan (x : ScanIx) : Core :=
  { coreWith [] with scans := (RegFile.fill 2 ScanIx.zero).put 1 x }

/-- A joined index of level 1 at a position, of the generation gen, whose members are two. -/
def joinedIx (pos gen : Nat) : ScanIx :=
  { ScanIx.zero with scg := BitVec.ofNat 64 (2 ^ 63 + 2 ^ 58 + gen * 2 ^ 32 + pos), members := [(0, 0), (0, 1)] }

/-- ScanGroupResults: an index in a group and in none, a decision waiting, a broken group whose SCAN waits for its carry, a member
one generation behind and none. -/
theorem witness_scan_groups :
    Meets (coreScan ScanIx.zero) .v (hdr 2) (fun _ v => (v.c.scans.at' 1).scg.getLsbD 63 = false ∧
      (v.c.scans.at' 1).decided = none ∧ v.foreign 0 = false) ∧
    Meets (coreScan { ScanIx.zero with decided := some 2 }) .v (hdr 2) (fun _ v => (v.c.scans.at' 1).decided = some 2) ∧
    Meets (coreScan { joinedIx 0 0 with scg := 0xE000000000000000 }) .v (hdr 2) (fun _ v =>
      (v.c.scans.at' 1).scg.getLsbD 63 = true ∧ (v.c.scans.at' 1).scg.getLsbD 61 = true) ∧
    (let s := fun g => two (coreScan (joinedIx 0 1)) (coreScan (joinedIx 1 g)) .v
     Ready (s 0) (hdr 2) (atOf (coreScan (joinedIx 0 1)) .v) ∧ (joinedIx 0 1).scg.getLsbD 63 = true ∧
       (joinedIx 0 1).scg.getLsbD 62 = false ∧ (joinedIx 0 1).scg.getLsbD 61 = false ∧
       (s 0).behind 1 (joinedIx 0 1) = true ∧ (s 1).behind 1 (joinedIx 0 1) = false) :=
  ⟨meets rfl rfl (by decide), meets rfl rfl (by decide), meets rfl rfl (by decide),
    ⟨⟨rfl, rfl, rfl, rfl⟩, by decide +kernel⟩⟩

/-- ScanGroupResults, second part: every member has arrived, with the same configuration and with different ones; one is still
awaited; one was killed. -/
theorem witness_scan_join :
    let a := { ScanIx.zero with join := some 1 }
    let b := { a with scg := 0x0001000000000000 }
    let s := fun (x : ScanIx) (k : Bool) => two (coreScan a) { coreScan x with killed := k } .v
    (s a false).domain 1 (coreScan a) = [0, 1] ∧ ((coreScan a).scans.at' 1).join = some 1 ∧ a.cfg ≠ b.cfg ∧
    (s ScanIx.zero false).domain 1 (coreScan a) = [0, 1] ∧ ScanIx.zero.join ≠ some 1 ∧ (coreScan a).gone = false ∧
    ({ coreScan a with killed := true }).gone = true := by decide +kernel

/-- Operands of a SCAN of one row in group 1 over windows 1 and 1. -/
def fScan : FmtV := { rm := 0, pred := 0, pneg := 0, vd := 1, va := 1, vb := 0, vc := 0, ty := 0, ops := 0x401 }

/-- The core of coreV in a scan group alone, or of two members. -/
def coreSc (x : ScanIx) : Core :=
  { coreV 0 0 0 0 with scans := (RegFile.fill 2 ScanIx.zero).put 1 x, w := RegFile.fill 4 { Window.zero with base := 16 } }

/-- ScanResults: SCAN outside a group, in a broken one, with its checks passed, for the first member (which needs no carry)
and the second (which waits); a total that is there and one that is not; SCANTOT before a SCAN has retired. -/
theorem witness_scan :
    let one := { joinedIx 0 0 with members := [(0, 0)] }
    Meets (coreSc ScanIx.zero) .v (hdr 2) (fun s v => s.Inv ∧ v.tyCheck (.scan (hdr 2) fScan) = none ∧
      (v.c.scans.at' 1).scg.getLsbD 63 = false) ∧
    Meets (coreSc { one with scg := 0xC400000000000000 }) .v (hdr 2) (fun _ v =>
      (v.c.scans.at' 1).scg.getLsbD 63 = true ∧ (v.c.scans.at' 1).scg.getLsbD 62 = true ∧ (v.c.scans.at' 1).scg.getLsbD 61 = false) ∧
    Meets (coreSc one) .v (hdr 2) (fun s v => scanEarly (hdr 2) fScan v s = none ∧ s.behind 1 (v.c.scans.at' 1) = false ∧
      s.before 1 v.ci (v.c.scans.at' 1) = none ∧ (v.c.scans.at' 1).config.aout = false ∧ (v.c.scans.at' 1).retired = false) ∧
    (let s := { two (coreSc (joinedIx 0 0)) (coreSc (joinedIx 1 0)) .v with actor := .strand 1 .v 0 }
     s.before 1 1 (joinedIx 1 0) = some 0 ∧ s.behind 1 (joinedIx 1 0) = false ∧ (joinedIx 1 0).carryIn = false) ∧
    Meets (coreSc { one with retired := true, groupIn := true }) .v (hdr 2) (fun _ v => (v.c.scans.at' 1).retired = true ∧
      (v.c.scans.at' 1).groupIn = true ∧ (v.c.scans.at' 1).op < 4) ∧
    Meets (coreSc { one with retired := true, scg := one.scg ||| 0x00A0000000000000 }) .v (hdr 2) (fun _ v =>
      4 ≤ (v.c.scans.at' 1).op ∧ (v.c.scans.at' 1).groupIn = false) :=
  ⟨meets rfl rfl (by decide), meets rfl rfl (by decide), meets rfl rfl (by decide +kernel), by decide +kernel,
    meets rfl rfl (by decide), meets rfl rfl (by decide)⟩

/-- ScanResults, second part: the member before has sent its carry and its total, with and without a reset; and a total that is
on its way. -/
theorem witness_scan_carry :
    let sent := { joinedIx 0 1 with total := (scanBuf.put 0 { val := some (1, 0), rst := false }).put 1 { val := some (2, 0), rst := true },
                                    carry := scanBuf.put 0 { val := some (3, 0), rst := false } }
    let s := two (coreSc sent) (coreSc (joinedIx 1 0)) .v
    s.before 1 1 (joinedIx 1 0) = some 0 ∧ sent.gen = ((joinedIx 1 0).gen + 1) % 2 ^ 16 ∧ (joinedIx 1 0).scg.getLsbD 63 = true ∧
    (joinedIx 1 0).scg.getLsbD 62 = false ∧ (joinedIx 1 0).carryIn = false ∧ (sent.total.at' 0).rst = false ∧
    (sent.total.at' 1).rst = true ∧ (sent.total.at' 2).val = none ∧ (sent.carry.at' 0).pair.isSome = true ∧
    (sent.carry.at' 1).val = none ∧ (joinedIx 1 0).groupDue = false ∧ ({ joinedIx 1 0 with groupDue := true }).groupDue = true := by
  decide +kernel

/-- The state with list 2 of the core's context: VALID, LVL 1, CAP 4, records at 0x30000, HEAD and TAIL. -/
def listed (c : Core) (head tail : Nat) : State :=
  (((mapped c .v).storeNat 0x20080 8 0x30000).storeNat 0x20088 8 (2 ^ 35 + 2 ^ 32 + 4)).storeNat 0x20090 16 (tail * 2 ^ 64 + head)

/-- An APPEND's request at its home. -/
def appendReq (pop dedup : Bool) : ListReq :=
  { core := (0, 0), pop := pop, ctx := 0, list := 2, va := 0x20080, table := 0x20080,
    words := 0x30000 + 2 ^ 64 * (2 ^ 35 + 2 ^ 32 + 4), dedup := dedup, key := 9, reg := 3, item := leBytes 32 0 }

/-- WorkListResults: a sound list, one whose descriptor is bad, a list number of 256; a request at its home with a list that is
empty, full, and between; a key that is held and one that is not; a record page that no longer translates. -/
theorem witness_lists :
    let c := { coreV 0 2 0 0 with wlt := 0x20000 }
    let s := listed c 0 0
    s.Inv ∧ s.at? = some (atOf c .v) ∧ (s.readS (atOf c .v) 6).toNat = 2 ∧ (atOf c .v).foreign 5 = false ∧
      okAddrs (s.access (atOf c .v) .load 0x20080 64) = some ((List.range 64).map (fun i => 0x20080 + i)) ∧
      listBad s c (s.descAt 0x20080) = false ∧ listBad (mapped c .v) c ((mapped c .v).descAt 0x20080) = true ∧
      (s.descAt 0x20080).head = (s.descAt 0x20080).tail :=
  ⟨by decide +kernel, rfl, by decide +kernel, by decide +kernel, by decide +kernel, by decide +kernel, by decide +kernel,
    by decide +kernel⟩

/-- WorkListResults, second part: at the home. -/
theorem witness_lists_home :
    let c := { coreV 0 2 0 0 with wlt := 0x20000 }
    let s := listed c 1 5
    let d := (listed c 1 3).descAt 0x20080
    let k : ListKey := { ctx := 0, list := 2, key := 9, slot := 1, index := 1 }
    ((s.descAt 0x20080).tail + 2 ^ 64 - (s.descAt 0x20080).head) % 2 ^ 64 = (s.descAt 0x20080).cap ∧
      s.recordAt (appendReq false true) (s.descAt 0x20080) 1 = some 0x30020 ∧
      s.recordAt (appendReq false true) { s.descAt 0x20080 with raw := 0x40000000 } 1 = none ∧ 0x30020 + 32 ≤ 2 ^ 39 ∧
      (k.ctx = (appendReq false true).ctx ∧ k.list = (appendReq false true).list ∧ k.key = (appendReq false true).key ∧ d.head ≤ k.index) ∧
      (d.tail + 2 ^ 64 - d.head) % 2 ^ 64 ≠ d.cap ∧ (appendReq false true).item.length = 32 :=
  ⟨by decide +kernel, by decide +kernel, by decide +kernel, by decide, by decide +kernel, by decide +kernel, by decide⟩

/-- An APPEND word and a WLPOP word as a strand holds them while their request is at the home. -/
theorem witness_list_words :
    decode [0x40F000A600000003] = .ok (.append (Hdr.ofWord 0x40F000A600000003) { sd := 5, sa := 6, sb := 0, scp := 0, idx := 0, ops := 3 }) ∧
    decode [0x40F100A600000003] = .ok (.wlpop (Hdr.ofWord 0x40F100A600000003) { sd := 5, sa := 6, sb := 0, scp := 0, idx := 0, ops := 3 }) ∧
    (let st := { st0 with held := some [0x40F000A600000003], busy := true, wait := .list 2 }
     let s := { stateOf { coreWith [] with strandV := st } .v with lists := [appendReq false true, appendReq true false] }
     s.Inv ∧ s.place (0, 0) = some 0 ∧ s.lists[0]? = some (appendReq false true) ∧ s.lists[1]? = some (appendReq true false) ∧
       st.repn = 0 ∧ st.busy = true) :=
  ⟨by rfl, by rfl, by decide, by decide, rfl, rfl, rfl, rfl⟩

/-- BarrierReleaseResults: a level that opens, with a SYNC past its budget in its second phase; one that does not; a core in
QUIESCE at a level with its flag free, and one that is not. -/
theorem witness_barrier_release :
    let at' := fun (b : Barrier) => { coreWith [] with bars := RegFile.fill 3 b }
    let b := { Barrier.zero with byA := 1, byM := 1, byV := 1, made := 1 }
    let late := { b with sync := true, budget := 3, phase := 1, openClk := 0 }
    let quiesce := { st0 with held := some [0x41D5000000000002], wait := .quiesce 2 }
    let q := { coreWith [] with strandA := quiesce, strandM := quiesce, strandV := quiesce }
    (stateOf (at' b) .a).canRelease 2 [at' b] = true ∧ (stateOf (at' b) .a).domain 2 (at' b) = [0] ∧
    (stateOf (at' Barrier.zero) .a).canRelease 2 [at' Barrier.zero] = false ∧ (at' b).gone = false ∧
    (stateOf (at' b) .a).needsPeers (at' b) 4 = false ∧ phaseLimit [at' late] 2 = some 48 ∧
    ({ stateOf (at' late) .a with clk := 49 }).canRelease 2 [at' late] = true ∧ late.openClk + 48 < 49 ∧
    q.inQuiesce 2 = some 2 ∧ q.flagFree 2 = true ∧ (coreWith []).inQuiesce 2 = none ∧
    (stateOf q .a).domainLists q 2 = [] := by decide +kernel

/-- Operands of a WELT instruction on route 8, s5 and strip 9. -/
def fWr : FmtW := { sd := 5, sa := 6, sb := 7, rt := 8, ws := 9, ops := 0 }

/-- A route in a state, from CO of slot 0 through strip 9 to CI of slot 0, with one beat waiting at the strip. -/
def routeIn (m : RouteMode) : Route :=
  { Route.zero with mode := m, src := 0x140, strips := [9], dkind := 4, dests := [0],
                    links := [{ cap := 32, items := [some Beat.zero] }], outs := [Link.empty], dstSeq := [0], dstPos := [0], num := 1 }

/-- MmulResults: an MMUL whose B operand is one of two beats at port MB. -/
theorem witness_mmul_stream :
    let r := { routeIn .run with dkind := 1, outs := [{ cap := 32, items := [some Beat.zero, some Beat.zero] }] }
    let f := fMop 1 8 0x30001
    Meets { coreM false false with
        w := RegFile.fill 4 { Window.zero with ty := 1 }, routes := (RegFile.fill 4 Route.zero).put 8 r } .m (hdr 1)
      (fun s v => (mmulOf f v s).issueBad f v s = none ∧ (mmulOf f v s).bsrc = 3 ∧ (mmulOf f v s).passes = 1 ∧
        (takeBeats s v.ci 1 (ceilDiv (mmulOf f v s).k (mmulOf f v s).lane)).map (fun x => x.1) = some [Beat.zero]) :=
  meets rfl rfl (by decide +kernel)

/-- The core with that route at index 8. -/
def coreRoute (r : Route) : Core := { opsA 0 0 with routes := (RegFile.fill 4 Route.zero).put 8 r }

/-- Extension words of a WROUTE from CO of slot 0 through strip 9 to CI of slot 0, and to CI of slot 63. -/
def w1 : Word := BitVec.ofNat 64 (0x140 * 2 ^ 55 + 1 * 2 ^ 52 + 9 * 2 ^ 48)
def w2 (slot : Nat) : Word := BitVec.ofNat 64 (4 * 2 ^ 61 + slot * 2 ^ 52)

/-- WeltControlResults: words that may be bound and words that may not, a binding that is free and one that clashes; a route in
each of its states; an image at address 0 whose strip no route holds, and one whose route runs. -/
theorem witness_welt_control :
    let m := fun (r : Route) (P : State → At → Prop) => Meets (coreRoute r) .a (hdr 0) P
    m Route.zero (fun s v => wrouteOk w1.toNat (w2 0).toNat = true ∧ (routeOf w1.toNat (w2 0).toNat).bindBad s v.c v.ci 8 = false ∧
      (routeOf w1.toNat (w2 63).toNat).bindBad s v.c v.ci 8 = true ∧ wrouteOk w1.toNat 0 = false ∧
      (v.c.routes.at' 8).mode = .free ∧ v.foreign 5 = false) ∧
    m (routeIn .run) (fun s v => (v.c.routes.at' 8).mode = .run ∧ s.stripRoute (s.phys v.c) 9 = some (0, 8, routeIn .run, 0)) ∧
    m (routeIn .drain) (fun _ v => (v.c.routes.at' 8).mode = .drain) ∧
    m Route.zero (fun s v => (s.readS v 6).toNat % 16 = 0 ∧ ((List.range 640).filterMap (fun i => s.winAddr v.c i)).length = 640 ∧
      regionOf 0 = regionOf 639 ∧ s.stripRoute (s.phys v.c) 9 = none ∧ stripWordOk 9 0x00000003 = true ∧
      stripWordOk 9 0xF0000000 = false) ∧
    m { routeIn .conf with strips := [] } (fun s v => let r := v.c.routes.at' 8
      r.mode = .conf ∧ (∀ j, j ∈ r.strips → ((s.clusters.at' 0).strips.at' j).prog ≠ []) ∧
      (∀ p, p ∈ r.stages → s.portStageOk 0 p = true) ∧ (s.readS v 7).toNat = 0) ∧
    m (routeIn .conf) (fun s v => ¬ ∀ j, j ∈ (v.c.routes.at' 8).strips → ((s.clusters.at' 0).strips.at' j).prog ≠ []) :=
  ⟨meets rfl rfl (by decide +kernel), meets rfl rfl (by decide +kernel), meets rfl rfl (by decide), meets rfl rfl (by decide +kernel),
    meets rfl rfl (by decide +kernel), meets rfl rfl (by decide +kernel)⟩

/-- A state in which strip 0 of cluster 0 is at a word, with items waiting at its input. -/
def striped (w : Nat) (items : List (Option Beat)) : State :=
  let s := State.reset.placeStrip w
  { (s.updCore 0 (fun c => { c with routes := c.routes.put 0 { c.routes.at' 0 with links := [{ cap := 32, items := items }] } })) with
    actor := .strip 0 0 }

/-- StripResults: a beat that waits with room on the output, no beat, an end mark; X.ACC at its last step. -/
theorem witness_strips :
    ((striped 0x10000000 [some Beat.zero]).stripNow.map (fun x =>
      (x.input, x.r.outRoom x.k, x.strip.left, x.strip.idle, x.strip.gather))) = some (some Beat.zero, true, 1, none, []) ∧
    ((striped 0x10000000 []).stripNow.map (fun x => x.input)) = some none ∧
    ((striped 0x10000000 [none]).stripNow.map (fun x => ((x.r.links.getD x.k Link.empty).head?, x.strip.owed, x.strip.endBeat))) =
      some (some none, [], none) := by decide +kernel

/-- PortResults: a route from MO and one from VO of slot 0 that can emit, over a stage whose slot 1 is published and holds
one beat; a route to VI with a beat waiting and a free slot; a full transpose block; a draining route whose destinations have
taken everything. -/
theorem witness_ports :
    let r := { routeIn .run with strips := [], links := [] }
    let mo := { r with src := 0 }
    let vo := { r with src := 0xC0, srcSeq := 3, sstg := 3 }
    let vi := { r with dkind := 2, dstg := 3, outs := [{ cap := 32, items := [some Beat.zero] }], dstSeq := [3] }
    let published := (coreStage 0 { seq := 3, pct := 1, cct := 0 }).stages.at' 3
    let free := (coreStage 0 { seq := 3, pct := 0, cct := 0 }).stages.at' 3
    let ended := { r with mode := .drain, dkind := 6, dests := [0], outs := [{ cap := 32, items := [none] }] }
    let s := stateOf (coreRoute mo) .a
    s.coreAt 0 mo.srcSlot = some (0, coreRoute mo) ∧ mo.srcKind = 0 ∧ mo.canEmit 1 = true ∧ (coreRoute mo).reserves 0 = false ∧
    vo.srcKind = 3 ∧ vo.canEmit 1 = true ∧ (∃ a, published.acquire 3 true = .ok a) ∧ slotBeats stageWord = 1 ∧
    (published.relR 3).isSome = true ∧ free.acquire 3 true = .wait ∧ published.acquire 1 true = .fault ∧
    (vi.outs.getD 0 Link.empty).head? = some (some Beat.zero) ∧ (∃ a, free.acquire 3 false = .ok a) ∧ (free.relW 3).isSome = true ∧
    (s.clusters.at' 0).units.at' 1 = TransUnit.zero ∧ (List.replicate 64 Beat.zero).length = 64 ∧
    (6 ≤ ended.dkind ∧ ended.mode = .drain ∧ (∀ l, l ∈ ended.outs → l.head? = some none) ∧ ∀ p, p ∈ ended.dstPos → p = 0) := by
  refine ⟨rfl, by decide, by decide, by decide, by decide, by decide, ⟨256, rfl⟩, by decide, by decide, rfl, rfl, rfl,
    ⟨256, rfl⟩, by decide, rfl, by decide, by decide⟩

/-- A link with 32 beats. -/
def fullOne : Link := { cap := 32, items := List.replicate 32 (some Beat.zero) }

/-- ProgressMonitorResults: a cluster whose watchdog is due, with a full link and with none; a spill limit with room and
without; strands that wait for each other's tokens. -/
theorem witness_progress :
    let at' := fun (l : Link) (spl : Nat) =>
      let s := stateOf (coreRoute { routeIn .run with links := [l] }) .a
      { s with clk := 4096, fw := { s.fw with tasks := [{ placedTask 0 with set := { Context.zero with splim := spl } }] } }
    let s := at' fullOne 1024
    let dead := stateOf { coreWith [] with
      strandA := { st0 with wait := .token 2 }, strandM := { st0 with wait := .token 0 } } .a
    s.ctxRoutes 0 0 ≠ [] ∧ s.stillSince 0 0 + (s.limitsOf 0 0).wdog ≤ s.clk ∧ s.fullLink 0 0 = some (0, 8, 0, 32) ∧
    s.spilled 0 < (s.limitsOf 0 0).splim ∧ ((at' fullOne 0).limitsOf 0 0).splim ≤ (at' fullOne 0).spilled 0 ∧
    (at' Link.empty 1024).fullLink 0 0 = none ∧ (dead.deadSet 0).length = 2 ∧ (stateOf (coreWith []) .a).deadSet 0 = [] ∧
    (coreWith []).halted = false := by decide +kernel

/-- A queue of context 0 with 2^2 records at 0x40000, its status at 0x50000 and its QCB at 0x60000. -/
def queueOf (slot : Option Nat) (seen consumed : Nat) : Queue :=
  { qid := 5, ctx := 0, ring := 0x40000, stva := 0x50000, rlog := 2, msix := 3, qcb := 0x60000, pend := slot.isNone && consumed < seen,
    slot := slot, mappedAt := 0, errstop := false, resync := false, pbias := 0, subseen := seen, consumed := consumed,
    completed := consumed, errseq := 0, errcode := 0, hready := 0, nrun := 0, done := 0, head := List.replicate 128 0,
    beyond := [], wseq := 1,
    mirror := [], stWait := none, owedIrq := false, ringWait := none, ringFail := false }

/-- An object with one kernel that runs on one core. -/
def kernObject : List (BitVec 8) :=
  leBytes 8 (2 ^ 48) ++ leBytes 8 64 ++ leBytes 48 0 ++ leBytes 16 0 ++ leBytes 8 0x4131211101 ++ leBytes 8 0x01010101 ++ leBytes 32 0

/-- The head of launch n of that kernel on a number of clusters with one core each, with priority tokens. -/
def recordOf (n cl tokens : Nat) : List (BitVec 8) :=
  leBytes 8 n ++ leBytes 20 0 ++ leBytes 1 cl ++ leBytes 1 1 ++ leBytes 1 0 ++ leBytes 1 tokens ++ leBytes 96 0

/-- A state with that object, a queue, and the record of launch 1 in its ring; the context may use cluster 1, or cluster 0,
which the task of the state holds. -/
def queued (q : Queue) (b : List (BitVec 8)) (part : BitVec 64) : State :=
  let s := (mapped (coreWith []) .a).storeBytes 0x40080 b
  let t := if q.slot.isSome then s else s.storeBytes q.qcb q.qcbBytes
  { t with fw := { t.fw with
      queues := [q], objects := [{ id := 0, ctx := 0, bytes := kernObject, frames := [] }]
      contexts := t.fw.contexts.put 0 { t.fw.contexts.at' 0 with part := part } } }

/-- What a firmware access reaches. -/
def firmOk : FirmReach → Option (List Nat)
  | .ok as => some as
  | _ => none

/-- QueueResults: a mapped and an unmapped queue, kicks at the end of the ring and beyond it, an idle queue, a pending one with
a free slot; one mapped and one pending queue of a context of quota 1. -/
theorem witness_queues :
    let s := queued (queueOf (some 0) 0 0) [] 2
    let u := queued (queueOf none 1 0) [] 2
    let a := { queueOf (some 0) 1 0 with qid := 6, qcb := 0x61000 }
    s.Inv ∧ u.Inv ∧ s.getQueue 5 = some (queueOf (some 0) 0 0) ∧ u.getQueue 5 = some (queueOf none 1 0) ∧ s.getQueue 6 = none ∧
    ¬ (0 + 2 ^ (queueOf none 1 0).rlog < 4) ∧ 0 + 2 ^ (queueOf none 1 0).rlog < 5 ∧
    firmOk (s.firmReach 0 .store 0x50000 64) = some ((List.range 64).map (fun i => 0x50000 + i)) ∧
    s.selectedOf 5 = false ∧ u.queues = [queueOf none 1 0] ∧ 1 ≤ (u.fw.contexts.at' 0).quota ∧
    ({ u with fw := { u.fw with queues := [a, queueOf none 1 0] } }).queues = [a, queueOf none 1 0] :=
  by and_intros <;> decide +kernel

/-- HostLinkResults: an event that waits, a ring with room for it and a full one. -/
theorem witness_host_link :
    let m := { Mgmt.zero with events := [[1]], evring := some (0x1000, 4) }
    ({ State.reset with mgmt := m }).Inv ∧ m.events = [1] :: [] ∧ m.evring = some (0x1000, 4) ∧
    m.evcount + 1 ≤ m.evcons + 2 ^ 4 ∧ ({ m with evcount := 16 }).evcons + 2 ^ 4 < ({ m with evcount := 16 }).evcount + 1 := by
  decide

/-- What reading a head gives. -/
def headBytes : HeadRead → Option (List (BitVec 8))
  | .got b => some b
  | _ => none

/-- SelectionResults: a head that is read, sound, and fits; one with the number of another launch; one that needs the cluster
of a running task, and no longer fits; a saved task that fits; a queue's counters that are sound and that are not. -/
theorem witness_selection :
    let q := queueOf (some 0) 1 0
    let s := queued q (recordOf 1 1 1) 2
    let held := queued q (recordOf 1 1 1) 1
    s.headReady q = true ∧ headBytes (s.readHead q) = some (recordOf 1 1 1) ∧ fieldAt (recordOf 1 1 1) 0 8 = 1 ∧
    (s.slotCand q).fits = true ∧ fieldAt (recordOf 2 1 1) 0 8 ≠ 1 ∧ held.bindError 0 (recordOf 1 1 1) = none ∧
    (held.slotCand q).fits = false ∧ (placedTask 0).prio < ({ held with clk := 2 ^ 30 }).headPrio { q with pbias := 5 } ∧
    recTokens (recordOf 1 1 1) ≠ 0 ∧ held.estimate (placedTask 0) ≤ 2 ^ 22 ∧ (placedTask 0).killOk = false ∧
    (let x := { placedTask 0 with clusters := [], stage := .saved 0 }
     let r := { s with fw := { s.fw with queues := [], tasks := [x] } }
     r.resumeList = [(x, 0)] ∧ (r.savedCand (x, 0)).fits = true) ∧
    popCount 64 q.done.toNat = 0 ∧ q.nrun + 0 = q.consumed - q.completed ∧ ({ q with nrun := 1 }).nrun + 0 ≠ q.consumed - q.completed :=
  by and_intros <;> decide +kernel

/-- SelectionResults, second part: a victim that may be drained, saved, or killed. -/
theorem witness_victims :
    let at' := fun (estim : Word) (flags : Nat) =>
      let x := { placedTask 0 with launch := leBytes 40 0 ++ leBytes 1 flags }
      let s := stateOf { coreWith [] with estim := estim } .a
      ({ s with fw := { s.fw with tasks := [x] } }, x)
    (at' 0x400000 0).1.estimate (at' 0x400000 0).2 ≤ 2 ^ 22 ∧ 2 ^ 22 < (at' 0x400001 1).1.estimate (at' 0x400001 1).2 ∧
    (at' 0x400001 1).1.ckptOk (at' 0x400001 1).2 = true ∧ (at' 0x400001 2).1.ckptOk (at' 0x400001 2).2 = false ∧
    (at' 0x400001 2).2.killOk = true ∧ 5800 + 20 * (1 * 1) ≤ 0x400001 := by decide +kernel

/-- LaunchResults: a launch that is bound to slot 0 of cluster 1, one whose record is bad, and a choice that R353 does not
allow; a core whose share has ended, and one that has not; a task whose cores have all reported. -/
theorem witness_launch :
    let b := recordOf 1 1 1
    let s := queued (queueOf (some 0) 1 1) [] 2
    let t := { s with fw := { s.fw with selected := [.launch 5 1 0 b] } }
    t.fw.selected = [.launch 5 1 0 b] ∧ (t.getQueue 5).isSome = true ∧ t.bindError 0 b = none ∧
    t.choiceOk 0 1 1 [] [] (splitChoice 1 1 [1, 0]) = true ∧ t.choiceOk 0 1 1 [] [] (splitChoice 1 1 [0, 0]) = false ∧
    t.bindError 0 (recordOf 1 2 1) = some 5 ∧ (t.clusters.at' 1).lastCtx ≠ some 0 ∧
    ({ coreWith [] with exited := true }).trapped = none ∧ (coreWith []).exited = false ∧
    (let u := stateOf { coreWith [] with shared := true } .a
     u.task? 0 = some (placedTask 0) ∧ (u.cores.filter (fun c => c.task == 0)) ≠ [] ∧
       ∀ c, c ∈ u.cores.filter (fun c => c.task == 0) → c.shared = true ∧ c.freeze = false) :=
  ⟨by decide +kernel, by decide +kernel, by decide +kernel, by decide +kernel, by decide +kernel, by decide +kernel, by decide +kernel,
    by decide, by decide, ⟨by decide, by decide, by decide⟩⟩

/-- The state of one core with its task at a stage, its save area at 0x40000, and its clk. -/
def atStage (stage : TaskStage) (len clk : Nat) (launch : List (BitVec 8)) : State :=
  let s := mapped (coreWith []) .a
  let x := { placedTask 0 with stage := stage, area := (0x40000, len), launch := launch }
  { s with clk := clk, fw := { s.fw with tasks := [x] } }

/-- PreemptionResults: a stopping task whose copies have ended and one with a copy; a drain within its limit, and past it with
each policy; save areas that are too short or cannot be written; an image whose MAGIC is not there. -/
theorem witness_preemption :
    let task := fun (s : State) => s.fw.tasks.headD (placedTask 9)
    (atStage .stopping 0 0 []).Inv ∧ (atStage .stopping 0 0 []).task? 0 = some (task (atStage .stopping 0 0 [])) ∧
    (∀ k, k < 4 → ((coreWith []).chans.at' k).empty = true) ∧ (placedTask 0).clusters.Nodup ∧ (∀ cl, cl ∈ (placedTask 0).clusters → cl < 64) ∧
    Context.zero.drlim = 2 ^ 26 ∧ (atStage (.draining 0) 0 (2 ^ 26 - 1) []).clk < 0 + 2 ^ 26 ∧
    (let s := atStage (.draining 0) 0 (2 ^ 26) (leBytes 40 0 ++ [1])
     s.ckptOk (task s) = true) ∧
    (let s := atStage (.draining 0) 0 (2 ^ 26) (leBytes 40 0 ++ [2])
     s.ckptOk (task s) = false ∧ (task s).killOk = true) ∧
    (let s := atStage (.frozen none) 3 0 []
     (task s).area.2 < 4 ∧ s.taskBusy 0 = false ∧ s.saveReach 0 0x40000 = some 0x40000 ∧ s.saveReach 0 0x40000000 = none) ∧
    (let s := atStage .loading 4096 0 []
     (match s.readImage (task s) with
     | .error r => r
     | .ok _ => 9) = 0) ∧
    (let x := { placedTask 0 with stage := .saved 0, clusters := [], ppc := 1 }
     let s := { queued (queueOf (some 0) 0 0) [] 2 with fw := { (queued (queueOf (some 0) 0 0) [] 2).fw with tasks := [x], selected := [.saved 0] } }
     s.choiceOk 0 1 1 [] [] (splitChoice 1 1 [1, 0]) = true) := by
  refine ⟨by decide +kernel, rfl, by decide, by decide, by decide, rfl, by decide, by decide, by decide, by decide +kernel, by decide +kernel, by decide +kernel⟩

/-- A task that has no core and no cluster left, whose image is its header alone. -/
def emptyTask (stage : TaskStage) : Task :=
  { placedTask 0 with stage := stage, area := (0x40000, 4096), nclus := 0, clusters := [], slots := [] }

/-- PreemptionResults: an image of that task passes its checks. -/
theorem witness_image :
    let s := (mapped (coreWith []) .a).storeBytes 0x40000 (leBytes 4 imageMagic ++ leBytes 2 1 ++ leBytes 1 0 ++ leBytes 1 1 ++
      leBytes 16 0 ++ leBytes 8 4096 ++ leBytes 8 0 ++ shake256 [])
    (match s.readImage (emptyTask .loading) with
     | .ok b => b.length
     | .error _ => 1) = 0 ∧ s.saveReach 0 0x40000 = some 0x40000 ∧ (emptyTask .loading).clusters.length = (emptyTask .loading).nclus :=
  ⟨by decide +kernel, by decide +kernel, rfl⟩

/-- A core that has trapped BRK on strand A, with its record written or not. -/
def trappedOne (record : Option Nat) (raised noResume : Bool) : Core :=
  { coreWith [] with trapped := some { info := { cause := 0x12, detail := 0, addr := 0, write := false }, src := 0, clk := 0,
                                       fillErr := false, noResume := noResume }, record := record, raised := raised }

/-- The state of one core with a command in the mailbox: its code, its payload length, and its payload. -/
def ringing (c : Core) (code len : Nat) (payload : List (BitVec 8)) : State :=
  let s := mapped c .a
  let t := (s.storeNat mailboxBase 8 (code + 2 ^ 32 * len)).storeBytes (mailboxBase + 16) payload
  { t with mgmt := { t.mgmt with bell := some 1 } }

theorem rung_of {s : State} {code len : Nat} (hb : s.mgmt.bell = some 1) (hr : s.mgmt.ready = true)
    (h : (readNat s.mem mailboxBase 1, readNat s.mem (mailboxBase + 1) 3, readNat s.mem (mailboxBase + 4) 4) = (code, 0, len)) :
    Rung s 1 code len := by
  injection h with h1 h2
  injection h2 with h2 h3
  exact ⟨hb, h1, h2, h3, .inl hr⟩

/-- TrapActionResults: a trapped core whose record is not yet written. -/
theorem witness_record :
    let c := trappedOne none false false
    let s := stateOf c .a
    s.task? c.task = some (placedTask 0) ∧ c.trapped ≠ none ∧ c.record = none ∧ c.killed = false ∧ s.coreBusy c = false ∧
    (placedTask 0).stage.saving = false ∧ c.Recordable ∧ c.cowFaults = none ∧ c.exited = false := by
  refine ⟨rfl, by decide, rfl, rfl, by decide, rfl, ⟨?_, by decide, by decide⟩, by decide, rfl⟩
  intro e
  cases e <;> decide

/-- The names in a payload that find the core. -/
def found : Except Nat (Task × Nat × Core) → Option Nat
  | .ok (_, ci, _) => some ci
  | .error _ => none

/-- TrapActionResults: CONTINUE, KILLCORE and ENDTASK of a core that awaits an action, with a record that passes its checks,
and of a core that cannot go on; SAVEACK of an aborted save; CORESTATE of a trapped core. -/
theorem witness_trap_actions :
    (let s := ringing (trappedOne (some 0x50000) true false) 6 32 []
     s.Inv ∧ Rung s 1 6 32 ∧ found (s.trappedCore (s.arg 0 4) (s.arg 4 1) (s.arg 6 2) (s.arg 8 8)) = some 0 ∧ s.arg 5 1 = 0 ∧
       s.arg 16 8 = 0 ∧ s.arg 24 8 = 0 ∧ recordOk s (trappedOne (some 0x50000) true false) (readBytes s.mem 0x50000 2560) = true ∧
       (s.namedTask 0 0 0).isSome = true) ∧
    (let s := ringing (trappedOne (some 0x50000) true true) 6 32 [0, 0, 0, 0, 0, 1]
     Rung s 1 6 32 ∧ s.arg 5 1 = 1 ∧ found (s.trappedCore (s.arg 0 4) (s.arg 4 1) (s.arg 6 2) (s.arg 8 8)) = some 0) ∧
    (let s := ringing (trappedOne none false false) 6 32 [0, 0, 0, 0, 0, 2]
     Rung s 1 6 32 ∧ s.arg 5 1 = 2 ∧ found (s.trappedCore 0 0 0 0) = none ∧ (s.peerCore 0 0).isSome = true) ∧
    (let s := ringing (coreWith []) 7 32 [0, 1]
     Rung s 1 7 32 ∧ s.arg 4 4 = 0 ∧ s.arg 1 1 = 1 ∧ s.arg 16 8 < 2 ^ 52) ∧
    (let s := ringing (trappedOne none false false) 16 24 []
     Rung s 1 16 24 ∧ found (s.namedCore (s.arg 0 4) (s.arg 4 1) (s.arg 6 2) (s.arg 8 8)) = some 0 ∧ s.arg 16 8 + 24576 ≤ 2 ^ 39) := by
  refine ⟨⟨by decide +kernel, rung_of rfl rfl (by decide +kernel), by decide +kernel, by decide +kernel, by decide +kernel,
      by decide +kernel, by decide +kernel, by decide +kernel⟩,
    ⟨rung_of rfl rfl (by decide +kernel), by decide +kernel, by decide +kernel⟩,
    ⟨rung_of rfl rfl (by decide +kernel), by decide +kernel, by decide +kernel, by decide +kernel⟩,
    ⟨rung_of rfl rfl (by decide +kernel), by decide +kernel, by decide +kernel, by decide +kernel⟩,
    ⟨rung_of rfl rfl (by decide +kernel), by decide +kernel, by decide +kernel⟩⟩

/-- SHAKE256 of the empty string and of "abc", 32 bytes (FIPS 202; log entry 41). -/
theorem test_shake256 :
    leNat (shake256 []) = 0x2F76D56E64270CB5821BB862EA52CD3F24EB3E74EB3F3B23138DA80B2BDDB946 ∧
    leNat (shake256 [0x61, 0x62, 0x63]) = 0x39578BE737EA944FEEE1F1F83045B48D4D11C40C0863681C77A8601360663348 := by decide +kernel

/-- A command that has been rung, with what a statement wants of its arguments. -/
def RungWith (c : Core) (code len : Nat) (payload : List (BitVec 8)) (P : State → Prop) : Prop :=
  (ringing c code len payload).Inv ∧ Rung (ringing c code len payload) 1 code len ∧ P (ringing c code len payload)

theorem rungWith {c : Core} {code len : Nat} {payload : List (BitVec 8)} {P : State → Prop}
    (h : (Memory.wf (ringing c code len payload).mem, readNat (ringing c code len payload).mem mailboxBase 1,
      readNat (ringing c code len payload).mem (mailboxBase + 1) 3, readNat (ringing c code len payload).mem (mailboxBase + 4) 4) =
      (true, code, 0, len)) (hp : P (ringing c code len payload)) : RungWith c code len payload P := by
  injection h with h0 h1
  exact ⟨h0, rung_of rfl rfl h1, hp⟩

/-- MailboxObjectResults: each of its commands with arguments that pass and with ones that do not. -/
theorem witness_mailbox_objects :
    let c := coreWith []
    RungWith c 1 32 (leBytes 8 0 ++ leBytes 8 0x1000 ++ leBytes 8 128 ++ leBytes 8 0x2000) (fun s =>
      s.arg 1 7 = 0 ∧ s.arg 0 1 < 16 ∧ (s.fw.contexts.at' (s.arg 0 1)).valid = true ∧ (s.fw.contexts.at' 1).valid = false ∧
      s.arg 8 8 + s.arg 16 8 ≤ 2 ^ 48 ∧ s.arg 24 8 + 4096 ≤ 2 ^ 48) ∧
    RungWith c 2 8 [] (fun s => s.arg 4 4 = 0 ∧ (s.fw.objects.find? (fun o => o.id == s.arg 0 4)).isSome = true) ∧
    RungWith c 3 32 (leBytes 2 5 ++ [0, 16] ++ leBytes 4 2047 ++ leBytes 8 0x40000 ++ leBytes 8 0x50000 ++ leBytes 8 (2 ^ 39 - 256)) (fun s =>
      s.arg 6 2 = 0 ∧ s.arg 3 1 = 16 ∧ s.arg 4 2 = 2047 ∧ s.arg 24 8 + 256 ≤ 2 ^ 39 ∧ s.getQueue 5 = none) ∧
    RungWith c 4 8 [5, 0, 241] (fun s => s.arg 3 5 = 0 ∧ (s.arg 2 1 : Int) - 256 = -15) ∧
    RungWith c 5 136 ([1, 0] ++ leBytes 6 0 ++ leBytes 2 7 ++ [0, 1]) (fun s => s.arg 2 6 = 0 ∧ s.arg 1 1 = 0 ∧ s.arg 0 1 < 16 ∧
      s.arg 10 1 / 2 = 0 ∧ s.arg 12 4 = 0 ∧ s.arg 16 8 < 2 ^ 39 ∧ s.partOk 1 0 = true) ∧
    RungWith c 5 136 ([0, 1] ++ leBytes 6 0 ++ [64]) (fun s => s.arg 2 6 = 0 ∧ s.arg 1 1 = 1 ∧ s.arg 80 56 = 0 ∧
      ((List.range 72).map (fun i => ((readBytes s.mem (mailboxBase + 24) 72).getD i 0).toNat % 128)).sum = 64) := by
  refine ⟨rungWith (by decide +kernel) (by decide +kernel), rungWith (by decide +kernel) (by decide +kernel),
    rungWith (by decide +kernel) (by decide +kernel), rungWith (by decide +kernel) (by decide +kernel),
    rungWith (by decide +kernel) (by decide +kernel), rungWith (by decide +kernel) (by decide +kernel)⟩

/-- MailboxControlResults: each of its commands with arguments at the end of their range; a mode bit that is requested and
quiescent. -/
theorem witness_mailbox_control :
    let c := coreWith []
    RungWith c 8 16 (leBytes 8 5 ++ leBytes 8 4) (fun s => s.arg 2 6 = 0 ∧ s.arg 0 2 = 5 ∧ s.arg 8 8 ≤ 0 + 2 ^ 2) ∧
    RungWith c 9 8 [5] (fun s => s.arg 2 6 = 0 ∧ s.arg 0 2 = 5) ∧
    RungWith c 10 32 [31] (fun s => s.arg 0 8 < 32 ∧ s.arg 16 8 = 0) ∧
    RungWith c 11 40 (leBytes 32 0 ++ leBytes 8 (2 ^ 48 - 3693)) (fun s => s.arg 32 8 + 3693 ≤ 2 ^ 48) ∧
    RungWith c 12 16 (leBytes 8 0x1000 ++ [16]) (fun s => s.arg 9 7 = 0 ∧ s.arg 0 8 % 4096 = 0 ∧ s.arg 0 8 + 64 * 2 ^ s.arg 8 1 ≤ 2 ^ 48 ∧
      s.arg 8 1 ≤ 16) ∧
    RungWith c 13 8 [5, 0, 63] (fun s => s.arg 3 5 = 0 ∧ s.arg 2 1 < 64 ∧ s.mgmt.fnmode.getLsbD 1 = false) ∧
    RungWith c 14 16 (leBytes 8 1 ++ leBytes 8 0) (fun s => s.arg 1 7 = 0 ∧ s.arg 0 1 = 1 ∧ unitOk 1 (s.arg 8 8) = true ∧
      unitOk 1 (7 * 2 ^ 16 + 8 * 2 ^ 8) = false) ∧
    RungWith c 15 8 [7, 64] (fun s => s.arg 2 6 = 0 ∧ s.arg 0 1 < 8 ∧ 16 ≤ s.arg 1 1 ∧ s.arg 1 1 ≤ 64) ∧
    (let s := { State.reset with mgmt := { Mgmt.zero with fnreq := [(3, true)] } }
     s.mgmt.fnreq.find? (fun r => r.1 == 3) = some (3, true) ∧ s.quiescent 3 = true) := by
  refine ⟨rungWith (by decide +kernel) (by decide +kernel), rungWith (by decide +kernel) (by decide +kernel),
    rungWith (by decide +kernel) (by decide +kernel), rungWith (by decide +kernel) (by decide +kernel),
    rungWith (by decide +kernel) (by decide +kernel), rungWith (by decide +kernel) (by decide +kernel),
    rungWith (by decide +kernel) (by decide +kernel), rungWith (by decide +kernel) (by decide +kernel),
    by decide +kernel, by decide +kernel⟩

/-- ModuleResults and ModuleFailureResults: a clk at each boundary, duties that may be given, a sound fuse map, and a task of a
job with a window and a page that an arrival reaches. -/
theorem witness_module :
    (let duties := List.replicate 8 16
     (8192 % 4096 = 0 ∧ duties.length = 8 ∧ ∀ d, d ∈ duties → 16 ≤ d ∧ d ≤ 64)) ∧
    (0x40000000 % 2 ^ 30 = 0 ∧ 0x40000000 ≠ 0 ∧ State.reset.mgmt.telpa = 0) ∧
    fusesOk ((List.range 64).map (fun cl => (if cl % 8 == 7 then 2 ^ 64 else 0) + 64 + 2 ^ 8 * 65)) = true ∧ fusesOk [] = false ∧
    (let s := mapped (coreWith []) .a
     let t := { s with fw := { s.fw with tasks := [{ placedTask 0 with launch := leBytes 44 0 ++ [3] }] } }
     (t.peerTask 3).isSome = true ∧ t.peerTask 0 = none ∧ (t.clusters.at' 0).closed = false ∧
       firmOk (t.firmReach 0 .store 0x20000 4) = some [0x20000, 0x20001, 0x20002, 0x20003] ∧
       (((List.range 4).map (fun k => windowAddr 0 1 0 (16 + k))).filterMap id).length = 4 ∧ t.poisoned 0x20000 = false ∧
       aopTyOk true 0 11 = true ∧ aopTyOk true 0 13 = false) := by
  decide +kernel

/-- StepRunsDecoded: the state with an ADD placed, whose strand A fetches it; the state with a strip word placed. -/
theorem witness_step :
    let s := State.reset.withFetchWord 64 0x000100A208000000
    let c := s.cores.headD (coreWith [])
    s.mgmt.powered = true ∧ (s.core? 0).isSome = true ∧ c.halted = false ∧ c.stopped = false ∧ (c.strand .a).exited = false ∧
    (c.strand .a).parked = false ∧ s.issues c = true ∧ c.pushBlocked .a 0 = none ∧ (c.strand .a).held = none ∧
    c.slipHeld .a = false ∧ gotWords (s.fetchWords 0 false 1 0x10000) = some [0x000100A208000000] ∧
    (c.strand .a).skipping = false ∧ executes 0x000100A208000000 .a = true ∧ leadCheck 0x000100A208000000 = none ∧
    (∃ i, decode [0x000100A208000000] = .ok i ∧ check6 i = true ∧ tyStatic i = true ∧
      s.declares c.task (profOf 0x000100A208000000) = true) ∧
    (let t := State.reset.withFetchWord 32 0x10000000
     0 % 64 < (t.dies.at' 0).duty ∧ ((t.clusters.at' 0).strips.at' 0).prog[0]? = some 0x10000000 ∧
       (decodeStrip 0x10000000).isSome = true) :=
  by
  and_intros
  all_goals first
    | decide +kernel
    | exact ⟨.add (hdr 0) { sd := 5, sa := 2, sb := 1, sc := 0, rsv := 0 }, rfl, by decide, by decide, by decide +kernel⟩

/-- DecodeEncodeAgree: a well-formed instruction that is an instruction word, and a word that decodes to it. -/
theorem witness_decode :
    let i : Instr := .add (hdr 0) { sd := 5, sa := 2, sb := 1, sc := 0, rsv := 0 }
    i.wf = true ∧ (opcOf i).isSome = true ∧ decode [0x000100A208000000] = .ok i := ⟨by decide, by decide, rfl⟩

/-- StepKeepsMemory and ResetState: the memory after reset has its canonical form, and a step from a placed word answers a next
state. -/
theorem witness_step_next : State.reset.Inv ∧ (State.reset.withFetchWord 64 0x000100A208000000).Inv ∧
    (match step (State.reset.withFetchWord 64 0x000100A208000000) with
     | .next t => t.cores.length
     | _ => 0) = 1 := by decide +kernel

/-- AccumulatorMoveResults, second part: windows of MXFP4 and of its scales, before the bytes to rewrite have been taken and
after. -/
theorem witness_packed_store : ∀ b : Bool,
    let c := { coreM false false with
      w := ((RegFile.fill 4 Window.zero).put 4 { Window.zero with ty := 5 }).put 6 { Window.zero with base := 16, ty := 9 }
      taken := if b then some [] else none }
    Meets c .m (hdr 1) (fun s v => s.Inv ∧ v.settledM ∧ v.ty (fMop 5 0 6).ty.toNat = 5 ∧
      v.winTy (s.readW v 4) true = .ok 5 ∧ v.winTy (s.readW v 6) true = .ok 9 ∧ (s.readW v 4).rows = 1 ∧
      (s.readW v 4).cols = 1 ∧ (s.readW v 6).rows = 1 ∧ (s.readW v 6).cols = 1 ∧
      s.checkWrite v.c (s.readW v 4) (fmtOf 5) 0 0 = none ∧ s.checkWrite v.c (s.readW v 6) .uint8 0 0 = none ∧
      (v.c.acc.read 1).psn = false ∧ v.tyCheck (.mstacc (hdr 1) (fMop 5 0 6)) = none ∧ v.c.taken.isSome = b) := by
  intro b
  cases b <;> exact meets rfl rfl ⟨by decide, ⟨by decide, by decide⟩, by decide, by rfl, by rfl, by decide⟩

/-- ControlTransferResults, third part: a return to an address that is a multiple of 8, and to one that is not. -/
theorem witness_returns :
    Meets (coreSt { st0 with ret := [0x10100] }) .a (hdr 3) (fun _ v => v.st.ret = [0x10100] ∧ (0x10100#52).toNat % 8 = 0) ∧
    Meets (coreSt { st0 with ret := [0x10101] }) .a (hdr 3) (fun _ v => v.st.ret = [0x10101] ∧ (0x10101#52).toNat % 8 ≠ 0) :=
  ⟨meets rfl rfl (by decide), meets rfl rfl (by decide)⟩

/-- HintAndExitResults, second part: the last strand of a core whose scan group holds it, and of one whose members are level with
it. -/
theorem witness_last_exit :
    let others := fun (c : Core) => { c with strandM := { st0 with exited := true }, strandV := { st0 with exited := true } }
    let c := others (coreScan (joinedIx 0 1))
    let s := fun g => two c (coreScan (joinedIx 1 g)) .a
    Ready (s 0) (hdr 3) (atOf c .a) ∧ Ready (s 1) (hdr 3) (atOf c .a) ∧ (s 0).leaveHeld c = some 1 ∧ (s 1).leaveHeld c = none :=
  ⟨⟨rfl, rfl, rfl, rfl⟩, ⟨rfl, rfl, rfl, rfl⟩, by decide +kernel, by decide +kernel⟩

/-- PatchAndRepResults, third part: a REP that holds its repeated word already, and one that waits for a token. -/
theorem witness_rep_held :
    let w : Word := 0x000100A638000000
    let st := { st0 with held := some [0x01C4000000200000, w] }
    let s := stateOf (coreSt st) .a
    s.at? = some (atOf (coreSt st) .a) ∧ st.held = some [0x01C4000000200000, w] ∧
    repBad s (atOf (coreSt st) .a) 0x01C4000000200000 3 [w] = none ∧ (coreSt st).lacking [0] = some 0 :=
  ⟨rfl, rfl, by decide +kernel, by decide⟩

/-- StateRegisterResults, second part: each bound of the values that CSRW takes, and a scan index whose SCANCFG is in flight. -/
theorem witness_state_values :
    ((0xFFFFFFFE#64 &&& 0xFFFFFFFF00000001 = 0) ∧ (1#64 &&& 0xFFFFFFFF00000001 ≠ 0)) ∧
    ((3#64 &&& ~~~3#64 = 0) ∧ (4#64 &&& ~~~3#64 ≠ 0)) ∧
    ((0xC000000300001FFF#64 &&& 0x3FFFFFFC3FFFE000 = 0) ∧ (0x2000#64 &&& 0x3FFFFFFC3FFFE000 ≠ 0)) ∧
    ((0xFFFCFF00FFFFFFFF#64 &&& 0x000300FF00000000 = 0) ∧ (0x100000000#64 &&& 0x000300FF00000000 ≠ 0)) ∧
    ((0xCF#64 &&& ~~~0xCF#64 = 0) ∧ (0x10#64 &&& ~~~0xCF#64 ≠ 0)) ∧
    Meets { coreV 0 0 0 0 with flights := [{ dest := .g 2, lanes := 1, landAt := 2, old := .none, seenAt := 2 }] } .v (hdr 2) (fun s v =>
      (v.c.flight? (s.iclk v.c) (.g 2)).isSome = true ∧ v.c.flight? (s.iclk v.c) (.g 1) = none) :=
  ⟨by decide, by decide, by decide, by decide, by decide, meets rfl rfl (by decide)⟩

/-- A parted access whose parts are bytes at addresses, with indices from 0. -/
def splitOf (as : List Nat) : Split := { va := 0x20001, ordered := false, todo := as.zipIdx.map (fun a => [(a.2, a.1, 7)]), got := [] }

/-- ScalarAccessResults, second part: a descriptor across the end of a page, the last of one half TiB, whose next page has the
frames of VA 0. -/
theorem witness_page_end :
    let s := ((mapped (opsA 0x7FFFFFFFC0 0) .a).storeNat 0x2FF8 8 (2 ^ 63 + 2 ^ 62 + 2 ^ 61 + 2 ^ 60 + 2 ^ 59)).storeNat 0x1008 8 (2 ^ 63 + 0x2000)
    let v := atOf (opsA 0x7FFFFFFFC0 0) .a
    Ready s (hdr 0) v ∧ (s.readS v 6).toNat % 2 ^ 52 = 0x7FFFFFFFC0 ∧ 2 ^ 16 < 0x7FFFFFFFC0 % 2 ^ 16 + 128 ∧
    okAddrs (s.access v .load 0x7FFFFFFFC0 128) = some ((List.range 64).map (fun i => 0x3FFFFFC0 + i) ++ List.range 64) :=
  ⟨⟨rfl, rfl, rfl, rfl⟩, by decide +kernel⟩

/-- ScalarAccessResults, third part: an unaligned access, a location with a mark; a strand
in the middle of a parted access, with two parts left and with one, clean and marked; a store that releases behind a RED. -/
theorem witness_parts :
    MeetsMap (opsA 0x20001 0) .a (hdr 0) (fun s v => (s.readS v 6).toNat % 2 ≠ 0 ∧ s.redsPending v.c = false ∧
      okAddrs (s.access v .load 0x20001 2) = some [0x20001, 0x20002] ∧ okAddrs (s.access v .store 0x20001 2) = some [0x20001, 0x20002] ∧
      State.poisoned { s with poison := [0x800] } 0x20001 = true) ∧
    (∀ as : Bool, let st := { st0 with held := some [0x0080000000000000], busy := true, wait := .midway, rsn := 1 }
      let x := splitOf (if as then [0x20001, 0x20002] else [0x20002])
      let c := { coreSt st with split := some x }
      let s := stateOf c .a
      s.at? = some (atOf c .a) ∧ (atOf c .a).st.busy = true ∧ c.split = some x ∧ x.todo ≠ [] ∧
        (atOf c .a).st.rep .a = none ∧ x.todo.all (fun p => p.all (fun b => !s.poisoned b.2.1)) = true ∧
        x.todo.all (fun p => p.any (fun b => State.poisoned { s with poison := [0x800] } b.2.1)) = true) ∧
    descOk (2 ^ 64 * 2 ^ 8 + 2 ^ 128 * 5) = true ∧ descOk 0 = false ∧
    (let c := opsA 0 0
     let s := { stateOf c .a with reqs := [redOf true] }
     Ready s (hdr 0) (atOf c .a) ∧ s.redsPending c = true) := by
  refine ⟨meetsMap rfl rfl (by decide +kernel), fun as => ?_, by decide +kernel, by decide +kernel, ⟨rfl, rfl, rfl, rfl⟩, by decide⟩
  cases as <;> exact ⟨rfl, rfl, rfl, by decide, by decide, by decide, by decide⟩

/-- AtomicIssueResults, fourth part: a port whose merge buffer is full of other REDs. -/
theorem witness_full_buffer : MeetsMap (opsA 0x20000 0) .a (hdr 0) (fun s v =>
    let t := { s with reqs := List.replicate 16 { redOf false with addr := 0x30000 } }
    16 ≤ (t.reqs.filter (fun q => !q.sent && q.port == t.phys v.c)).length ∧
    (∀ q, q ∈ t.reqs → ¬ (q.kind = .red ∧ q.sent = false ∧ q.addr = 0x20000)) ∧
    okAddrs (t.access v .atomic 0x20000 4) = some [0x20000, 0x20001, 0x20002, 0x20003]) := by
  refine meetsMap rfl rfl ⟨by decide, ?_, by decide +kernel⟩
  intro q hq
  rw [List.eq_of_mem_replicate hq]
  decide

/-- HomeAtomicResults, second part: a RED behind another of its core at one location, and behind one elsewhere. -/
theorem witness_home_order :
    let s := { stateOf (coreSt st0) .a with reqs := [redOf true, redOf true] }
    let t := { s with reqs := [{ redOf true with addr := 0x20008 }, redOf true] }
    s.reqs[1]? = some (redOf true) ∧ s.mustWait 1 = true ∧ t.mustWait 1 = false ∧ s.mustWait 0 = false := by decide +kernel

/-- ScanGroupResults and ScanResults, with peers: a task of a job, whose level-4 groups reach other packages; a member whose SCAN
waits for a carry from there, and one whose carry is there; a break notice. -/
theorem witness_wide_groups :
    let job := fun (s : State) => { s with fw := { s.fw with tasks := [{ placedTask 0 with launch := leBytes 44 0 ++ [3] }] } }
    let a := { ScanIx.zero with join := some 4 }
    let x := { joinedIx 2 0 with members := [(0, 0)], before := 2, after := 1 }
    let waits := { coreSc x with strandV := { st0 with held := some [0x4080000000000401], busy := true, wait := .scan 1 1 } }
    let s := job (stateOf (coreScan a) .v)
    let t := job (stateOf (coreSc x) .v)
    s.needsPeers (coreScan a) 4 = true ∧ s.needsPeers (coreScan a) 3 = false ∧ s.domain 4 (coreScan a) = [0] ∧
    x.wide = true ∧ x.farBefore = true ∧ t.before 1 0 x = none ∧ x.carryIn = false ∧ x.scg.getLsbD 63 = true ∧
    x.scg.getLsbD 62 = false ∧ t.members 1 x = [0] ∧ waits.strandV.busy = true ∧ waits.strandV.wait = .scan 1 1 ∧
    (joinedIx 0 0).wide = false := by decide +kernel

/-- CopyEngineResults, third part: a byte sent and not performed, in a core that has trapped; a copy whose reads are all made while
its writes are not. -/
theorem witness_copy_sent :
    let b : SentByte := { addr := 0x30000, va := none, val := 7, mask := 0xFF, un := false, psn := false, old := none }
    let x := { aCopy 0x400 0x55 0x30000 with sent := [b] }
    let c := { coreCh x with trapped := some { info := illegalOp 0, src := 0, clk := 0, fillErr := false, noResume := false } }
    c.halted = true ∧ (c.chans.at' 1).queue = [x] ∧ x.sent = [b] ∧ x.made = false ∧
    (let y := { x with prog := 2 }
     y.readAll = true ∧ y.did0 = false ∧ y.started = true ∧ y.total ≠ 0 ∧ y.sent ≠ []) := by decide +kernel

/-- BarrierReleaseResults, second part: a level-4 episode of a job, and a QUIESCE there. -/
theorem witness_peer_barrier :
    let quiesce := { st0 with held := some [0x41D5000000000002], wait := .quiesce 4 }
    let c := { coreWith [] with
      strandA := quiesce, strandM := quiesce, strandV := quiesce
      bars := RegFile.fill 3 { Barrier.zero with byA := 1, byM := 1, byV := 1, made := 1 } }
    let s := stateOf c .a
    let t := { s with fw := { s.fw with tasks := [{ placedTask 0 with launch := leBytes 44 0 ++ [3] }] } }
    t.needsPeers c 4 = true ∧ t.canRelease 4 [c] = true ∧ c.inQuiesce 4 = some 2 ∧ t.domainLists c 4 = [] ∧ t.domain 4 c = [0] := by
  decide +kernel

/-- StripResults, second part: a strip that packs BF16 with nothing and with one beat gathered, one that owes beats of an unpacking
step, one at an end mark with a last beat. -/
theorem witness_packing :
    let at' := fun (w : Nat) (items : List (Option Beat)) (f : Strip → Strip) =>
      ((striped w items).updCluster 0 (fun k => { k with strips := k.strips.put 0 (f (k.strips.at' 0)) })).stripNow
    ((at' 0xA0042000 [some Beat.zero] id).map (fun x => (x.strip.gather.length, x.r.outRoom x.k))) = some (0, true) ∧
    ((at' 0xA0042000 [some Beat.zero] (fun y => { y with gather := [Beat.zero] })).map (fun x => x.strip.gather.length)) = some 1 ∧
    32 / (cvtFmt 1).bits = 2 ∧
    ((at' 0xA0044000 [] (fun y => { y with owed := [Beat.zero, Beat.zero] })).map (fun x => (x.strip.owed.length, x.r.outRoom x.k))) =
      some (2, true) ∧
    ((at' 0xA0042000 [none] (fun y => { y with gather := [Beat.zero] })).map (fun x =>
      ((x.r.links.getD x.k Link.empty).head?, x.strip.endBeat.isSome, x.r.outRoom x.k))) = some (some none, true, true) := by
  decide +kernel

/-- PortResults, second part: a VI port in fault beside one that is not; a transpose unit at the end mark of a block of one beat,
and one whose route has gone; an end that its unit has noted. -/
theorem witness_ends :
    let r := { routeIn .drain with strips := [], links := [], dkind := 6, dests := [0], outs := [{ cap := 32, items := [none] }], faults := [1] }
    let unit := { TransUnit.zero with coming := [Beat.zero] }
    let s := (stateOf (coreRoute r) .a).updCluster 0 (fun k => { k with units := k.units.put 0 unit })
    (0 + 1 ∈ r.faults ∧ 1 + 1 ∉ r.faults) ∧ s.routeTo 0 6 0 = some (0, 8, r, 0) ∧ s.routeFrom 0 (6 * 64) = none ∧
    (r.outs.getD 0 Link.empty).head? = some none ∧ (s.clusters.at' 0).units.at' 0 = unit ∧ s.routeTo 0 7 0 = none ∧
    s.cores = [coreRoute r] ∧ (∀ k, k < 16 → 6 ≤ ((coreRoute r).routes.at' k).dkind ∨ ((coreRoute r).routes.at' k).mode = .free) ∧
    ({ unit with ended := true }).ended = true :=
  ⟨by decide, by decide +kernel, by decide +kernel, by decide, by decide +kernel, by decide +kernel, rfl, by decide +kernel, rfl⟩

/-- QueueResults, second part: a wake that a kick has asked for, one by an idle queue, one that nothing asks for; a boundary at which
the periodic wake has not run, and has. -/
theorem witness_wakes :
    let s := queued (queueOf (some 0) 1 1) [] 2
    let busy := queued (queueOf (some 0) 1 0) [] 2
    ({ busy with fw := { busy.fw with roused := true } }).fw.roused = true ∧ s.queueIdle (queueOf (some 0) 1 1) = true ∧
    busy.fw.roused = false ∧ (∀ q, q ∈ busy.queues → busy.queueIdle q = false) ∧
    ({ s with clk := 2 ^ 18 }).clk % 2 ^ 18 = 0 ∧ s.fw.ticked ≠ 2 ^ 18 + 1 ∧
    ({ s.fw with ticked := 2 ^ 18 + 1 }).ticked = 2 ^ 18 + 1 := by decide +kernel

/-- SelectionResults and MailboxControlResults: a queue whose QCB has a mark while a launch of it is selected; a queue whose status
write waits for a fill. -/
theorem witness_lost_queue :
    let q := queueOf (some 0) 1 1
    let s := queued q [] 2
    let t := { s with poison := [0x60040 / 64], fw := { s.fw with tasks := [], selected := [.launch 5 1 0 []] } }
    t.getQueue 5 = some q ∧ t.poisoned (q.qcb + 64) = true ∧ (∀ x, x ∈ t.fw.tasks → x.qid ≠ 5) ∧ t.clk % 2 ^ 20 = 0 ∧
    ({ q with stWait := some 0x50000 }).stWait ≠ none := by decide +kernel

/-- PreemptionResults, second part: a checkpoint decided of a task that may no longer be saved; of one with a core in a level-4
group. -/
theorem witness_checkpoint :
    (let s := atStage (.decided none) 0 0 (leBytes 40 0 ++ [2])
     s.ckptOk (s.fw.tasks.headD (placedTask 9)) = false ∧ (s.fw.tasks.headD (placedTask 9)).killOk = true) ∧
    (let s := atStage (.decided none) 0 0 (leBytes 40 0 ++ [1])
     s.ckptOk (s.fw.tasks.headD (placedTask 9)) = true) := by decide +kernel

/-- ModuleResults and MailboxControlResults: findings of a patrol that count, reach a threshold and lose data; duties that reduce
issue and that do not; a unit that is due. -/
theorem witness_findings :
    let s := { State.reset with mgmt := { Mgmt.zero with errors := List.replicate 15 (0, 0x10000, 0), due := [(1, 5)] } }
    ((s.countError 0 0x10000).mgmt.due).contains (0, 0x10000) = true ∧ ((s.countError 0 0x20000).mgmt.due).contains (0, 0x20000) = false ∧
    granular 0x10000 = true ∧ granular hostBase = false ∧ s.mgmt.due.contains (1, 5) = true ∧
    State.reset.reduces (fun _ _ => 16) = true ∧ State.reset.reduces (fun _ d => d.duty) = false := by decide +kernel

end Sys2Proof.Tests
end

