-- ==== Sys2Proof/Tests/Clauses.lean ====
section
/-! SUPPORT. More witnesses: for the clauses about elements of copies, and for those of other obligations that depend on what
stands beside an instruction, or on the stage of a task, a module or a command. -/
set_option Elab.async false

namespace Sys2Proof.Tests
open Sys2Proof.Machine

/-- The state of a core whose channel 1 holds a copy, with page tables and bytes at addresses. -/
def moving (x : Copy) (l : List (Nat × List (BitVec 8))) : State :=
  l.foldl (fun s p => s.storeBytes p.1 p.2) (mapped (coreCh x) .a)

/-- Channel 1 may make an element of a copy. -/
theorem turn {x : Copy} {s : State} {c : Core} {ci ch : Nat} {rest : List Copy} (hc : s.core? ci = some c)
    (hq : (c.chans.at' ch).queue = x :: rest) (hb : (c.halted, s.redsPending c, x.here s, x.made) = (false, false, true, false))
    (hl : ch < 4 := by decide) (hf : x.fault = none := by rfl) (hs : x.started = true ∧ x.openAt = none := by exact ⟨rfl, rfl⟩)
    (hn : x.sent = [] := by rfl) : CopyTurn s ci ch c x rest := by
  injection hb with h1 hb
  injection hb with h2 hb
  injection hb with h3 h4
  exact ⟨hc, hl, hq, h1, h2, hf, hs, hn, h3, h4⟩

/-- A copy's turn in its state, and what P says. -/
def Turns (x : Copy) (l : List (Nat × List (BitVec 8))) (P : State → Core → Prop) : Prop :=
  CopyTurn (moving x l) 0 1 (coreCh x) x [] ∧ (moving x l).Inv ∧ P (moving x l) (coreCh x)

/-- A copy of a kind, of one element. -/
def one (k : CopyKind) (ops : BitVec 16) (src dst : Word) : Copy := { aCopy ops src dst with kind := k, prog := 0, total := 1 }

/-- Where the first byte of tile 0 of cluster 0 lies. -/
def tile0 : Nat := windowBase

/-- What stands at a port: nothing, the end of a stream, or a beat. -/
def portState : PortIn → Nat
  | .empty => 0
  | .zeros => 1
  | .beat b _ _ _ => if b.psn then 3 else 2

/-- The core of a copy with a route. -/
def routed (x : Copy) (r : Route) : Core := { coreCh x with routes := (RegFile.fill 4 Route.zero).put 8 r }

/-- CopyElementResults, COPY from CI: no beat, a beat and the byte's place, a beat in hand. -/
theorem witness_copy_from_port :
    (let x := one .copy 0x8000 0 0x30000
     Turns x [] (fun s c => x.sk = 2 ∧ bitAt x.o 11 = false ∧ x.dk ≤ 1 ∧ x.out = [] ∧ x.part = [] ∧ portState (s.portIn c 4) = 0 ∧
       reached ({ x with part := [(7, false)] }.reachDst 0 c s x.prog 1) = (some [0x30000], none, none))) ∧
    (let x := one .copy 0x8000 0 0x30000
     let c := routed x { routeIn .run with outs := [{ cap := 32, items := [some Beat.zero] }] }
     let s := mapped c .a
     CopyTurn s 0 1 c x [] ∧ portState (s.portIn c 4) = 2 ∧
       reached (x.reachDst 0 c (s.takePort 0 8 0) x.prog 1) = (some [0x30000], none, none)) := by
  refine ⟨⟨turn rfl rfl (by decide +kernel), by decide +kernel, by decide +kernel⟩,
    turn rfl rfl (by decide +kernel), by decide +kernel, by decide +kernel⟩

/-- CopyElementResults, COPY to CO: a byte to take, a beat that is formed with no route, and with one that has room. -/
theorem witness_copy_to_port :
    (let x := one .copy 0x2000 0x20000 0
     Turns x [] (fun s c => x.sk = 0 ∧ x.dk = 2 ∧ x.beatReady = false ∧ s.poisoned 0x20000 = false ∧
       reached (x.reachSrc 0 c s x.prog 1) = (some [0x20000], none, none))) ∧
    (let x := { one .copy 0x2000 0x20000 0 with out := List.replicate 256 (7, false) }
     let c := routed x { routeIn .run with links := [{ cap := 32, items := [some Beat.zero] }] }
     Turns x [] (fun s c => x.out.length = 256 ∧ s.routeFrom (s.phys c) (5 * 64 + s.slot c) = none) ∧
     CopyTurn (mapped c .a) 0 1 c x [] ∧ ((mapped c .a).routeFrom 0 0x140).map (fun r => r.2.2.canEmit 1) = some true ∧
       c.coBusy x.f.ch.toNat = false) := by
  refine ⟨⟨turn rfl rfl (by decide +kernel), by decide +kernel, by decide +kernel⟩,
    ⟨turn rfl rfl (by decide +kernel), by decide +kernel, by decide +kernel⟩, turn rfl rfl (by decide +kernel),
    by decide +kernel, by decide +kernel⟩

/-- A descriptor of one dimension of FP32 at VA 0x20000, of an extent. -/
def lineOf (ext : Nat) : BitVec 1024 := BitVec.ofNat 1024 (0x20000 + 2 ^ 72 + 2 ^ 128 * ext)

/-- A TCOPY of one FP32 element of a tensor of an extent, with flags of its second extension word. -/
def tensorCopy (flags ext ty sm : Nat) : Copy :=
  { one .tcopy 0 0 0 with
    ext := [0, 0xFFFFFFC000000000 + BitVec.ofNat 64 flags, 0], desc := lineOf ext, ty := ty, sm := sm
    xw := { Window.zero with base := 16, ty := 9 } }

/-- The places of a window element in the core's tile. -/
def tilePlaces (w : Window) (t : Fmt) : Option (List Nat) :=
  match elemAddrsIn 0 1 0 w t 0 0 with
  | .ok as => some as
  | .error _ => none

/-- CopyElementResults, TCOPY: an element of the tensor and one outside it, for the tile and for CO, with a scale of its own;
out of the tile; a slab that chooses its scale; a beat that is formed. -/
theorem witness_tensor_elements :
    (∀ k : Fin 4, let x := tensorCopy (if k.val = 2 then 2048 else 0) (if k.val = 1 then 0 else 1) 0 (if k.val = 3 then 2 else 0)
      Turns x [(0x20000, [1, 2, 3, 4])] (fun s c => x.prog < x.total ∧ x.dir = false ∧ ¬ (x.sm = 2 ∧ (x.ty = 5 ∨ x.ty = 7)) ∧
        x.tensorVa 0 = (if k.val = 1 then none else some 0x20000) ∧
        reached (reachVa 0 .load (spansOf 0x20000 x.tensorBytes) s x) = (some [0x20000, 0x20001, 0x20002, 0x20003], none, none) ∧
        s.poisoned 0x20000 = false ∧ x.welt = decide (k.val = 2) ∧ x.unit < x.beatCount ∧
        (s.physOf c (x.cluster s c), s.ppc c, s.slot c) = (0, 1, 0) ∧
        tilePlaces x.dw .fp32 = some [tile0, tile0 + 1, tile0 + 2, tile0 + 3] ∧ tilePlaces x.xw .uint8 = some [tile0 + 16])) ∧
    (∀ out : Bool, let x := tensorCopy (2 ^ 33) (if out then 0 else 1) 0 0
      Turns x [] (fun s _ => x.prog < x.total ∧ x.dir = true ∧ x.tensorVa 0 = (if out then none else some 0x20000) ∧
        reached (reachVa 0 .store (spansOf 0x20000 x.tensorBytes) s { x with mixed := true }) =
          (some [0x20000, 0x20001, 0x20002, 0x20003], none, none))) ∧
    (let x := tensorCopy 0 1 5 2
     Turns x [] (fun _ _ => x.prog < x.total ∧ x.dir = false ∧ x.sm = 2 ∧ x.ty = 5 ∧ x.welt = false ∧ x.b 0 * x.b 1 = 1 ∧
       (tilePlaces x.dw (fmtOf 5)).bind (fun as => (tilePlaces x.xw .uint8).map (fun b => as ++ b)) = some [tile0, tile0 + 16])) ∧
    (let x := { tensorCopy 2048 1 0 0 with prog := 1, codes := [(0x3F800000, false)] }
     Turns x [] (fun _ _ => x.total ≤ x.prog ∧ x.made = false ∧ ∀ g, g ∈ x.codes → g.1 < 2 ^ (fmtOf x.ty).bits ∧ g.2 = false)) := by
  refine ⟨fun k => ⟨turn rfl rfl ?_, ?_, ?_⟩, fun out => ⟨turn rfl rfl ?_, ?_, ?_⟩,
    ⟨turn rfl rfl (by decide +kernel), by decide +kernel, by decide +kernel⟩,
    turn rfl rfl (by decide +kernel), by decide +kernel, by decide +kernel⟩
  · revert k; decide +kernel
  · revert k; decide +kernel
  · revert k; decide +kernel
  · revert out; decide +kernel
  · revert out; decide +kernel
  · revert out; decide +kernel

/-- CopyElementResults, SCOPY: an index that is read, its source and destination; a source that faults; an index outside
window space. -/
theorem witness_indexed_elements :
    (let x := { one .scopy 0 0x20000 0x30000 with xw := { Window.zero with ty := 11 } }
     Turns x [] (fun s c => x.prog / x.xw.cols = 0 ∧ x.prog % x.xw.cols = 0 ∧ x.esz = 1 ∧
       tilePlaces x.xw .int32 = some [tile0, tile0 + 1, tile0 + 2, tile0 + 3] ∧ s.poisoned tile0 = false ∧
       reached (x.reachSrc 0 c s 0 1) = (some [0x20000], none, none) ∧
       reached ({ x with mixed := true }.reachDst 0 c s 0 1) = (some [0x30000], none, none))) ∧
    (let x := { one .scopy 0 0x40000000 0x30000 with xw := { Window.zero with ty := 11 } }
     let y := { x with got := [(tile0, 0, false), (tile0 + 1, 0, false), (tile0 + 2, 0, false), (tile0 + 3, 0, false)] }
     Turns y [] (fun s c => reached (y.reachSrc 0 c s 0 1) = (none, some 4, none) ∧
       (List.range 4).all (fun i => y.hasRead (tile0 + i)) = true)) ∧
    (let x := { one .scopy 0 0x20000 0x30000 with xw := { Window.zero with ty := 11, base := 0x3FFFFF0 } }
     Turns x [] (fun _ _ => tilePlaces x.xw .int32 = none)) := by
  refine ⟨⟨turn rfl rfl (by decide +kernel), by decide +kernel, by decide +kernel⟩,
    ⟨turn rfl rfl (by decide +kernel), by decide +kernel, by decide +kernel⟩,
    turn rfl rfl (by decide +kernel), by decide +kernel, by decide +kernel⟩

/-- A stream of one chunk of one stored byte 9, with a RAWLEN of its own. -/
def streamOf (rawLen : Nat) : List (BitVec 8) :=
  streamHeader 1 1 56 ++ leBytes 2 0 ++ leBytes 2 rawLen ++ leBytes 4 1 ++ leBytes 8 0 ++ [9] ++ leBytes 7 0 ++ leBytes 8 32

/-- CopyElementResults, CCOPY.dec: a byte in hand; a stream in the tile whose chunk is sound, and one whose chunk is malformed. -/
theorem witness_decoded_elements :
    (let x := { one .dec 0x4000 0 0x30000 with part := [(7, false)] }
     Turns x [] (fun s c => reached (x.reachDst 0 c s x.prog 1) = (some [0x30000], none, none))) ∧
    (∀ bad : Bool, let x := one .dec 0x4000 0 0x30000
     let st := streamOf (if bad then 0 else 1)
     Turns x [(tile0, st)] (fun s c => x.part = [] ∧ x.sk = 1 ∧
       reached (x.reachSrc 0 c s 0 32) = (some (tabulate 32 (fun i => tile0 + i)), none, none) ∧
       reached (x.reachSrc 0 c s 56 8) = (some (tabulate 8 (fun i => tile0 + 56 + i)), none, none) ∧
       reached (x.reachSrc 0 c s 32 16) = (some (tabulate 16 (fun i => tile0 + 32 + i)), none, none) ∧
       reached (x.reachSrc 0 c s 48 1) = (some [tile0 + 48], none, none) ∧ readBytes s.mem tile0 64 = st ∧
       (List.range 64).all (fun i => !s.poisoned (tile0 + i)) = true ∧ x.cnt.toNat % 2 ^ 32 + x.unit = 0 ∧
       reached (x.reachDst 0 c s x.prog 1) = (some [0x30000], none, none))) ∧
    (∀ bad : Bool, let st := streamOf (if bad then 0 else 1)
      fieldAt st 0 4 = 0x53314B50 ∧ fieldAt st 24 8 = 0 ∧ fieldAt st 4 4 = 1 ∧ fieldAt st 16 8 = 56 ∧
        decodeChunk ((st.drop 32).take 16) [9] = (if bad then none else some [9])) := by
  refine ⟨⟨turn rfl rfl (by decide +kernel), by decide +kernel, by decide +kernel⟩, fun bad => ⟨turn rfl rfl ?_, ?_, ?_⟩,
    by decide +kernel⟩
  · cases bad <;> decide +kernel
  · cases bad <;> decide +kernel
  · cases bad <;> decide +kernel

/-- CopyElementResults, CCOPY.enc: a chunk of one byte, and the index and header after it. -/
theorem witness_encoded_elements :
    (let x := one .enc 0 0x20000 0x30000
     Turns x [] (fun s c => x.taint = false ∧ x.prog < x.total ∧ (encodeChunk 0 [0]).length = 24 ∧
       reached (x.reachSrc 0 c s 0 1) = (some [0x20000], none, none) ∧
       reached ({ x with mixed := true }.reachDst 0 c s 32 24) = (some (tabulate 24 (fun i => 0x30020 + i)), none, none))) ∧
    (let x := { one .enc 0 0x20000 0x30000 with prog := 1, unit := 1, offs := [32, 56] }
     Turns x [] (fun s c => x.total ≤ x.prog ∧ (x.total + 4095) / 4096 ≤ x.offs.length ∧
       reached (x.reachDst 0 c s 56 8) = (some (tabulate 8 (fun i => 0x30038 + i)), none, none) ∧
       reached (x.reachDst 0 c s 0 32) = (some (tabulate 32 (fun i => 0x30000 + i)), none, none))) := by
  refine ⟨⟨turn rfl rfl (by decide +kernel), by decide +kernel, by decide +kernel⟩,
    turn rfl rfl (by decide +kernel), by decide +kernel, by decide +kernel⟩

/-- A COLL of level 1 and two ranks on windows: its KIND, and its last extension word. -/
def collOf (kind : Nat) (key : Word) : Copy :=
  { one .coll (BitVec.ofNat 16 (2 ^ 13 + kind * 2 ^ 11)) 0 0x100 with
    ext := [0x000A000000000000, key], ranks := [0, 1], cnt := 2, n0 := 1, n1 := 1 }

/-- Two cores whose channels 1 hold a COLL each; the second core may have been killed. -/
def ranked (x y : Copy) (killed : Bool) : State := two (coreCh x) { coreCh y with killed := killed } .a

/-- CopyElementResults, COLL: two ranks that agree, for each KIND; two that differ; a rank that was killed. -/
theorem witness_coll_elements :
    (∀ k : Fin 3, let x := collOf k.val 0
     let d := { coreCh x with vcore := 1 }
     CopyTurn (ranked x x false) 0 1 (coreCh x) x [] ∧ CopyTurn (ranked x x false) 1 1 d x [] ∧ x.kind = .coll ∧
       (ranked x x false).collBroken 0 x = false ∧
       ((ranked x x false).collHeads 0 x x.ranks).map (fun l => l.map (fun h => (h.1, h.2.1, h.2.2.collSame x))) =
         some [(0, 1, true), (1, 1, true)] ∧ x.ckind = k.val ∧ x.before = 0 ∧ x.after = 0 ∧ x.ranks.length = 2 ∧ x.sty = 0 ∧
       x.dty = 0 ∧ x.cop = 0 ∧ x.sk = 1 ∧ x.dk = 1 ∧ x.prog < x.total ∧
       reached (x.reachDst 0 (coreCh x) (ranked x x false) 0 4) = (some (tabulate 4 (fun i => tile0 + 0x100 + i)), none, none) ∧
       reached (x.reachSrc 0 (coreCh x) (ranked x x false) 0 4) = (some (tabulate 4 (fun i => tile0 + i)), none, none)) ∧
    (let x := collOf 2 0
     let y := collOf 2 0x100000000
     (ranked x y false).collBroken 0 x = false ∧ x.collSame y = false ∧
       ((ranked x y false).collHeads 0 x x.ranks).isSome = true) ∧
    (ranked (collOf 2 0) (collOf 2 0) true).collBroken 0 (collOf 2 0) = true := by
  refine ⟨fun k => ⟨turn rfl rfl ?_, turn rfl rfl ?_, rfl, ?_⟩, by decide +kernel, by decide +kernel⟩
  · revert k; decide +kernel
  · revert k; decide +kernel
  · revert k; decide +kernel

/-- AccumulatorResults: a MADDA whose destination alone is marked. -/
theorem witness_marked_destination :
    Meets { coreM false false with acc := (RegFile.fill 2 Acc.zero).put 2 { Acc.zero with psn := true } } .m (hdr 1) (fun _ v =>
      (v.c.acc.read 2).psn = true ∧ (v.c.acc.read 1).psn = false ∧ (v.c.acc.read 1).tag = (v.c.acc.read 2).tag ∧
        v.tyCheck (.madda (hdr 1) (fMop 0 0 0)) = none) := meets rfl rfl (by decide)

/-- An accumulator with element (0, 0) alone. -/
def accAt (x : Nat) : Acc := Acc.of false (fun i j => if i = 0 ∧ j = 0 then x else 0)

/-- A core that stands at phase 3 of a MITER that has ended n iterations: X in accumulator 2, W in 1. -/
def coreIter (n divc x : Nat) : Core :=
  { coreM false false with
    acc := (RegFile.fill 2 Acc.zero).put 1 (accAt x)
    its := BitVec.ofNat 64 (2 ^ 63 + 2 * 2 ^ 56 + 1 * 2 ^ 54 + 3 * 2 ^ 52 + divc * 2 ^ 50 + n * 2 ^ 40) }

/-- The pairs of a tile, the first of them apart. -/
theorem pairs_cons : pairs 64 64 = (0, 0) :: ((List.range' 1 63).map (fun j => (0, j)) ++
    (List.range' 1 63).flatMap (fun i => (0 :: List.range' 1 63).map (fun j => (i, j)))) := by
  unfold pairs
  rw [show List.range 64 = 0 :: List.range' 1 63 from by decide]
  rfl

/-- The residual of an iterate with one element that was zero. -/
def residualOf (n divc x : Nat) : FNum :=
  (pairs 64 64).foldl (fun t p =>
    let e := FNum.add .rne (f32 (((coreIter n divc x).acc.read 1).el p.1 p.2)) (f32 (((coreIter n divc x).acc.read 2).el p.1 p.2)).negate
    FNum.add .rne t (e.mul e)) (.zero false)

theorem residual_one (n divc : Nat) : residualOf n divc 0x3F800000 =
    (let e := FNum.add .rne (f32 0x3F800000) (f32 0).negate; .add .rne (.zero false) (e.mul e)) := by
  have hX : ∀ i j, ((coreIter n divc 0x3F800000).acc.read 2).el i j = 0 := fun i j => Acc.el_zero i j
  have hW : ∀ i j, i < 64 → j < 64 → ((coreIter n divc 0x3F800000).acc.read 1).el i j = if i = 0 ∧ j = 0 then 0x3F800000 else 0 := by
    intro i j hi hj
    show (accAt 0x3F800000).el i j = _
    rw [accAt, Acc.el_of _ _ hi hj]
    split <;> rfl
  unfold residualOf
  rw [pairs_cons, List.foldl_cons, foldl_stays]
  · simp only [hX, hW 0 0 (by decide) (by decide)]
    decide +kernel
  · intro p hp
    have : p.1 < 64 ∧ p.2 < 64 ∧ ¬ (p.1 = 0 ∧ p.2 = 0) := by
      simp only [List.mem_append, List.mem_map, List.mem_flatMap, List.mem_cons, List.mem_range'_1] at hp
      obtain ⟨b, hb, rfl⟩ | ⟨a, ha, b, hb, rfl⟩ := hp <;> simp <;> omega
    simp only [hX, hW _ _ this.1 this.2.1, if_neg this.2.2, hW 0 0 (by decide) (by decide)]
    decide +kernel

/-- MiterResults, the resumed part: an iterate that is not finite; a run at the last iteration of its cap; one whose residual
grows for the second time in a row. -/
theorem witness_miter_resumed :
    Meets (coreIter 0 0 0x7F800000) .m (hdr 1) (fun s v =>
      let f := fMop 0 0 1
      s.at? = some v ∧ v.st.busy = false ∧ v.c.trapped = none ∧ v.budget = 0 ∧ v.tyCheck (.miter (hdr 1) f) = none ∧
      f.acd ≠ f.acs ∧ v.c.its.getLsbD 63 = true ∧ v.c.its.toNat / 2 ^ 61 % 4 = 0 ∧ v.c.its.getLsbD 58 = false ∧
      v.c.its.toNat / 2 ^ 52 % 4 = 3 ∧ v.c.its.toNat / 2 ^ 40 % 256 + 1 = 1 ∧ v.c.its.extractLsb' 56 2 = f.acd ∧
      v.c.its.extractLsb' 54 2 = f.acs ∧ miterAgain f v = true) ∧
    (f32 ((accAt 0x7F800000).el 0 0)).notFinite = true ∧
    Meets (coreIter 0 0 0x3F800000) .m (hdr 1) (fun _ v =>
      v.c.its.toNat / 2 ^ 40 % 256 + 1 = (fMop 0 0 1).ops.toNat % 256 ∧ v.c.flagFree 0 = true ∧ v.st.rep .m = none ∧
        miterAgain (fMop 0 0 1) v = true) ∧
    Meets (coreIter 1 1 0x3F800000) .m (hdr 1) (fun _ v =>
      (v.c.its.toNat / 2 ^ 50 % 4 = 1 ∧ 2 ≤ v.c.its.toNat / 2 ^ 40 % 256 + 1 ∧ v.c.its.toNat / 2 ^ 40 % 256 + 1 ≤ 8 ∧
        miterAgain (fMop 0 0 8) v = true) ∧
      let r := cvt .fp32 .rne false (residualOf 1 1 0x3F800000).sqrt
      (f32 r).notFinite = false ∧ (f32 r).cmp (f32 (v.c.k.at' 14).toNat) = .gt ∧
        (f32 r).cmp ((f32 (v.c.k.at' 15).toNat).mul (f32 (v.c.its.toNat % 2 ^ 32))) = .gt) := by
  refine ⟨meets rfl rfl ⟨rfl, by decide +kernel⟩,
    by rw [accAt, Acc.el_of _ _ (by decide) (by decide)]; decide +kernel, meets rfl rfl (by decide +kernel), meets rfl rfl ⟨by decide +kernel, ?_⟩⟩
  rw [residual_one]
  decide +kernel

/-- StageResults: a stage that no word configures; a slot to release while a RED of the core is on its way. -/
theorem witness_stage_edges :
    Meets (opsA 3 0) .a (hdr 0) (fun _ v => (v.c.stages.at' 3).word = none ∧ v.foreign 5 = false) ∧
    (∀ full : Bool, let c := coreStage 3 { seq := 3, pct := if full then 1 else 0, cct := 0 }
      Ready { stateOf c .a with reqs := [redOf true] } (hdr 0) (atOf c .a) ∧
        (redOf true).kind = .red ∧ (c.task, c.vcore) ∈ (redOf true).cores ∧
        (((c.stages.at' 3).slots.at' (3 % 2)).pct = 1 ↔ full = true)) := by
  refine ⟨meets rfl rfl (by decide), fun full => ⟨⟨rfl, ?_, rfl, rfl⟩, rfl, ?_, ?_⟩⟩
  · cases full <;> rfl
  · cases full <;> decide
  · cases full <;> decide

/-- ControlTransferResults: a strand that is not the reader and has taken its part, at a full slot; a full return stack and
one with room. -/
theorem witness_jump_taken :
    Meets { coreSt st0 with jump := some 8, jumpTaken := 2 } .m (hdr 3) (fun s v =>
      v.e ≠ (if fKz.sa ≠ 0 ∧ v.c.sown.getLsbD fKz.sa.toNat = true then Eng.v else Eng.a) ∧
        v.c.jumpTaken &&& (1#3 <<< v.e.tag) ≠ 0 ∧ v.st.ret.length < 16 ∧ (s.readS v fKz.sa).toNat % 8 = 0) ∧
    Meets (coreSt { st0 with ret := List.replicate 16 8 }) .a (hdr 3) (fun _ v => 16 ≤ v.st.ret.length) :=
  ⟨meets rfl rfl (by decide), meets rfl rfl (by decide)⟩

/-- StateRegisterResults: an M strand at work, for values that mprog and its take. -/
theorem witness_mprog_waits : Meets { opsA 0x8000000000000000 0 with strandM := { st0 with busy := true } } .a (hdr 0) (fun s v =>
    v.c.strandM.busy = true ∧ s.readS v 6 &&& 0x3FFFFFFC3FFFE000 = 0 ∧ s.readS v 6 &&& 0x000300FF00000000 = 0) :=
  meets rfl rfl (by decide)

/-- ScalarAccessResults, LDTD: two parts left and one, of a descriptor that is sound and of one that is not. -/
theorem witness_descriptor_parts : ∀ last ok : Bool,
    let bs := leBytes 128 (if ok then 2 ^ 64 * 2 ^ 8 + 2 ^ 128 * 5 else 0)
    let part := fun (q : Nat) => (List.range 8).map (fun i => (8 * q + i, 0x20000 + 8 * q + i, (0 : BitVec 8)))
    let x : Split := { va := 0x20000, ordered := true, todo := if last then [part 15] else [part 14, part 15]
                       got := (List.range (if last then 120 else 112)).map (fun i => (i, bs.getD i 0)) }
    let st := { st0 with held := some [0x0080000000000000], busy := true, wait := .midway, rsn := 1 }
    let c := { coreWith [(6, 0x20000)] with strandA := st, split := some x }
    let s := (stateOf c .a).storeBytes 0x20000 bs
    s.at? = some (atOf c .a) ∧ x.todo ≠ [] ∧ st.rep .a = none ∧ (s.readS (atOf c .a) 6).toNat % 8 = 0 ∧
      x.todo.all (fun p => p.all (fun b => !s.poisoned b.2.1)) = true ∧ (last = true ↔ x.todo.length = 1) ∧
      descOk (leNat bs) = ok := by
  intro last ok
  cases last <;> cases ok <;> exact ⟨rfl, by decide +kernel, rfl, by decide +kernel, by decide +kernel, by decide, by decide +kernel⟩

/-- HintAndExitResults and BarrierReleaseResults: news of each kind at level 4 of a job, whose member stands in a SYNC. -/
theorem witness_barrier_news :
    let c := { coreWith [] with
      dmNext := (coreWith []).dmNext.put 2 (some 5)
      bars := RegFile.fill 3 { Barrier.zero with byA := 1, byM := 1, byV := 1, made := 1, sync := true, phase := 1, openClk := 0 } }
    let s := { stateOf c .a with clk := 100 }
    let t := { s with fw := { s.fw with tasks := [{ placedTask 0 with launch := leBytes 44 0 ++ [3] }] } }
    let n : BarrierNews := { arrived := true, sync := true, budget := 2, unfinished := true, broken := false }
    t.needsPeers c 4 = true ∧ t.canRelease 4 [c] = true ∧ n.arrived = true ∧ n.broken = false ∧ (c.bars.at' 4).phase ≠ 0 ∧
      n.budget ≠ 0 ∧ (c.bars.at' 4).openClk + 16 * n.budget < t.clk ∧ n.unfinished = true ∧ (c.dmNext.at' (4 - 2)).isSome = true ∧
      c.trapped = none ∧ c.gone = false ∧ ({ n with broken := true }).broken = true ∧ phaseLimit [c] 4 = none := by
  decide +kernel

/-- PagingResults: a task that saves, one that has aborted, one that stops, beside a core that its COW fault froze. -/
theorem witness_cow_stages : ∀ g : TaskStage, g ∈ [.frozen none, .aborted, .stopping] →
    let s := mapped (coreCow 0x20000) .a
    let t := { s with fw := { s.fw with tasks := [{ placedTask 0 with stage := g }] } }
    t.core? 0 = some (coreCow 0x20000) ∧ t.stageOf (coreCow 0x20000) = some g ∧
      ((t.stageOf (coreCow 0x20000)).any TaskStage.saving = true ↔ g = .frozen none) := by
  intro g h
  simp only [List.mem_cons, List.not_mem_nil, or_false] at h
  obtain rfl | rfl | rfl := h <;> exact ⟨rfl, rfl, by decide⟩

/-- PortResults: slots of two beats, of which one has passed; a port of a core that is gone; a route to VI that is done, and one
that is not. -/
theorem witness_wide_slots :
    let word : BitVec 64 := 0x0000000020010102
    let at' := fun (pct : Nat) => { coreStage 0 { seq := 3, pct := pct, cct := 0 } with
      stages := RegFile.tab 3 (fun _ => ({ word := some word, slots := RegFile.tab 4 (fun m => { seq := BitVec.ofNat 64 (m + 2), pct := pct, cct := 0 }) } : Stage)) }
    let full := (at' 1).stages.at' 3
    let free := (at' 0).stages.at' 3
    let r := { routeIn .run with strips := [], links := [] }
    let vo := { r with src := 0xC0, srcSeq := 3, sstg := 3, srcPos := 1 }
    let vi := { r with dkind := 2, dstg := 3, outs := [{ cap := 32, items := [some Beat.zero, some Beat.zero] }], dstSeq := [3], dstPos := [0] }
    slotBeats word = 2 ∧ (∃ a, full.acquire 3 true = .ok a) ∧ (full.relR 3).isSome = true ∧ vo.srcPos < slotBeats word ∧
      vo.canEmit 1 = true ∧ (∃ a, free.acquire 3 false = .ok a) ∧ (free.relW 3).isSome = true ∧ full.acquire 3 false = .fault ∧
      (vi.outs.getD 0 Link.empty).items = [Beat.zero, Beat.zero].map some ++ [] ∧ vi.dstPos.getD 0 0 < slotBeats word ∧
    (let done := { vi with mode := .drain, outs := [{ cap := 32, items := [none] }] }
     let s := stateOf (coreRoute done) .a
     let gone := stateOf { coreRoute vi with exited := true } .a
     done.dkind < 6 ∧ (∀ l, l ∈ done.outs → l.head? = some none) ∧ (∀ p, p ∈ done.dstPos → p = 0) ∧
       ((s.routesIn 0).all (fun x => x.2.2.dkind ≥ 6 || (List.range 1).all (fun k => !s.slotGone 0 (x.2.2.dests.getD k 0)))) = true ∧
       gone.slotGone 0 (vi.dests.getD 0 0) = true) := by
  refine ⟨by decide, ⟨512, rfl⟩, by decide, by decide, by decide, ⟨512, rfl⟩, by decide, rfl, rfl, by decide, ?_⟩
  exact ⟨by decide, by decide, by decide, by decide +kernel, by decide +kernel⟩

/-- StripResults: an end mark on a clk that the duty of its die withholds, and on one that it gives. -/
theorem witness_withheld :
    let at' := fun (clk : Nat) => { striped 0x10000000 [none] with
      clk := clk, dies := State.reset.dies.put 0 { State.reset.dies.at' 0 with duty := 16 } }
    ((at' 15).dies.at' 0).duty > (at' 15).clk % 64 ∧ ((at' 80).dies.at' 0).duty ≤ (at' 80).clk % 64 ∧
      ((at' 80).stripNow.map (fun x => (x.r.links.getD x.k Link.empty).head?)) = some (some none) := by decide +kernel

/-- HostLinkResults: writes of each kind at the ends of their ranges; a queue whose mirror holds a record. -/
theorem witness_bar :
    let q := { queueOf (some 0) 0 0 with mirror := leBytes 64 7 }
    let s := queued q [] 2
    s.Inv ∧ s.getQueue 5 = some q ∧ q.mirror.length = 64 ∧ s.getQueue 6 = none ∧ s.mgmt.bell = none ∧
      leNat (leBytes 8 1) = s.mgmt.belldone + 1 ∧ (leBytes 8 1).length = 8 ∧ leNat (leBytes 8 2) ≠ s.mgmt.belldone + 1 ∧
      0x10410000 + 512 ≤ 0x10418100 ∧ 0x0FFFF000 % 0x1000 = 0 := by decide +kernel

set_option maxRecDepth 4000 in
/-- PreemptionResults: an image that is written. -/
theorem witness_writes_image : ((mapped (coreWith []) .a).writeImage (emptyTask (.frozen none))).2 = none := by decide +kernel

/-- PreemptionResults: a checkpoint of a task that may be neither saved nor killed, with a core that has frozen at a YIELD. -/
theorem witness_checkpoint_refused :
    let s := atStage (.decided none) 0 0 (leBytes 40 0 ++ [0])
    let t := { s with cores := [{ coreWith [] with freeze := true }] }
    let x := s.fw.tasks.headD (placedTask 9)
    t.ckptOk x = false ∧ x.killOk = false ∧ (t.cores.all (fun c => c.task == x.id && c.freeze)) = true := by decide +kernel

/-- TrapActionResults: a trapped core with work of its own on its way. -/
theorem witness_busy_core :
    let c := trappedOne none false false
    State.coreBusy { stateOf c .a with reqs := [redOf true] } c = true ∧ (c.freeze = true ∨ c.trapped ≠ none) := by
  decide +kernel

/-- MailboxControlResults, QRESET: an idle queue, one whose status write waits, and one whose task runs, with nothing and with a
RED on its way to a home; the command when it has killed the task. -/
theorem witness_qreset : ∀ waits : Bool,
    let q := { queueOf (some 0) 1 1 with stWait := if waits then some 0x50000 else none }
    let s := queued q [] 2
    let run := fun (x : Task) => { s with fw := { s.fw with tasks := [x], selected := [] } }
    let x := { placedTask 0 with qid := 5 }
    s.getQueue 5 = some q ∧ q.slot.isSome = true ∧ s.selectedOf 5 = false ∧ s.mgmt.killing = none ∧ (q.stWait = none ↔ waits = false) ∧
      (run x).fw.tasks = [x] ∧ x.stage = .running ∧ (s.reqs = [] ∧ s.lists = []) ∧
      (redOf true).cores.any (fun k => k.1 == x.id) = true ∧
      ({ s.mgmt with killing := some [x.id] }).killing = some [0] := by decide +kernel

/-- MailboxControlResults, QRESET: who owes a home, and who does not. -/
theorem witness_owes :
    State.Owes { stateOf (coreWith []) .a with reqs := [redOf true] } (placedTask 0) ∧
      ¬ State.Owes (stateOf (coreWith []) .a) (placedTask 0) :=
  ⟨.inl ⟨redOf true, (0, 0), by decide, by decide, rfl⟩, by
    intro h
    obtain ⟨r, k, hr, -⟩ | ⟨r, hr, -⟩ := h <;> exact absurd hr (List.not_mem_nil)⟩

/-- ProgressMonitorResults: a full link whose spill area has room for its growth. -/
theorem witness_spill_room :
    let s := stateOf (coreRoute { routeIn .run with links := [fullOne] }) .a
    let t := { s with clk := 4096, fw := { s.fw with tasks := [{ placedTask 0 with set := { Context.zero with splim := 64 } }] } }
    t.fullLink 0 0 = some (0, 8, 0, 32) ∧ t.spilled 0 < (t.limitsOf 0 0).splim ∧
      t.stillSince 0 0 + (t.limitsOf 0 0).wdog ≤ t.clk := by decide +kernel

/-- ModuleResults: duties that a module over its power lowers, dies that are hot, a period that ends and one whose record stands. -/
theorem witness_power :
    let s := { State.reset with clk := 2 ^ 30, mgmt := { Mgmt.zero with hot := 3, overClk := 1, powered := true } }
    let duties := List.replicate 8 16
    s.Inv ∧ s.clk % 4096 = 0 ∧ duties.length = 8 ∧ (∀ d, d ∈ duties → 16 ≤ d ∧ d ≤ 64) ∧ duties.getD 0 64 < (s.dies.at' 0).duty ∧
      s.mgmt.hot.testBit 1 = true ∧ s.mgmt.hot.testBit 2 = false ∧ s.mgmt.overClk + 2 ^ 20 ≤ s.clk + 1 ∧
      (∀ k, k < 8 → min (duties.getD k 64) (min (s.dies.at' k).duty (s.dies.at' k).duty2) ≤ (s.dies.at' k).duty) ∧
      s.clk % 2 ^ 30 = 0 ∧ s.mgmt.telno < s.clk / 2 ^ 30 ∧ ¬ (({ s.mgmt with telno := 1 }).telno < s.clk / 2 ^ 30) ∧
      16 < (s.dies.at' 0).duty ∧ 16 ≤ (s.dies.at' 0).duty2 ∧
      (List.replicate 8 16).all (fun d => d == 16) = true := by decide +kernel

/-- ScalarAccessResults, LDS.w and STS.w: a window of another type, and one of the type with an element inside and outside it. -/
theorem witness_window_types : Meets { coreWith [] with w := RegFile.fill 4 { Window.zero with ty := 1 } } .a (hdr 0) (fun s v =>
    v.winTy (s.readW v 1) false = .ok 1 ∧ 1 ≠ 0 ∧ 0 < (s.readW v 1).rows ∧ (s.readW v 1).rows ≤ 1 ∧ (s.readW v 1).cols ≤ 1 ∧
      s.checkRead v.c (s.readW v 1) .bf16 0 0 = none ∧ s.checkWrite v.c (s.readW v 1) .bf16 0 0 = none) :=
  meets rfl rfl ⟨rfl, by decide⟩

end Sys2Proof.Tests
end

section
/-! PROOFS. The divisions of R117 and the predicate instructions of R143: what each shared operation answers, then the
statements. -/
namespace Sys2Proof.Machine

/-! Scalar instructions and the divisions. -/

/-- A three-register scalar instruction completes with its operation's value where its strand may write the destination. -/
theorem scalar3_completes {s : State} {h : Hdr} {v : At} {f : FmtSR} {lat : Nat} {op : Word → Word → Word} {i : Instr}
    (hr : Ready s h v) (hs : v.foreign f.sd = false) (hi : exec i s = scalar3 h f lat op s) {x : Word}
    (hx : op (s.readS v f.sa) (s.readS v f.sb) = x) : CompletesS i s h v f.sd lat x :=
  hx ▸ scalarOp_completes hr hs hi

theorem divs_zero (a : Word) : divs a 0 = 0xFFFFFFFFFFFFFFFF := by simp [divs]

theorem divu_zero (a : Word) : divu a 0 = 0xFFFFFFFFFFFFFFFF := by simp [divu]

theorem rems_zero (a : Word) : rems a 0 = a := by simp [rems]

theorem remu_zero (a : Word) : remu a 0 = a := by simp [remu]

theorem divs_of_ne_zero {b : Word} (a : Word) (hb : b ≠ 0) : divs a b = BitVec.ofInt 64 (a.toInt.tdiv b.toInt) := by
  simp only [divs, beq_iff_eq, if_neg hb, sg]

theorem rems_of_ne_zero {b : Word} (a : Word) (hb : b ≠ 0) : rems a b = BitVec.ofInt 64 (a.toInt.tmod b.toInt) := by
  simp only [rems, beq_iff_eq, if_neg hb, sg]

theorem divu_of_ne_zero {b : Word} (a : Word) (hb : b ≠ 0) : divu a b = BitVec.ofNat 64 (a.toNat / b.toNat) := by
  simp only [divu, beq_iff_eq, if_neg hb, ← BitVec.toNat_udiv, BitVec.ofNat_toNat, BitVec.setWidth_eq]

theorem remu_of_ne_zero {b : Word} (a : Word) (hb : b ≠ 0) : remu a b = BitVec.ofNat 64 (a.toNat % b.toNat) := by
  simp only [remu, beq_iff_eq, if_neg hb, ← BitVec.toNat_umod, BitVec.ofNat_toNat, BitVec.setWidth_eq]

/-- The one overflow: the quotient 2^63 wraps to the dividend. -/
theorem divs_overflow {a b : Word} (ha : a.toInt = -2 ^ 63) (hb : b.toInt = -1) : divs a b = a := by
  have hb0 : b ≠ 0 := by rintro rfl; simp at hb
  have hwrap : BitVec.ofInt 64 ((-2 ^ 63 : Int).tdiv (-1)) = BitVec.ofInt 64 (-2 ^ 63) := by decide
  rw [divs_of_ne_zero a hb0, ha, hb, hwrap, ← ha, BitVec.ofInt_toInt]

theorem rems_overflow {a b : Word} (hb : b.toInt = -1) : rems a b = 0 := by
  have hb0 : b ≠ 0 := by rintro rfl; simp at hb
  rw [rems_of_ne_zero a hb0, hb, Int.tmod_neg, Int.tmod_one]
  rfl

/-- Settles O3: each division is its operation on words, whose values R117 gives case by case. -/
theorem divisionResults : Obligations.DivisionResults := by
  intro s v h f hr hs a b
  have div {x} (hx : divs a b = x) := scalar3_completes (i := .div h f) hr hs rfl hx
  have divu {x} (hx : divu a b = x) := scalar3_completes (i := .divu h f) hr hs rfl hx
  have rem {x} (hx : rems a b = x) := scalar3_completes (i := .rem h f) hr hs rfl hx
  have remu {x} (hx : remu a b = x) := scalar3_completes (i := .remu h f) hr hs rfl hx
  refine ⟨fun hb => ?_, fun ha hb => ⟨div (divs_overflow ha hb), rem (rems_overflow hb)⟩, fun hb => ?_⟩
  · exact ⟨div (hb ▸ divs_zero a), divu (hb ▸ divu_zero a), rem (hb ▸ rems_zero a), remu (hb ▸ remu_zero a)⟩
  · exact ⟨div (divs_of_ne_zero a hb), rem (rems_of_ne_zero a hb), divu (divu_of_ne_zero a hb), remu (remu_of_ne_zero a hb)⟩

/-! Predicate writes and the predicate instructions. -/

/-- A predicate write as an effect on the core. -/
theorem putP_spec {s : State} {v : At} (hv : s.at? = some v) (pd : BitVec 3) (lanes x : BitVec 64) (lat : Nat) :
    ∃ c, OnlyCore s (v.putP s pd lanes x lat) v.ci c ∧
      (∀ r, r ≠ pd → c.p.read r = v.c.p.read r) ∧
      (∀ i, lanes.getLsbD i = false → (c.p.read pd).getLsbD i = (v.c.p.read pd).getLsbD i) ∧
      (v.c.flight? (s.iclk v.c) (.p pd) = none → ∀ i, lanes.getLsbD i = true → (c.p.read pd).getLsbD i = x.getLsbD i) ∧
      c.flights = v.flying s (.p pd) lanes lat .none ++ v.c.flights ∧
      { c with p := v.c.p, flights := v.c.flights } = v.c := by
  obtain ⟨-, hc, -⟩ := State.at?_some hv
  unfold At.putP
  refine ⟨_, OnlyCore.of_updCore _ hc, ?_, ?_, ?_, ?_, ?_⟩
  · intro r hr
    show (At.fly v s _ _ _ _ _).p.read r = _
    rw [At.fly_p]
    exact RegFile.read_write_ne _ _ hr
  · intro i hl
    show ((At.fly v s _ _ _ _ _).p.read pd).getLsbD i = _
    rw [At.fly_p, RegFile.read_write_self]
    by_cases hi : i < 64
    · simp only [BitVec.getLsbD_or, BitVec.getLsbD_and, BitVec.getLsbD_not, hl, hi, Bool.false_and, Bool.and_false,
        Bool.not_false, Bool.and_true, Bool.or_false, decide_true]
    · rw [BitVec.getLsbD_of_ge _ _ (by omega), BitVec.getLsbD_of_ge _ _ (by omega)]
  · intro hf i hl
    show ((At.fly v s _ _ _ _ _).p.read pd).getLsbD i = _
    have hall : ∀ k, s.laterWins v (.p pd) k = true := fun _ => laterWins_of_none hf
    have hmask : BitVec.ofNat 64 (leNat (tabulate 8 (fun _ =>
        BitVec.ofNat 8 ((List.range 8).foldl (fun a i => a + 2 ^ i) 0)))) = BitVec.allOnes 64 := by decide
    rw [At.fly_p, RegFile.read_write_self]
    simp only [hall, if_true, hmask, BitVec.and_allOnes, BitVec.getLsbD_or, BitVec.getLsbD_and, BitVec.getLsbD_not, hl,
      Bool.not_true, Bool.and_false, Bool.and_true, Bool.false_or]
  · show (At.fly v s _ _ _ _ _).flights = _
    rw [At.fly_flights]
  · show { At.fly v s _ _ _ _ _ with p := v.c.p, flights := v.c.flights } = v.c
    rw [At.fly_undo]

/-- Every instruction whose body is one predicate write completes. -/
theorem putP_completes {s : State} {h : Hdr} {len : Nat} {early : At → State → Option TrapInfo} {again : At → Bool}
    {body : At → State → Res} {v : At} {pd : BitVec 3} {lanes x : BitVec 64} {lat : Nat} {i : Instr} (hr : Ready s h v)
    (hi : exec i s = s.issueWord h len early again body) (he : early v s = none) (ha : again v = false)
    (hb : body v s = .done (v.putP s pd lanes x lat) lat) : CompletesP i s h len v pd lanes x lat := by
  obtain ⟨-, hc, hst⟩ := State.at?_some hr.actor
  obtain ⟨c, hu, hkeeps, hmask, hval, hfl, hk⟩ := putP_spec hr.actor pd lanes x lat
  have e1 : c.strand v.e = v.st := by
    rw [hst, ← hk]; cases v.e <;> rfl
  have e2 : c.tokens = v.c.tokens := by rw [← hk]
  have e3 : c.vnext = v.c.vnext := by rw [← hk]
  refine completes_of_done _ hr hi he ha hb hu hfl e1 e2 e3 (fun d due hd hp hdue => ?_)
  have ep : d.p = c.p :=
    (by cases v.e <;> rfl : d.p = (c.undo v.e d).p).trans ((congrArg Core.p hd :) : _ = (c.withFlights _).p)
  have ef : d.flights = landed due (v.flying s (.p pd) lanes lat .none) ++ v.c.flights :=
    (by cases v.e <;> rfl : d.flights = (c.undo v.e d).flights).trans (congrArg Core.flights hd)
  have eu : { v.c.undoV v.e d with p := v.c.p } = { c.undo v.e d with p := v.c.p, flights := v.c.flights } := by
    unfold Core.undoV Core.undo
    rw [e1, hst, e2, e3]
  refine ⟨⟨?_, ?_, ?_, At.flies_of ef hp hdue⟩, ?_⟩
  · rw [ep]; exact hkeeps
  · rw [ep]; exact fun i _ => hmask i
  · rw [ep]; exact fun i _ hl hf => hval hf i hl
  · rw [eu, hd]; exact hk

/-- A predicate instruction writes all 64 bits of pd. -/
theorem predOp_completes {s : State} {h : Hdr} {len : Nat} {v : At} {f : FmtP} {g : At → State → BitVec 64} {i : Instr}
    (hr : Ready s h v) (hi : exec i s = predOp h f len g s) {x : BitVec 64} (hx : g v s = x) :
    CompletesP i s h len v f.pd (BitVec.allOnes 64) x 1 :=
  hx ▸ putP_completes hr hi rfl rfl rfl

/-- The number of one bits among the low w counts the places of these bits. -/
theorem popCount_eq_length_filter (w x : Nat) : popCount w x = ((List.range w).filter (fun i => x.testBit i)).length := by
  induction w generalizing x with
  | zero => rfl
  | succ w ih =>
    have hrest : (((List.range w).map Nat.succ).filter (fun i => x.testBit i)).length = popCount w (x / 2) := by
      rw [List.filter_map, List.length_map, ih]
      simp only [Function.comp_def, Nat.succ_eq_add_one, Nat.testBit_succ]
    have hx : x % 2 = 0 ∨ x % 2 = 1 := by omega
    rw [List.range_succ_eq_map, List.filter_cons, popCount, Nat.testBit_zero]
    rcases hx with hx | hx
    · simp [hx, hrest]
    · simp [hx, hrest]; omega

/-- Settles O4: five predicate writes of all lanes, and a scalar write of the number of one bits. -/
theorem predicateResults : Obligations.PredicateResults := by
  intro s v h f e1 hr a b all
  refine ⟨predOp_completes hr rfl rfl, predOp_completes hr rfl rfl, predOp_completes hr rfl rfl,
    predOp_completes hr rfl rfl, predOp_completes hr rfl rfl, fun hs => ?_⟩
  have hcount : popCount 64 a.toNat = ((List.range 64).filter (fun i => a.getLsbD i)).length :=
    popCount_eq_length_filter 64 a.toNat
  have hdone := scalarOp_completes (i := .pcnt h f) hr hs rfl
  exact hcount ▸ hdone

end Sys2Proof.Machine
end

section
/-! PROOFS. Lanes as elements, and the integer, bitwise and shift instructions of R137 and R138. -/
namespace Sys2Proof.Machine

/-! A lane built from its elements gives them back. -/

/-- The number whose n digits of w bits are the values of a function. -/
def packed (w : Nat) (d : Nat → Nat) (n : Nat) : Nat :=
  (List.range n).foldl (fun a k => a + d k % 2 ^ w * 2 ^ (w * k)) 0

theorem packed_succ (w : Nat) (d : Nat → Nat) (n : Nat) :
    packed w d (n + 1) = packed w d n + d n % 2 ^ w * 2 ^ (w * n) := by
  simp [packed, List.range_succ]

theorem packed_lt (w : Nat) (d : Nat → Nat) (n : Nat) : packed w d n < 2 ^ (w * n) := by
  induction n with
  | zero => simp [packed]
  | succ n ih =>
    have hd : d n % 2 ^ w + 1 ≤ 2 ^ w := Nat.mod_lt _ (Nat.two_pow_pos w)
    calc packed w d (n + 1) < (d n % 2 ^ w + 1) * 2 ^ (w * n) := by rw [packed_succ, Nat.succ_mul]; omega
      _ ≤ 2 ^ w * 2 ^ (w * n) := Nat.mul_le_mul_right _ hd
      _ = 2 ^ (w * (n + 1)) := by rw [Nat.mul_succ, Nat.pow_add, Nat.mul_comm]

theorem packed_digit (w : Nat) (d : Nat → Nat) {k n : Nat} (h : k < n) :
    packed w d n / 2 ^ (w * k) % 2 ^ w = d k % 2 ^ w := by
  induction n with
  | zero => omega
  | succ n ih =>
    rw [packed_succ]
    obtain rfl | hk := Nat.eq_or_lt_of_le (Nat.lt_succ_iff.mp h)
    · rw [Nat.add_mul_div_right _ _ (Nat.two_pow_pos _), Nat.div_eq_of_lt (packed_lt w d k), Nat.zero_add, Nat.mod_mod]
    · obtain ⟨m, rfl⟩ : ∃ m, n = k + (m + 1) := ⟨n - k - 1, by omega⟩
      have hpow : 2 ^ (w * (k + (m + 1))) = 2 ^ w * 2 ^ (w * m) * 2 ^ (w * k) := by
        rw [← Nat.pow_add, ← Nat.pow_add, Nat.mul_add, Nat.mul_succ]; congr 1; omega
      rw [hpow, ← Nat.mul_assoc, Nat.add_mul_div_right _ _ (Nat.two_pow_pos _), Nat.mul_left_comm,
        Nat.add_mul_mod_self_left]
      exact ih hk

/-- An element of a lane built from elements (R123). -/
theorem bits_laneOf {w : Nat} (hw : w ∣ 32) (f : Nat → Nat) (j : Nat) :
    bits (laneOf w f (j * w / 32)).toNat (j * w % 32 + w - 1) (j * w % 32) = f j % 2 ^ w := by
  obtain ⟨m, hm⟩ := hw
  have hw0 : 0 < w := Nat.pos_of_ne_zero (by rintro rfl; simp at hm)
  have hm0 : 0 < m := Nat.pos_of_ne_zero (by rintro rfl; simp at hm)
  have hdiv : 32 / w = m := by rw [hm, Nat.mul_div_cancel_left _ hw0]
  have hlane : j * w / 32 = j / m := by rw [hm, Nat.mul_comm w m, Nat.mul_div_mul_right _ _ hw0]
  have hplace : j * w % 32 = w * (j % m) := by rw [hm, Nat.mul_comm w m, Nat.mul_mod_mul_right, Nat.mul_comm]
  have hval : (laneOf w f (j / m)).toNat = packed w (fun k => f (j / m * m + k)) m := by
    have hlt : packed w (fun k => f (j / m * m + k)) m < 2 ^ 32 := by
      have := packed_lt w (fun k => f (j / m * m + k)) m
      rwa [← hm] at this
    rw [laneOf, hdiv, BitVec.toNat_ofNat]
    exact Nat.mod_eq_of_lt hlt
  have hwidth : w * (j % m) + w - 1 + 1 - w * (j % m) = w := by omega
  rw [hlane, hplace, hval, bits, hwidth, packed_digit w _ (Nat.mod_lt j hm0), Nat.div_add_mod']

theorem elem_lane_lt {w j : Nat} (h : j < 2048 / w) : j * w / 32 < 64 := by
  have := Nat.div_mul_le_self 2048 w
  have hw : 0 < w := Nat.pos_of_ne_zero (by rintro rfl; simp at h)
  have : j * w < 2048 / w * w := Nat.mul_lt_mul_of_pos_right h hw
  omega

theorem elemOf_lt {w : Nat} (hw : 0 < w) (x : RegFile 6 (BitVec 32)) (j : Nat) : elemOf w x j < 2 ^ w := by
  have hwidth : j * w % 32 + w - 1 + 1 - j * w % 32 = w := by omega
  rw [elemOf, bits, hwidth]
  exact Nat.mod_lt _ (Nat.two_pow_pos w)

/-! Vector instructions that write vd in its active lanes. -/

theorem State.active_eq (s : State) (v : At) (f : FmtV) :
    s.active v f = if f.pneg = 1 then ~~~(s.readP v f.pred) else s.readP v f.pred := by
  simp [State.active]

/-- An instruction on the elements of va and vb completes with its operation's values. -/
theorem vecBin_completes {s : State} {h : Hdr} {v : At} {f : FmtV} {lat ty w : Nat} {g : Nat → Nat → Nat → Nat}
    {i : Instr} (hr : Ready s h v) (hi : exec i s = vecBin i h f lat g s) (hty : v.ty f.ty.toNat = ty)
    (hw : (fmtOf ty).bits = w) (hdvd : w ∣ 32) {r : Nat → Nat}
    (hg : ∀ j, g ty (elemOf w (s.readV v f.va) j) (elemOf w (s.readV v f.vb) j) = r j) :
    CompletesV i s h v f.vd (s.active v f) w lat r := by
  subst hty hw
  refine vecOp_completes hr hi (fun j _ => ?_) (fun j => elem_lane_lt)
  rw [← hg]
  exact bits_laneOf hdvd _ j

/-- An instruction on whole lanes completes with its operation's lanes. -/
theorem vecLanes_completes {s : State} {h : Hdr} {v : At} {f : FmtV} {lat : Nat} {F : At → State → Nat → Nat → BitVec 32}
    {i : Instr} (hr : Ready s h v) (hi : exec i s = vecOp i h f lat F s) {r : Nat → Nat}
    (hF : ∀ k, (F v s (v.ty f.ty.toNat) k).toNat = r k) : CompletesV i s h v f.vd (s.active v f) 32 lat r := by
  refine vecOp_completes hr hi (fun j _ => ?_) (fun j => elem_lane_lt)
  have hplace : j * 32 % 32 = 0 := by omega
  have hlane : j * 32 / 32 = j := by omega
  simp [hplace, hlane, bits, hF]

/-- A bitwise instruction completes with its operation's lanes. -/
theorem laneOp_completes {s : State} {h : Hdr} {v : At} {f : FmtV} {g : BitVec 32 → BitVec 32 → BitVec 32} {i : Instr}
    (hr : Ready s h v) (hi : exec i s = laneOp i h f g s) :
    CompletesV i s h v f.vd (s.active v f) 32 2
      (fun k => (g ((s.readV v f.va).at' k) ((s.readV v f.vb).at' k)).toNat) :=
  vecLanes_completes hr hi (fun _ => rfl)

/-! Integer elements. -/

/-- A code of w bits read as a two's-complement number. -/
theorem toSigned_of_lt {w x : Nat} (hw : 0 < w) (hx : x < 2 ^ w) :
    toSigned w x = if x < 2 ^ (w - 1) then (x : Int) else (x : Int) - 2 ^ w := by
  obtain ⟨n, rfl⟩ : ∃ n, w = n + 1 := ⟨w - 1, by omega⟩
  have hpow : 2 ^ (n + 1) = 2 * 2 ^ n := Nat.pow_succ'
  have hsign : bitAt x n = decide (2 ^ n ≤ x) := by
    have hq : x / 2 ^ n < 2 := Nat.div_lt_of_lt_mul (by omega)
    by_cases hx' : 2 ^ n ≤ x
    · have : 1 ≤ x / 2 ^ n := Nat.div_pos hx' (Nat.two_pow_pos n)
      have : x / 2 ^ n = 1 := by omega
      simp [bitAt, this, hx']
    · simp [bitAt, Nat.div_eq_of_lt (Nat.lt_of_not_le hx'), hx']
  rw [toSigned, Nat.add_sub_cancel, hsign, Nat.mod_eq_of_lt hx]
  by_cases hx' : 2 ^ n ≤ x
  · simp [hx', Nat.not_lt.mpr hx']
  · simp [hx', Nat.lt_of_not_le hx']

/-- The types of set I that vector registers hold (R124). -/
def setI : List Nat := [8, 9, 10, 11]

theorem fmtOf_bits_of_setI {ty : Nat} (h : ty ∈ setI) :
    (fmtOf ty).bits = if ty = 11 then 32 else if ty = 10 then 16 else 8 := by
  revert ty; decide

theorem fmtOf_bits_dvd_of_setI {ty : Nat} (h : ty ∈ setI) : (fmtOf ty).bits ∣ 32 := by
  revert ty; decide

/-- Saturation to the range of an integer type (R89, R101). -/
theorem satInt_of_setI {ty : Nat} (h : ty ∈ setI) (x : Int) :
    satInt (fmtOf ty) x = max (if ty = 9 then 0 else -2 ^ ((fmtOf ty).bits - 1))
      (min (if ty = 9 then 255 else 2 ^ ((fmtOf ty).bits - 1) - 1) x) := by
  have hmin : intMin (fmtOf ty) = if ty = 9 then 0 else -2 ^ ((fmtOf ty).bits - 1) := by revert ty; decide
  have hmax : intMax (fmtOf ty) = if ty = 9 then 255 else 2 ^ ((fmtOf ty).bits - 1) - 1 := by revert ty; decide
  rw [satInt, hmin, hmax]

/-- An integer element is signed except for UINT8 (R137). -/
theorem intElem_of_setI {ty x : Nat} (h : ty ∈ setI) (hx : x < 2 ^ (fmtOf ty).bits) :
    intElem ty x = if ty = 9 then (x : Int)
      else if x < 2 ^ ((fmtOf ty).bits - 1) then (x : Int) else (x : Int) - 2 ^ (fmtOf ty).bits := by
  have hpos : 0 < (fmtOf ty).bits := Nat.pos_of_dvd_of_pos (fmtOf_bits_dvd_of_setI h) (by decide)
  by_cases h9 : ty = 9
  · subst h9
    have hx8 : x < 256 := hx
    simp [intElem, Nat.mod_eq_of_lt hx8]
  · simp only [intElem, beq_iff_eq, if_neg h9, toSigned_of_lt hpos hx]

theorem wrapInt_eq (w : Nat) (x : Int) : wrapInt w x = (x % 2 ^ w).toNat := by simp [wrapInt]

/-! Shifts. -/

/-- A left shift by the width or more leaves nothing, which the product modulo 2^w says by itself. -/
theorem shiftLeft_cutoff (a n w : Nat) : (if w ≤ n then 0 else a * 2 ^ n % 2 ^ w) = a * 2 ^ n % 2 ^ w := by
  split
  · next h => rw [Nat.mod_eq_zero_of_dvd (Nat.dvd_mul_left_of_dvd (Nat.pow_dvd_pow 2 h) a)]
  · rfl

theorem shiftRight_cutoff {a w : Nat} (ha : a < 2 ^ w) (n : Nat) : (if w ≤ n then 0 else a / 2 ^ n) = a / 2 ^ n := by
  split
  · next h => rw [Nat.div_eq_of_lt (Nat.lt_of_lt_of_le ha (Nat.pow_le_pow_right (by decide) h))]
  · rfl

/-- An arithmetic right shift by more than the width gives what a shift by the width gives. -/
theorem ediv_two_pow_min {x : Int} {w : Nat} (hlo : -2 ^ w ≤ x) (hhi : x < 2 ^ w) (n : Nat) :
    x / 2 ^ min n w = x / 2 ^ n := by
  obtain h | h := Nat.le_total n w
  · rw [Nat.min_eq_left h]
  · rw [Nat.min_eq_right h]
    have hpow : (2 : Int) ^ w ≤ 2 ^ n := by exact_mod_cast Nat.pow_le_pow_right (n := 2) (by decide) h
    by_cases hx : x < 0
    · rw [Int.ediv_eq_neg_one_of_neg_of_le (b := 2 ^ w) hx (by omega),
        Int.ediv_eq_neg_one_of_neg_of_le (b := 2 ^ n) hx (by omega)]
    · have hx' : 0 ≤ x := Int.not_lt.mp hx
      rw [Int.ediv_eq_zero_of_lt hx' hhi, Int.ediv_eq_zero_of_lt hx' (Int.lt_of_lt_of_le hhi hpow)]

/-- An arithmetic right shift of a code of w bits by n, whatever n is (R138). -/
theorem toSigned_ediv_min {w x : Nat} (hw : 0 < w) (hx : x < 2 ^ w) (n : Nat) :
    toSigned w x / (2 ^ min n w : Nat) = toSigned w x / 2 ^ n := by
  have hx' : (x : Int) < 2 ^ w := by exact_mod_cast hx
  have hlo : -2 ^ w ≤ toSigned w x := by rw [toSigned_of_lt hw hx]; split <;> omega
  have hhi : toSigned w x < 2 ^ w := by rw [toSigned_of_lt hw hx]; split <;> omega
  have hcast : ((2 ^ min n w : Nat) : Int) = 2 ^ min n w := Int.natCast_pow 2 _
  rw [hcast, ediv_two_pow_min hlo hhi]

/-! The shifts as instructions on elements (R138). -/

theorem exec_vshl (h : Hdr) (f : FmtV) (s : State) :
    exec (.vshl h f) s = vecBin (.vshl h f) h f 3 (fun ty a b =>
      if (fmtOf ty).bits ≤ shiftBy f b then 0 else a * 2 ^ shiftBy f b % 2 ^ (fmtOf ty).bits) s := rfl

theorem exec_vshr (h : Hdr) (f : FmtV) (s : State) :
    exec (.vshr h f) s = vecBin (.vshr h f) h f 3 (fun ty a b =>
      if (fmtOf ty).bits ≤ shiftBy f b then 0 else a / 2 ^ shiftBy f b) s := rfl

theorem exec_vsar (h : Hdr) (f : FmtV) (s : State) :
    exec (.vsar h f) s = vecBin (.vsar h f) h f 3 (fun ty a b =>
      wrapInt (fmtOf ty).bits (toSigned (fmtOf ty).bits a / (2 ^ min (shiftBy f b) (fmtOf ty).bits : Nat))) s := rfl

/-- Settles O7: the integer and shift instructions element by element, the bitwise ones lane by lane. -/
theorem vectorIntegerResults : Obligations.VectorIntegerResults := by
  intro s v h f ty hr hty w act a b lo hi sg val out n lane
  have hact : act = s.active v f := (s.active_eq v f).symm
  rw [hact]
  refine ⟨fun hset => ?_, fun _ =>
    ⟨laneOp_completes (g := fun p q => p &&& q) hr rfl, laneOp_completes (g := fun p q => p ||| q) hr rfl,
      laneOp_completes (g := fun p q => p ^^^ q) hr rfl⟩⟩
  have hbits : (fmtOf ty).bits = w := fmtOf_bits_of_setI hset
  have hdvd : w ∣ 32 := hbits ▸ fmtOf_bits_dvd_of_setI hset
  have hpos : 0 < w := Nat.pos_of_dvd_of_pos hdvd (by decide)
  have ha (j) : a j < 2 ^ w := elemOf_lt hpos _ j
  have hb (j) : b j < 2 ^ w := elemOf_lt hpos _ j
  have hval {x} (hx : x < 2 ^ w) : intElem ty x = val x := by
    rw [intElem_of_setI hset (hbits ▸ hx), hbits]
  have hsat (x) : satInt (fmtOf ty) x = max lo (min hi x) := by rw [satInt_of_setI hset, hbits]
  have hint (g) (j) : intOp f g ty (a j) (b j) = out (g (val (a j)) (val (b j))) := by
    rw [intOp, hval (ha j), hval (hb j), wrapInt_eq, hbits, hsat]
  have hsar (j) : wrapInt w (toSigned w (a j) / (2 ^ min (n j) w : Nat)) = (sg (a j) / 2 ^ n j % 2 ^ w).toNat := by
    rw [toSigned_ediv_min hpos (ha j), toSigned_of_lt hpos (ha j), wrapInt_eq]
  refine ⟨vecBin_completes hr rfl hty hbits hdvd (hint (· + ·)), vecBin_completes hr rfl hty hbits hdvd (hint (· - ·)),
    vecBin_completes hr rfl hty hbits hdvd (hint (· * ·)),
    vecBin_completes hr (exec_vshl h f s) hty hbits hdvd (fun j => ?_),
    vecBin_completes hr (exec_vshr h f s) hty hbits hdvd (fun j => ?_),
    vecBin_completes hr (exec_vsar h f s) hty hbits hdvd (fun j => ?_)⟩
  · rw [hbits]; exact shiftLeft_cutoff (a j) (n j) w
  · rw [hbits]; exact shiftRight_cutoff (ha j) (n j)
  · rw [hbits]; exact hsar j

end Sys2Proof.Machine
end
